-- ==== Sys2Proof/Word.lean ====
section
/-! DEFINITION. The widths of the frames and tables of the CD416: bytes, 16-bit table words and 32-bit
counters (spec/11 section 11.2). -/

namespace Sys2Proof

/-- One byte of a frame. -/
abbrev Byte := BitVec 8

/-- One 16-bit word of a settings table, and every two-byte field (R183). -/
abbrev Word := BitVec 16

/-- A seconds-counter value, four bytes (R183). -/
abbrev Long := BitVec 32

end Sys2Proof
end

