-- ==== Sys2Proof/Syntax.lean ====
section
/-! DEFINITION. The commands the CD416 takes: one constructor of `Instr` for each row of
spec/opcode_table.json. Operands are the payload fields of spec/11 section 11.3 and 11.4; what a receiver
ignores of a field (R184) is decided where the field is read, not here. -/

namespace Sys2Proof

/-- The source of a request as stamped by the hub (R171). -/
inductive Origin where
  | radio
  | panel
  deriving DecidableEq, Repr

/-- The two links of the engine (spec/11). -/
inductive LinkId where
  | sensor
  | cabinet
  deriving DecidableEq, Repr

/-- The origin and the request id that every REQUEST carries (R171). -/
structure Req where
  origin : Origin
  id : Byte
  deriving DecidableEq, Repr

/-- The payload of a SAMPLE frame (spec/11 section 11.3): sequence number, status byte, seven signed samples. -/
structure SampleFrame where
  seq : Byte
  status : Byte
  ia : Word
  ib : Word
  ic : Word
  iN : Word
  va : Word
  vb : Word
  vc : Word
  deriving DecidableEq, Repr

/-- The payload of a CABINET frame (spec/11 section 11.3). -/
structure CabinetFrame where
  seq : Byte
  supply : Word
  battery : Word
  current : Word
  temperature : Word
  tripCap : Word
  closeCap : Word
  flags : Byte
  deriving DecidableEq, Repr

/-- The commands: one constructor for each row of spec/opcode_table.json. -/
inductive Instr where
  -- resets
  | powerOn
  | restart
  -- frames
  | sampleFrame (f : SampleFrame)
  | cabinetFrame (f : CabinetFrame)
  | discardedFrame (link : LinkId)
  -- requests
  | badRequest (r : Req) (kind : Byte) (body : List Byte)
  | statusRead (r : Req)
  | timeSet (r : Req) (value : Long)
  | tableUnlock (r : Req) (table : Byte)
  | tableBegin (r : Req) (table : Byte) (length : Byte)
  | tableData (r : Req) (offset : Byte) (words : List Word)
  | tableCommit (r : Req)
  | tableAbort (r : Req)
  | tableRead (r : Req) (table : Byte) (offset : Byte) (count : Byte)
  | groupSelect (r : Req) (group : Byte)
  | select (r : Req) (target : Byte) (token : Word)
  | operateOpen (r : Req) (token : Word)
  | operateClose (r : Req) (token : Word)
  | operateRestart (r : Req) (token : Word)
  | tagPlace (r : Req) (crew : Word) (kind : Byte)
  | tagRemove (r : Req) (crew : Word)
  | tagList (r : Req)
  | batteryTest (r : Req)
  | reportPoll (r : Req)
  | reportAck (r : Req) (number : Word)
  | faultRead (r : Req) (number : Word)
  -- expiries and limits
  | absenceTimerExpiry
  | sensorLossTimerExpiry
  | disagreeTimerExpiry
  | wholeSecond
  | coldLoadTimerExpiry
  | deadTimerExpiry
  | energyWaitTimerExpiry
  | reclaimTimerExpiry
  | tripPulseTimerExpiry
  | closePulseTimerExpiry
  | tripConfirmLimit
  | closeConfirmLimit
  | freshnessTimerExpiry
  | supplyQualifyTimerExpiry
  | cutoffTimerExpiry
  | finalReportTimerExpiry
  | holdTimerExpiry
  | absorbTimerExpiry
  | rebulkTimerExpiry
  | floatFullTimerExpiry
  | testDurationTimerExpiry
  | scheduleRetryTimerExpiry
  | chargerRepeatTimerExpiry
  | ackTimerExpiry (number : Word)
  | statusIntervalTimerExpiry
  | loadingTimerExpiry
  | stateRecordTimerExpiry
  | selectTimerExpiry
  -- ends of longer operations
  | restoreComplete
  | tagWriteComplete (verified : Bool)
  | stateRecordWriteComplete (verified : Bool)
  | tableWriteComplete (verified : Bool)
  -- an OPERATE that matches no selection
  | operateNoSelect (r : Req) (token : Word)
  deriving DecidableEq, Repr

end Sys2Proof
end

