-- ==== Sys2Proof/Machine/Blocks.lean ====
section
/-! DEFINITION. The plain data of the twelve blocks of the CD416 (spec/00 section 1.2): one structure for each
block's state table, and the records they hold. The constructors of every enumeration stand in the order in
which the manual lists its values, which is the order of their codes (R183). -/

namespace Sys2Proof.Machine

/-! ## Timers -/

/-- A timer of the millisecond base (spec/00 section 2.1): `none` is stopped; a running timer has the length it
was started with and the moment of the base, in half milliseconds, at which it expires. -/
structure Countdown where
  length : Nat
  due : Nat
  deriving DecidableEq, Repr

/-- A stopped or running timer. -/
abbrev Timer := Option Countdown

/-! ## Values of seven and of four channels -/

/-- One value for each sample channel IA, IB, IC, IN, VA, VB, VC. -/
structure Channels (α : Type) where
  ia : α
  ib : α
  ic : α
  iN : α
  va : α
  vb : α
  vc : α
  deriving DecidableEq, Repr

/-- One value for each of the four current channels or accumulators A, B, C, N. -/
structure Currents (α : Type) where
  a : α
  b : α
  c : α
  n : α
  deriving DecidableEq, Repr

/-! ## Sample path (R1..R19) -/

/-- Stream state (spec/01 section 1.1). -/
inductive StreamState where
  | absent
  | filling
  | valid
  | stale
  deriving DecidableEq, Repr

/-- Position view (R10). -/
inductive View where
  | opened
  | closed
  | disagree
  | unknown
  deriving DecidableEq, Repr

/-- The status of a SAMPLE frame: the two position indications and the four clip flags (R1, R184). -/
structure SampleStatus where
  openInd : Bool
  closedInd : Bool
  clip : Currents Bool
  deriving DecidableEq, Repr

/-- Sample Interface (spec/01 section 1.1). -/
structure SampleInterface where
  stream : StreamState
  expected : Option Byte
  last : Channels Int
  lastStatus : Option SampleStatus
  run : Nat
  phase : Nat
  absence : Timer
  sensorLoss : Timer
  disagree : Timer
  view : View
  deriving DecidableEq, Repr

/-- Magnitude Unit (R12..R18). A window lists its newest entry first. -/
structure MagnitudeUnit where
  windows : Channels (List Int)
  sums : Channels Nat
  mags : Channels Nat
  clip : Currents Bool
  evalCount : Word
  wholeSecond : Bool
  deriving DecidableEq, Repr

/-! ## Overcurrent Unit (R20..R41) -/

/-- One time-overcurrent accumulator (spec/02 section 2.1). -/
structure Accumulator where
  value : Nat
  picked : Bool
  count : Nat
  deriving DecidableEq, Repr

/-- Overcurrent Unit (spec/02 section 2.1). -/
structure OvercurrentUnit where
  accs : Currents Accumulator
  highSetPhase : Nat
  highSetGround : Nat
  hotLineOver : Bool
  active : Bool
  coldOpen : Bool
  coldTimer : Timer
  deriving DecidableEq, Repr

/-- The element set of a trip decision (R37). -/
structure Elements where
  tocP : Bool
  tocG : Bool
  hsP : Bool
  hsG : Bool
  hl : Bool
  deriving DecidableEq, Repr

/-! ## Sequence Controller (R42..R69) -/

/-- Sequence state (spec/03 section 3.1). -/
inductive SeqState where
  | init
  | idle
  | timing
  | tripping
  | dead
  | closing
  | reclaim
  | lockout
  | mechFail
  deriving DecidableEq, Repr

/-- Trip kind (R49). -/
inductive TripKind where
  | protection
  | startup
  | manual
  | sensor
  deriving DecidableEq, Repr

/-- Close kind (R52, R58), also the kind of a deferred close (R77). -/
inductive CloseKind where
  | reclose
  | manual
  deriving DecidableEq, Repr

/-- Reclaim cause (R56). -/
inductive ReclaimCause where
  | reclose
  | advance
  deriving DecidableEq, Repr

/-- Lockout reason; "none" is the absence of one (spec/03 section 3.1). -/
inductive LockoutReason where
  | restart
  | operations
  | tag
  | manual
  | external
  | energy
  | power
  | position
  | stream
  | sensor
  | mech
  deriving DecidableEq, Repr

/-- A recorded switch position (R44). -/
inductive Recorded where
  | opened
  | closed
  deriving DecidableEq, Repr

/-- Cause of a close notice (R33). -/
inductive CloseCause where
  | manual
  | external
  | reclose
  deriving DecidableEq, Repr

/-- Sequence Controller (spec/03 section 3.1). -/
structure SequenceController where
  state : SeqState
  s : Nat
  latched : Option (Fin 4)
  pendingGroup : Option (Fin 4)
  tripKind : TripKind
  closeKind : CloseKind
  tripRequested : Bool
  reclaimCause : ReclaimCause
  reason : Option LockoutReason
  recorded : Option Recorded
  openClock : Nat
  openClockRuns : Bool
  dead : Timer
  energyWait : Timer
  reclaim : Timer
  deriving DecidableEq, Repr

/-! ## Actuator Control (R70..R87) -/

/-- Which confirm is awaited (spec/04 section 4.1). -/
inductive Supervision where
  | none
  | tripWait
  | closeWait
  deriving DecidableEq, Repr

/-- The confirm timer: stopped, running toward its limit, or suspended with the time it has run (R83). -/
inductive ConfirmTimer where
  | stopped
  | running (t : Countdown)
  | suspended (length elapsed : Nat)
  deriving DecidableEq, Repr

/-- Cause of a mechanism failure, and of a MECH report (R64, R68, R86). -/
inductive MechCause where
  | tripConfirm
  | closeConfirm
  | sensor
  | latch
  | positionUnknown
  deriving DecidableEq, Repr

/-- The items of close permission in their order (R76). -/
inductive PermissionItem where
  | tag
  | position
  | mechanism
  | power
  | stream
  | tripEnergy
  | closeEnergy
  deriving DecidableEq, Repr

/-- Actuator Control (spec/04 section 4.1). -/
structure ActuatorControl where
  trip : Bool
  close : Bool
  tripTimer : Timer
  closeTimer : Timer
  supervision : Supervision
  retry : Bool
  confirm : ConfirmTimer
  heldTrip : Bool
  deferred : Option CloseKind
  latch : Bool
  deriving DecidableEq, Repr

/-! ## Tag Table (R88..R102) -/

/-- Kind of a tag. -/
inductive TagKind where
  | hotLine
  | closeBlock
  deriving DecidableEq, Repr

/-- Record state of a tag. -/
inductive TagState where
  | placing
  | held
  | removing
  deriving DecidableEq, Repr

/-- Write stage of a tag record. -/
inductive WriteStage where
  | none
  | waiting
  | writing
  deriving DecidableEq, Repr

/-- One tag record (spec/05 section 5.1). -/
structure TagRecord where
  crew : Word
  kind : TagKind
  origin : Origin
  placed : Long
  state : TagState
  stage : WriteStage
  request : Option Req
  deriving DecidableEq, Repr

/-- Tag write state (R90). -/
inductive TagWriteState where
  | idle
  | waiting
  | inFlight
  deriving DecidableEq, Repr

/-- Tag Table: six slots, each free or occupied (spec/05 section 5.1). -/
structure TagTable where
  slots : List (Option TagRecord)
  writeState : TagWriteState
  durable : Bool
  deriving DecidableEq, Repr

/-! ## Supply Monitor (R103..R115) -/

/-- Power state (spec/06 section 6.1). -/
inductive PowerState where
  | start
  | normal
  | carry
  | conserve
  | cutoff
  deriving DecidableEq, Repr

/-- Freshness of the cabinet stream (R105). -/
inductive Freshness where
  | fresh
  | stale
  deriving DecidableEq, Repr

/-- Progress of the supply-qualify timer (R106). -/
inductive Qualification where
  | unqualified
  | qualifying
  | qualified
  deriving DecidableEq, Repr

/-- Progress of the shutdown in CUTOFF (R111, R112). -/
inductive CutoffStage where
  | none
  | draining
  | disconnected
  deriving DecidableEq, Repr

/-- Cause of a change of power state (R114). -/
inductive PowerCause where
  | startDone
  | supplyLost
  | supplyQualified
  | socLow
  | healthFailed
  | batteryLow
  | exhausted
  | supplyReturned
  deriving DecidableEq, Repr

/-- The latest measurements (R104): voltages as counts, current and temperature signed. -/
structure Measurements where
  supply : Nat
  battery : Nat
  current : Int
  temperature : Int
  temperatureValid : Bool
  tripCap : Nat
  closeCap : Nat
  deriving DecidableEq, Repr

/-- Supply Monitor (spec/06 section 6.1). `finalSent` records that the final report has been sent (R112). -/
structure SupplyMonitor where
  power : PowerState
  meas : Measurements
  remote : Bool
  chargerFault : Bool
  lastSeq : Option Byte
  freshness : Freshness
  freshTimer : Timer
  present : Bool
  qualification : Qualification
  qualifyTimer : Timer
  cutoffTimer : Timer
  restoreMark : Bool
  stage : CutoffStage
  finalTimer : Timer
  finalReport : Option Word
  finalSent : Bool
  deriving DecidableEq, Repr

/-! ## Battery Unit (R116..R134) -/

/-- Charge state (R123..R126). -/
inductive ChargeState where
  | off
  | bulk
  | absorb
  | float
  | rest
  | test
  deriving DecidableEq, Repr

/-- Temperature state (R121). -/
inductive TempState where
  | valid
  | holding
  | fault
  deriving DecidableEq, Repr

/-- Whether a battery test is under way. -/
inductive TestState where
  | idle
  | running
  deriving DecidableEq, Repr

/-- What started a battery test (R128, R129). -/
inductive TestOrigin where
  | scheduled
  | requested
  deriving DecidableEq, Repr

/-- Result of a battery test (R131, R132). -/
inductive TestResult where
  | none
  | pass
  | fail
  | aborted
  deriving DecidableEq, Repr

/-- Cause of an aborted battery test (R131). -/
inductive AbortCause where
  | sequence
  | supplyLost
  | streamStale
  | tripEnergy
  | temperature
  | chargerFault
  | noLoad
  deriving DecidableEq, Repr

/-- Battery health (R131). -/
inductive Health where
  | good
  | weak
  | failed
  deriving DecidableEq, Repr

/-- Mode of a CHARGER frame (spec/11 section 11.3). -/
inductive ChargerMode where
  | off
  | charge
  | testLoad
  | disconnect
  deriving DecidableEq, Repr

/-- Content of a CHARGER frame: mode, target in mV, limit in mA (R127). -/
structure ChargerContent where
  mode : ChargerMode
  target : Int
  limit : Nat
  deriving DecidableEq, Repr

/-- Battery Unit (spec/07 section 7.1). `heldQ` is the Q that a RESTART holds aside for the restore (R120). -/
structure BatteryUnit where
  charge : ChargeState
  q : Nat
  heldQ : Option Nat
  prevCurrent : Option Int
  tempState : TempState
  heldTemp : Int
  holdTimer : Timer
  absorbTimer : Timer
  rebulkTimer : Timer
  floatFullTimer : Timer
  testState : TestState
  testOrigin : TestOrigin
  vRest : Option Nat
  vMin : Option Nat
  dischargeSum : Int
  frameCount : Nat
  testTimer : Timer
  retryTimer : Timer
  lastResult : TestResult
  lastTime : Option Long
  health : Health
  failCount : Nat
  disconnect : Bool
  repeatTimer : Timer
  sent : ChargerContent
  deriving DecidableEq, Repr

/-! ## Fault Log (R147..R154) -/

/-- Outcome of a fault record (R150). -/
inductive FaultOutcome where
  | tripped
  | coordinated
  | mechFail
  | sensor
  | opened
  deriving DecidableEq, Repr

/-- A kept fault record: the eleven fields of spec/08 section 8.5. -/
structure FaultRecord where
  number : Word
  pickupTime : Long
  group : Fin 4
  s : Nat
  maxima : Currents Nat
  clipped : Bool
  elements : Elements
  channels : Currents Bool
  evaluations : Nat
  outcome : FaultOutcome
  closingTime : Long
  deriving DecidableEq, Repr

/-- The open record: the fields filled while the fault lasts, and whether a trip decision has been taken
into it (R148). -/
structure OpenRecord where
  pickupTime : Long
  group : Fin 4
  s : Nat
  maxima : Currents Nat
  clipped : Bool
  elements : Elements
  channels : Currents Bool
  evaluations : Nat
  decided : Bool
  deriving DecidableEq, Repr

/-- Fault Log: kept records, oldest first (R152). -/
structure FaultLog where
  ring : List FaultRecord
  openRecord : Option OpenRecord
  nextNumber : Word
  deriving DecidableEq, Repr

/-! ## Report Queue (R135..R146) -/

/-- Which of the two resets (R139). -/
inductive ResetKind where
  | powerOn
  | restart
  deriving DecidableEq, Repr

/-- Event of a SENSOR report (R8). -/
inductive SensorEvent where
  | streamStale
  | sensorLoss
  deriving DecidableEq, Repr

/-- Event of a TAG report (R100). -/
inductive TagEvent where
  | placed
  | placeNotDurable
  | removed
  | removeFailed
  | restoredEmpty
  deriving DecidableEq, Repr

/-- Why an image or record was replaced at the restore (R168). -/
inductive ImageCause where
  | missing
  | crc
  | content
  deriving DecidableEq, Repr

/-- What an IMAGE_DEFAULTED report names (R169). -/
inductive ImageName where
  | table (id : Nat)
  | tagImage
  deriving DecidableEq, Repr

/-- The causes that a state-record write gathered (R169). -/
structure WriteCauses where
  group : Bool
  periodic : Bool
  cutoff : Bool
  deriving DecidableEq, Repr

/-- Body of a SETTINGS report, by its event in the order of R169. -/
inductive SettingsBody where
  | commitApplied (table : Nat) (origin : Origin) (verified : Bool)
  | loadTimeout (table : Nat) (origin : Origin) (written : Nat)
  | groupApplied (new previous : Fin 4)
  | stateWriteFailed (causes : WriteCauses)
  | imageDefaulted (image : ImageName) (cause : ImageCause)
  | stateDefaulted (cause : ImageCause)
  deriving DecidableEq, Repr

/-- What a TAG report says of the record it concludes; absent for RESTORED_EMPTY (R100). -/
structure TagReportRecord where
  crew : Word
  kind : TagKind
  origin : Origin
  requester : Option Origin
  placed : Long
  slot : Nat
  deriving DecidableEq, Repr

/-- Body of a BATTERY report (R131). -/
structure BatteryReport where
  origin : TestOrigin
  result : TestResult
  cause : Option AbortCause
  vRest : Option Nat
  vMin : Option Nat
  load : Option Int
  resistance : Option Nat
  workingTemp : Int
  tempState : TempState
  testMinimum : Int
  health : Health
  failCount : Nat
  deriving DecidableEq, Repr

/-- Body of a report, by its kind in the order of spec/08 section 8.1. -/
inductive ReportBody where
  | fault (r : FaultRecord)
  | lockout (reason : LockoutReason) (s : Nat) (group : Fin 4) (left : SeqState) (view : View)
  | recloseOk (s : Nat) (group : Fin 4) (reclaimTime : Nat)
  | mech (cause : MechCause) (state : SeqState) (s : Nat) (view : View)
  | tag (event : TagEvent) (record : Option TagReportRecord) (count : Nat) (durable : Bool)
  | power (new previous : PowerState) (cause : PowerCause) (supply battery soc : Nat) (health : Health)
  | battery (b : BatteryReport)
  | settings (b : SettingsBody)
  | status (currents : Currents Nat) (power : PowerState) (soc : Nat) (seq : SeqState) (tags : Nat) (dropped : Nat) (sensorDiscards cabinetDiscards : Nat)
  | start (kind : ResetKind)
  | sensor (event : SensorEvent) (lastSeq : Byte) (view : View) (prior : StreamState) (staleTime : Nat)
  deriving DecidableEq, Repr

/-- Record state of a report. -/
inductive ReportState where
  | queued
  | sent
  deriving DecidableEq, Repr

/-- One report record (spec/08 section 8.1); its kind is that of its body. -/
structure Report where
  number : Word
  cls : Nat
  needsAck : Bool
  created : Long
  body : ReportBody
  state : ReportState
  sends : Nat
  eligible : Option Nat
  ack : Timer
  deriving DecidableEq, Repr

/-- Report Queue. -/
structure ReportQueue where
  records : List Report
  nextNumber : Word
  budget : Int
  dropped : Nat
  statusTimer : Timer
  deriving DecidableEq, Repr

/-! ## Table Store (R155..R170) -/

/-- A settings table: its 16-bit words by offset (spec/11 section 11.5). -/
abbrev Table := List Word

/-- An image in the NV array: never written, failing its CRC-16, or with a CRC that matches its contents. -/
inductive NvImage (α : Type) where
  | missing
  | badCrc
  | good (content : α)
  deriving DecidableEq, Repr, Inhabited

/-- One record of the tag image (R91). The kind is held as its code, so that contents that break the table's
rules can be written down (R102). -/
structure TagImageRecord where
  crew : Word
  kind : Byte
  origin : Origin
  placed : Long
  deriving DecidableEq, Repr

/-- Contents of the state record (spec/09 section 9.5), enumerations as codes so that contents that fail (R168)
can be written down. -/
structure StateRecord where
  group : Byte
  q : Long
  lastResult : Byte
  lastTime : Option Long
  health : Byte
  failCount : Byte
  deriving DecidableEq, Repr

/-- The non-volatile array (spec/09 section 9.5). The table images are listed by table id; IDENTITY has none. -/
structure NvArray where
  tables : List (NvImage Table)
  tags : NvImage (List TagImageRecord)
  record : NvImage StateRecord
  deriving DecidableEq, Repr

/-- A write the arbiter has granted, with what it writes (R91, R161, R165). -/
inductive NvJob where
  | tag (image : List TagImageRecord)
  | record (r : StateRecord) (causes : WriteCauses)
  | table (id : Nat) (image : Table)
  deriving DecidableEq, Repr

/-- State of the staging buffer (spec/09 section 9.3). -/
inductive BufferState where
  | empty
  | loading
  | pending
  | writing
  deriving DecidableEq, Repr

/-- The staging buffer. `request` is the commit to be answered at NV completion. -/
structure StagingBuffer where
  state : BufferState
  table : Nat
  length : Nat
  origin : Origin
  image : Table
  mask : List Bool
  timer : Timer
  request : Option Req
  deriving DecidableEq, Repr

/-- Table Store (spec/09). `recordWaiting` holds the causes of a waiting state-record write. -/
structure TableStore where
  tables : List Table
  locks : List Bool
  activeGroup : Fin 4
  buffer : StagingBuffer
  nv : NvArray
  inFlight : Option NvJob
  writeTimer : Timer
  recordWaiting : Option WriteCauses
  tableWaiting : Bool
  recordTimer : Timer
  restoreTimer : Timer
  deriving DecidableEq, Repr

/-! ## Command Unit (R171..R179) -/

/-- Target of a selection (R176). -/
inductive Target where
  | opened
  | close
  | restart
  deriving DecidableEq, Repr

/-- A held select slot (spec/10 section 10.1). -/
structure Selection where
  origin : Origin
  target : Target
  token : Word
  deriving DecidableEq, Repr

/-- Command Unit. `restartAfter` is how many frames at the front of the transmitter must still leave before an
operated RESTART follows (R178); `deferredClose` is the OPERATE CLOSE to be answered at the end of the trip
pulse (R77, R173). -/
structure CommandUnit where
  seconds : Long
  slot : Option Selection
  selectTimer : Timer
  restartMark : Bool
  restartAfter : Option Nat
  deferredClose : Option Req
  deriving DecidableEq, Repr

/-! ## Links (R180..R184) -/

/-- An outbound frame as it was formed: kind code and payload bytes (R180). -/
structure OutFrame where
  kind : Byte
  payload : List Byte
  deriving DecidableEq, Repr

/-- A link's receiver (R181): hunting for a start delimiter, or collecting the unstuffed bytes after it;
`escaped` says that the last byte was 7Dh. -/
inductive Receiver where
  | hunting
  | collecting (bytes : List Byte) (escaped : Bool)
  deriving DecidableEq, Repr

/-- The links: discarded-frame counts, receivers, and the transmitter with the part of its first frame that
has left, in fifths of a bit (R181, R182). -/
structure Links where
  sensorDiscards : Nat
  cabinetDiscards : Nat
  sensorRx : Receiver
  cabinetRx : Receiver
  tx : List OutFrame
  txProgress : Nat
  deriving DecidableEq, Repr

/-- Result codes in the order of the table of spec/10 section 10.3 (R183). -/
inductive ResultCode where
  | ok
  | pending
  | none
  | badRequest
  | outOfRange
  | locked
  | busy
  | invalid
  | incomplete
  | remoteDisabled
  | selectHeld
  | noSelect
  | refusedTag
  | refusedPosition
  | refusedMech
  | refusedPower
  | refusedStream
  | refusedEnergy
  | refusedState
  | tagExists
  | tagFull
  | tagUnknown
  | tagBusy
  | tagOrigin
  | unknownReport
  | unknownRecord
  | nvFault
  deriving DecidableEq, Repr

/-- Request kinds in the order of R171; their codes run from 1 (R183). -/
inductive RequestKind where
  | statusRead
  | timeSet
  | tableUnlock
  | tableBegin
  | tableData
  | tableCommit
  | tableAbort
  | tableRead
  | groupSelect
  | select
  | operate
  | tagPlace
  | tagRemove
  | tagList
  | batteryTest
  | reportPoll
  | reportAck
  | faultRead
  deriving DecidableEq, Repr

end Sys2Proof.Machine
end

