-- ==== Sys2Proof/Config.lean ====
section
/-! DEFINITION. The free values of the model: what the spec leaves open although the engine goes on. Each is an
opaque constant, so nothing can be proved of it and a claim holds whatever it is. The ones that differ from
use to use are read at the model's own counter `free` (log 7). -/

namespace Sys2Proof

open Sys2Proof.Machine

/-- What a table write that failed its verify left in the array; `tableLeft` keeps it apart from the image that was
to be written (R161). Log 7. -/
opaque Config.tableAfterFault : Nat → NvImage Table

/-- What a tag write that failed its verify left in the array: "the NV array holds whatever the failed write
left there" (R93). Log 7. -/
opaque Config.tagsAfterFault : Nat → NvImage (List TagImageRecord)

/-- What a state-record write that failed its verify left in the array (R165). Log 7. -/
opaque Config.recordAfterFault : Nat → NvImage StateRecord

/-- Whether a write that completes at a tick of the base matches at its verify (R166). Log 7. -/
opaque Config.writeVerifies : Nat → Bool

/-- The byte that stands for "the tag image" in the table-id field of an IMAGE_DEFAULTED report (R169). Log 11. -/
opaque Config.tagImageCode : Byte

end Sys2Proof
end

