-- ==== Sys2Proof/Machine/Tables.lean ====
section
/-! DEFINITION. The settings tables (spec/09 section 9.1, spec/11 section 11.5): reading their fields, their ROM
defaults, and validation by R156. Nothing here reads the state of the engine. -/

namespace Sys2Proof.Machine

/-! ## Reading words -/

/-- The word at an offset; words past the end read 0. -/
def wordAt (t : Table) (i : Nat) : Word := t.getD i 0

/-- An unsigned one-word field. -/
def field (t : Table) (i : Nat) : Nat := (wordAt t i).toNat

/-- A signed one-word field (R183). -/
def signedField (t : Table) (i : Nat) : Int := (wordAt t i).toInt

/-- A field of two consecutive words, most significant first (spec/09 section 9.1). -/
def field2 (t : Table) (i : Nat) : Nat := field t i * 65536 + field t (i + 1)

/-- High byte of a word of a table. -/
def highField (t : Table) (i : Nat) : Nat := field t i / 256

/-- Low byte of a word of a table. -/
def lowField (t : Table) (i : Nat) : Nat := field t i % 256

/-! ## UNIT fields (spec/09 section 9.1.1) -/

def nominalFrequency (t : Table) : Nat := field t 0
/-- In 0.1 s. -/
def sensorLossTime (t : Table) : Nat := field t 1
/-- `true` is TRIP (0), `false` is HOLD (1). -/
def sensorLossTrips (t : Table) : Bool := field t 2 == 0
/-- In s. -/
def closeEnergyWait (t : Table) : Nat := field t 3
def tripPulseWidth (t : Table) : Nat := field t 4
def closePulseWidth (t : Table) : Nat := field t 5
def tripConfirmLimit (t : Table) : Nat := field t 6
def closeConfirmLimit (t : Table) : Nat := field t 7
def tripReadyLevel (t : Table) : Nat := field t 8
def closeReadyLevel (t : Table) : Nat := field t 9
def supplyPresentLevel (t : Table) : Nat := field t 10
/-- In s. -/
def supplyQualifyTime (t : Table) : Nat := field t 11
/-- In s. -/
def statusInterval (t : Table) : Nat := field2 t 12
def airtimeCeiling (t : Table) : Nat := field t 14
def refillRate (t : Table) : Nat := field t 15
def carryThreshold (t : Table) : Nat := field t 16
/-- In s. -/
def ackTimeout (t : Table) : Nat := field t 17

/-! ## BATTERY fields (spec/07 section 7.1) -/

/-- In 0.1 Ah. -/
def capacity (t : Table) : Nat := field t 0
def bulkLimit (t : Table) : Nat := field t 1
/-- In 10 mV. -/
def absorbVoltage (t : Table) : Nat := field t 2
/-- In 10 mV. -/
def floatVoltage (t : Table) : Nat := field t 3
def compensation (t : Table) : Nat := field t 4
def absorbEndCurrent (t : Table) : Nat := field t 5
/-- In h. -/
def absorbMaxTime (t : Table) : Nat := field t 6
def windowLow (t : Table) : Int := signedField t 7
def windowHigh (t : Table) : Nat := field t 8
def conserveLevel (t : Table) : Nat := field t 9
/-- In 10 mV. -/
def cutoffVoltage (t : Table) : Nat := field t 10
/-- In days. -/
def testInterval (t : Table) : Nat := field t 11
/-- In s. -/
def testDuration (t : Table) : Nat := field t 12
/-- In 10 mV. -/
def testMinimumVoltage (t : Table) : Nat := field t 13

/-- Qmax: the capacity in 0.1 Ah units times 360,000 (R120). -/
def qMax (t : Table) : Nat := capacity t * 360000

/-! ## GROUP fields (spec/09 section 9.1.3) -/

def phasePickup (t : Table) : Nat := field t 0
def groundPickup (t : Table) : Nat := field t 1
def phaseHighSet (t : Table) : Nat := field t 2
def groundHighSet (t : Table) : Nat := field t 3
def highSetCount (t : Table) : Nat := field t 4
def hotLinePhase (t : Table) : Nat := field t 5
def hotLineGround (t : Table) : Nat := field t 6
def opsToLockout (t : Table) : Nat := field t 7
/-- d_k for k = 1, 2, 3, in 10 ms. -/
def deadTime (t : Table) (k : Nat) : Nat := field t (7 + k)
/-- In s. -/
def reclaimTime (t : Table) : Nat := field t 11

/-- Operation entry k = 1..4 stands at word 12 + 2 (k - 1). -/
def entryOffset (k : Nat) : Nat := 12 + 2 * (k - 1)
def entryPhaseCurve (t : Table) (k : Nat) : Nat := highField t (entryOffset k)
def entryGroundCurve (t : Table) (k : Nat) : Nat := lowField t (entryOffset k)
def entryHighSet (t : Table) (k : Nat) : Bool := highField t (entryOffset k + 1) != 0
def entryCoordinating (t : Table) (k : Nat) : Bool := lowField t (entryOffset k + 1) != 0
def coldLoadMultiplier (t : Table) : Nat := field t 20
/-- In s. -/
def coldLoadTime (t : Table) : Nat := field t 21
/-- In s. -/
def coldLoadQualify (t : Table) : Nat := field t 22

/-! ## CURVE fields (spec/09 section 9.1.4) -/

def pointCount (t : Table) : Nat := field t 0
/-- `true` is DECAY (1), `false` is INSTANT (0). -/
def curveDecays (t : Table) : Bool := field t 1 != 0
def resetRate (t : Table) : Nat := field2 t 2
def minimumResponse (t : Table) : Nat := field t 4
/-- m_k: the high byte of the point's first word holds m_k / 4. -/
def pointMultiple (t : Table) (k : Nat) : Nat := highField t (6 + 2 * k) * 4
/-- r_k: the low byte of the first word and the second word hold r_k - 1 in 24 bits. -/
def pointRate (t : Table) (k : Nat) : Nat := lowField t (6 + 2 * k) * 65536 + field t (7 + 2 * k) + 1

/-! ## Table kinds and lengths (spec/09 section 9.1) -/

/-- Kind of a table by its id. -/
inductive TableKind where
  | identity
  | unit
  | battery
  | group
  | curve
  deriving DecidableEq, Repr

/-- Kind of the table with an id in 0..14. -/
def tableKind (id : Nat) : TableKind :=
  if id = 0 then .identity
  else if id = 1 then .unit
  else if id = 2 then .battery
  else if id ≤ 6 then .group
  else .curve

/-- Whether a length fits the table kind (R158). -/
def lengthFits (id len : Nat) : Bool :=
  match tableKind id with
  | .identity => false
  | .unit => len == 32
  | .battery => len == 24
  | .group => len == 40
  | .curve => len % 2 == 0 && 10 ≤ len && len ≤ 70

/-! ## ROM defaults -/

/-- IDENTITY (R155, spec/11 section 11.5). The revision letter is the one the manual shows, "A" (log 10). -/
def romIdentity : Table := [416, 0x41, 6, 32, 16, 8, 4, 32, 50, 60, 0, 0, 0, 0, 0, 0]

/-- The UNIT defaults of spec/09 section 9.1.1. -/
def romUnit : Table :=
  [60, 20, 0, 10, 40, 60, 100, 150, 1800, 2000, 900, 30, 0, 3600, 1200, 12, 2, 30] ++ List.replicate 14 0

/-- The BATTERY defaults of spec/07 section 7.1; 65516 is -20. -/
def romBattery : Table :=
  [400, 4000, 2880, 2700, 36, 400, 4, 65516, 45, 30, 2100, 30, 30, 2300] ++ List.replicate 10 0

/-- The GROUP defaults of R168. -/
def romGroup : Table :=
  [400, 100, 0, 0, 2, 40, 20, 1, 0, 0, 0, 30, 0, 0, 0, 0, 0, 0, 0, 0, 8, 0, 3600] ++ List.replicate 17 0

/-- The CURVE defaults of R168: points (16, 1,000) and (640, 139,810), Tmin 0, INSTANT. The reset rate, which the
spec does not state, is 1 (log 9). -/
def romCurve : Table := [2, 0, 0, 1, 0, 0, 1024, 999, 40962, 8737]

/-- The fifteen ROM defaults by table id. -/
def romTables : List Table :=
  [romIdentity, romUnit, romBattery, romGroup, romGroup, romGroup, romGroup,
   romCurve, romCurve, romCurve, romCurve, romCurve, romCurve, romCurve, romCurve]

/-- ROM default of one table. -/
def romTable (id : Nat) : Table := romTables.getD id []

/-! ## Validation (R156) -/

/-- `lo ≤ v ≤ hi`. -/
def inRange (lo v hi : Nat) : Bool := lo ≤ v && v ≤ hi

/-- Whether the word at an offset of a UNIT image breaks no rule charged to it. A two-word field is charged to
its first word (log 15). -/
def unitWordOk (t : Table) (i : Nat) : Bool :=
  let v := field t i
  match i with
  | 0 => v == 50 || v == 60
  | 1 => inRange 5 v 100
  | 2 => v ≤ 1
  | 3 => v ≤ 30
  | 4 => inRange 20 v 100
  | 5 => inRange 30 v 150
  | 6 => inRange 50 v 250
  | 7 => inRange 80 v 300
  | 8 => inRange 1000 v 2500
  | 9 => inRange 1000 v 3000
  | 10 => inRange 500 v 2500
  | 11 => inRange 5 v 300
  | 12 => inRange 60 (statusInterval t) 86400
  | 13 => true
  | 14 => inRange 100 v 4000
  | 15 => inRange 1 v 100
  | 16 => v ≤ 7
  | 17 => inRange 10 v 300
  | _ => v == 0

/-- The same for a BATTERY image; each relation is charged to its later word (R156). -/
def batteryWordOk (t : Table) (i : Nat) : Bool :=
  let v := field t i
  match i with
  | 0 => inRange 10 v 2000
  | 1 => inRange 100 v 20000
  | 2 => inRange 1000 v 3200
  | 3 => inRange 1000 v 3200 && v ≤ absorbVoltage t
  | 4 => v ≤ 60
  | 5 => inRange 10 v 5000
  | 6 => inRange 1 v 12
  | 7 => decide (-30 ≤ windowLow t) && decide (windowLow t ≤ 0)
  | 8 => inRange 35 v 60 && decide (windowLow t < v)
  | 9 => inRange 10 v 60
  | 10 => inRange 800 v 2600 && decide (v < floatVoltage t)
  | 11 => v ≤ 90
  | 12 => inRange 10 v 60
  | 13 => inRange 800 v 3000
  | _ => v == 0

/-- The same for a dead time d_k: 0 or 20..18000, and not 0 where L needs it (R156). -/
def deadTimeOk (t : Table) (k : Nat) : Bool :=
  (deadTime t k == 0 || inRange 20 (deadTime t k) 18000) && !(decide (k < opsToLockout t) && deadTime t k == 0)

/-- The same for a GROUP image. -/
def groupWordOk (t : Table) (i : Nat) : Bool :=
  let v := field t i
  match i with
  | 0 => inRange 10 v 1600
  | 1 => inRange 5 v 800
  | 2 => v == 0 || inRange (phasePickup t) v 16000
  | 3 => v == 0 || inRange (groundPickup t) v 8000
  | 4 => inRange 1 v 8
  | 5 => inRange 10 v 1600
  | 6 => inRange 5 v 800
  | 7 => inRange 1 v 4
  | 8 => deadTimeOk t 1
  | 9 => deadTimeOk t 2
  | 10 => deadTimeOk t 3
  | 11 => inRange 1 v 180
  | 12 | 14 | 16 | 18 => highField t i ≤ 7 && lowField t i ≤ 7
  | 13 | 15 | 17 | 19 => highField t i ≤ 1 && lowField t i ≤ 1
  | 20 => inRange 8 v 32
  | 21 => v ≤ 1800
  | 22 => inRange 60 v 7200
  | _ => v == 0

/-- The same for the first word of point k of a CURVE image: the multiple in range, m_0 = 16, the multiples
ascending, and the rates not falling. -/
def pointOk (t : Table) (k : Nat) : Bool :=
  inRange 16 (pointMultiple t k) 640 &&
    (if k = 0 then pointMultiple t 0 == 16
     else decide (pointMultiple t (k - 1) < pointMultiple t k) && pointRate t (k - 1) ≤ pointRate t k)

/-- The same for a CURVE image. -/
def curveWordOk (t : Table) (i : Nat) : Bool :=
  let v := field t i
  match i with
  | 0 => inRange 2 v 32 && v == (t.length - 6) / 2
  | 1 => v ≤ 1
  | 2 => inRange 1 (resetRate t) 16777216
  | 3 => true
  | 4 => v ≤ 2400
  | 5 => v == 0
  | i + 6 => if i % 2 = 0 then pointOk t (i / 2) else true

/-- Whether the word at an offset of a staged image breaks no rule charged to it. -/
def wordOk (id : Nat) (t : Table) (i : Nat) : Bool :=
  match tableKind id with
  | .identity => true
  | .unit => unitWordOk t i
  | .battery => batteryWordOk t i
  | .group => groupWordOk t i
  | .curve => curveWordOk t i

/-- The offset charged: the lowest word that breaks a rule, if one does (R156). -/
def firstInvalid (id : Nat) (t : Table) : Option Nat :=
  (List.range t.length).find? (fun i => !wordOk id t i)

/-- An image that fits its kind and breaks no rule. -/
def imageValid (id : Nat) (t : Table) : Bool := lengthFits id t.length && (firstInvalid id t).isNone

end Sys2Proof.Machine
end

