-- ==== Sys2Proof/Machine/Formats.lean ====
section
/-! DEFINITION. The formats of spec/11: byte order and field sizes (R183), CRC-16 and byte stuffing (R180), and the
bodies of the report kinds. Nothing here reads the state of the engine. -/

namespace Sys2Proof.Machine

/-! ## Fields (R183): most significant byte first, absent fields all ones -/

def hiByte (w : Word) : Byte := w.extractLsb' 8 8
def loByte (w : Word) : Byte := w.extractLsb' 0 8

/-- A two-byte field read most significant byte first. -/
def wordOf (h l : Byte) : Word := h ++ l

/-- A four-byte field read most significant byte first. -/
def longOf (a b c d : Byte) : Long := (a ++ b) ++ (c ++ d)

/-- A one-byte field. -/
def enc1 (n : Nat) : List Byte := [BitVec.ofNat 8 n]
/-- A two-byte field. -/
def encWord (w : Word) : List Byte := [hiByte w, loByte w]
/-- A two-byte unsigned field. -/
def enc2 (n : Nat) : List Byte := encWord (BitVec.ofNat 16 n)
/-- A two-byte signed field, two's complement. -/
def encInt (i : Int) : List Byte := encWord (BitVec.ofInt 16 i)
/-- A four-byte field. -/
def encLong (l : Long) : List Byte :=
  [l.extractLsb' 24 8, l.extractLsb' 16 8, l.extractLsb' 8 8, l.extractLsb' 0 8]
/-- A flag. -/
def encFlag (b : Bool) : List Byte := enc1 b.toNat
/-- An absent one-, two- or four-byte field. -/
def absent1 : List Byte := [0xFF]
def absent2 : List Byte := [0xFF, 0xFF]
def absent4 : List Byte := [0xFF, 0xFF, 0xFF, 0xFF]

/-- An optional field: absent when there is none. -/
def encOpt {α : Type} (absent : List Byte) (enc : α → List Byte) : Option α → List Byte
  | none => absent
  | some a => enc a

/-- A set of four channels, bit 0 for the first (R183). -/
def encChannels (c : Currents Bool) : List Byte :=
  enc1 (c.a.toNat + 2 * c.b.toNat + 4 * c.c.toNat + 8 * c.n.toNat)

/-- The element set in the order TOC_P, TOC_G, HS_P, HS_G, HL. -/
def encElements (e : Elements) : List Byte :=
  enc1 (e.tocP.toNat + 2 * e.tocG.toNat + 4 * e.hsP.toNat + 8 * e.hsG.toNat + 16 * e.hl.toNat)

/-- The four current magnitudes. -/
def encCurrents (c : Currents Nat) : List Byte := enc2 c.a ++ enc2 c.b ++ enc2 c.c ++ enc2 c.n

/-- Code of an origin (spec/11 section 11.3). -/
def originCode : Origin → Nat
  | .radio => 0
  | .panel => 1

/-- Code of a result (R183). -/
def resultCode (c : ResultCode) : Byte := BitVec.ofNat 8 c.ctorIdx

/-- Code of a request kind, from 1 (R183). -/
def requestCode (k : RequestKind) : Byte := BitVec.ofNat 8 (k.ctorIdx + 1)

/-! ## CRC-16 (R180): x^16+x^12+x^5+1, start FFFFh, most significant bit first, not inverted -/

/-- One bit of a byte, taken into the CRC. -/
def crcBit (crc : Word) : Word :=
  if crc.msb then (crc <<< 1) ^^^ 0x1021 else crc <<< 1

/-- One byte taken into the CRC. -/
def crcByte (crc : Word) (b : Byte) : Word :=
  let c := crc ^^^ (b ++ (0 : Byte))
  crcBit (crcBit (crcBit (crcBit (crcBit (crcBit (crcBit (crcBit c)))))))

/-- CRC-16 of a list of bytes. -/
def crc16 (bs : List Byte) : Word := bs.foldl crcByte 0xFFFF

/-! ## The envelope (spec/11 section 11.1) -/

/-- The start delimiter. -/
def delimiter : Byte := 0x7E

/-- Byte stuffing of one byte (R180). -/
def stuffByte (b : Byte) : List Byte :=
  if b = 0x7E then [0x7D, 0x5E] else if b = 0x7D then [0x7D, 0x5D] else [b]

/-- Kind, length and payload: the bytes the CRC covers. -/
def OutFrame.covered (f : OutFrame) : List Byte := f.kind :: BitVec.ofNat 8 f.payload.length :: f.payload

/-- The bytes after the start delimiter before stuffing. -/
def OutFrame.unstuffed (f : OutFrame) : List Byte := f.covered ++ encWord (crc16 f.covered)

/-- The bytes sent on the link. -/
def OutFrame.wire (f : OutFrame) : List Byte := delimiter :: f.unstuffed.flatMap stuffByte

/-- The sent length of a frame (R180), which is its cost (R142). -/
def OutFrame.size (f : OutFrame) : Nat := f.wire.length

/-- Kind codes of the outbound frames (spec/11 section 11.1). -/
def kindMetering : Byte := 0x31
def kindCharger : Byte := 0x32
def kindResponse : Byte := 0x33
def kindReport : Byte := 0x34

/-! ## Bodies of the reports, each in the order its rule lists the fields -/

/-- The 26 bytes of a fault record (spec/08 section 8.5). -/
def encFault (r : FaultRecord) : List Byte :=
  encWord r.number ++ encLong r.pickupTime ++ enc1 r.group ++ enc1 r.s ++ encCurrents r.maxima ++ encFlag r.clipped
    ++ encElements r.elements ++ encChannels r.channels ++ enc2 r.evaluations ++ enc1 r.outcome.ctorIdx
    ++ encLong r.closingTime

/-- TAG: the event, then the fields of R100 in the order of the PLACED row, in a RESTORED_EMPTY body too, with the absent ones
as all ones; the event's place and that order are the model's choice (log 13). -/
def encTagReport (e : TagEvent) (r : Option TagReportRecord) (count : Nat) (durable : Bool) : List Byte :=
  enc1 e.ctorIdx
    ++ (match r with
        | none => absent2 ++ absent1 ++ absent1 ++ absent1 ++ absent4 ++ absent1
        | some r => encWord r.crew ++ enc1 r.kind.ctorIdx ++ enc1 (originCode r.origin)
            ++ encOpt absent1 (fun o => enc1 (originCode o)) r.requester ++ encLong r.placed ++ enc1 r.slot)
    ++ enc1 count ++ encFlag durable

/-- BATTERY (R131); the result has the codes of the last test result (log 14). -/
def encBatteryReport (b : BatteryReport) : List Byte :=
  enc1 b.origin.ctorIdx ++ enc1 b.result.ctorIdx ++ encOpt absent1 (fun c : AbortCause => enc1 c.ctorIdx) b.cause
    ++ encOpt absent2 enc2 b.vRest ++ encOpt absent2 enc2 b.vMin ++ encOpt absent2 encInt b.load
    ++ encOpt absent2 enc2 b.resistance ++ encInt b.workingTemp ++ enc1 b.tempState.ctorIdx ++ encInt b.testMinimum
    ++ enc1 b.health.ctorIdx ++ enc1 b.failCount

/-- The image an IMAGE_DEFAULTED report names; the code of the tag image is a free value (log 11). -/
def encImageName : ImageName → List Byte
  | .table id => enc1 id
  | .tagImage => [Config.tagImageCode]

/-- SETTINGS: the event, then the fields the event gives (R169); results have their result codes (log 14). -/
def encSettings (b : SettingsBody) : List Byte :=
  enc1 b.ctorIdx ++
    match b with
    | .commitApplied t o v => enc1 t ++ enc1 (originCode o) ++ [resultCode (if v then .ok else .nvFault)]
    | .loadTimeout t o n => enc1 t ++ enc1 (originCode o) ++ enc1 n
    | .groupApplied n p => enc1 n ++ enc1 p
    | .stateWriteFailed c => enc1 (c.group.toNat + 2 * c.periodic.toNat + 4 * c.cutoff.toNat)
    | .imageDefaulted i c => encImageName i ++ enc1 c.ctorIdx
    | .stateDefaulted c => enc1 c.ctorIdx

/-- Body of a report (R8, R68, R86, R100, R114, R131, R137, R139, R152, R169). -/
def ReportBody.encode : ReportBody → List Byte
  | .fault r => encFault r
  | .lockout reason s g l v => enc1 reason.ctorIdx ++ enc1 s ++ enc1 g ++ enc1 l.ctorIdx ++ enc1 v.ctorIdx
  | .recloseOk s g t => enc1 s ++ enc1 g ++ enc1 t
  | .mech c st s v => enc1 c.ctorIdx ++ enc1 st.ctorIdx ++ enc1 s ++ enc1 v.ctorIdx
  | .tag e r n d => encTagReport e r n d
  | .power n p c sv bv soc h => enc1 n.ctorIdx ++ enc1 p.ctorIdx ++ enc1 c.ctorIdx ++ enc2 sv ++ enc2 bv ++ enc1 soc ++ enc1 h.ctorIdx
  | .battery b => encBatteryReport b
  | .settings b => encSettings b
  | .status c p soc q n d a b => encCurrents c ++ enc1 p.ctorIdx ++ enc1 soc ++ enc1 q.ctorIdx ++ enc1 n ++ enc1 d ++ enc2 a ++ enc2 b
  | .start k => enc1 k.ctorIdx
  | .sensor e n v p t => enc1 e.ctorIdx ++ [n] ++ enc1 v.ctorIdx ++ enc1 p.ctorIdx ++ enc1 t

/-- Whether a body is that of a STATUS report. -/
def ReportBody.isStatus : ReportBody → Bool
  | .status .. => true
  | _ => false

/-- The REPORT frame that carries a record (spec/11 section 11.3). -/
def Report.frame (r : Report) : OutFrame :=
  { kind := kindReport,
    payload := encWord r.number ++ enc1 r.body.ctorIdx ++ enc1 r.cls ++ encFlag r.needsAck ++ encLong r.created ++ r.body.encode }

/-- The CHARGER frame of a content (spec/11 section 11.3). -/
def ChargerContent.frame (c : ChargerContent) : OutFrame :=
  { kind := kindCharger, payload := enc1 c.mode.ctorIdx ++ encInt c.target ++ enc2 c.limit }

/-- A RESPONSE frame: request id, request kind code, result code, body. -/
def responseFrame (id kind : Byte) (code : ResultCode) (body : List Byte) : OutFrame :=
  { kind := kindResponse, payload := id :: kind :: resultCode code :: body }

end Sys2Proof.Machine
end

