-- ==== Sys2Proof/Machine/Parsing.lean ====
section
/-! DEFINITION. REQUEST, SAMPLE and CABINET payloads as commands, in both directions (R171, spec/11 sections 11.3 and
11.4). -/

namespace Sys2Proof.Machine

/-! ## Reading -/

/-- Bytes read two by two as words; none for an odd number of bytes. -/
def wordsOf : List Byte → Option (List Word)
  | [] => some []
  | [_] => none
  | h :: l :: rest => (wordsOf rest).map (wordOf h l :: ·)

/-- The words of a TABLE_DATA body, where the count is at most 48 and agrees with the length (R171). -/
def countedWords (n : Byte) (rest : List Byte) : Option (List Word) :=
  if n.toNat ≤ 48 ∧ rest.length = 2 * n.toNat then wordsOf rest else none

/-- A request body of the length its kind defines, as a command; an OPERATE is given the row of an unmatched one, for all
four rows of OPERATE are one request (R178). -/
def parseBody (r : Req) (kind : Nat) (body : List Byte) : Option Instr :=
  match kind, body with
  | 1, [] => some (.statusRead r)
  | 2, [a, b, c, d] => some (.timeSet r (longOf a b c d))
  | 3, [t] => some (.tableUnlock r t)
  | 4, [t, l] => some (.tableBegin r t l)
  | 5, o :: n :: rest => (countedWords n rest).map (.tableData r o ·)
  | 6, [] => some (.tableCommit r)
  | 7, [] => some (.tableAbort r)
  | 8, [t, o, n] => some (.tableRead r t o n)
  | 9, [g] => some (.groupSelect r g)
  | 10, [t, a, b] => some (.select r t (wordOf a b))
  | 11, [a, b] => some (.operateNoSelect r (wordOf a b))
  | 12, [a, b, k] => some (.tagPlace r (wordOf a b) k)
  | 13, [a, b] => some (.tagRemove r (wordOf a b))
  | 14, [] => some (.tagList r)
  | 15, [] => some (.batteryTest r)
  | 16, [] => some (.reportPoll r)
  | 17, [a, b] => some (.reportAck r (wordOf a b))
  | 18, [a, b] => some (.faultRead r (wordOf a b))
  | _, _ => none

/-- A request; an unknown kind or a wrong body length is a BAD_REQUEST (R171). -/
def parseRequest (r : Req) (kind : Byte) (body : List Byte) : Instr :=
  (parseBody r kind.toNat body).getD (.badRequest r kind body)

/-- Origin by its code (spec/11 section 11.3). -/
def originOf (b : Byte) : Option Origin := if b = 0 then some .radio else if b = 1 then some .panel else none

/-- A REQUEST payload; an origin other than 0 or 1 discards the frame (R181). -/
def parseRequestPayload : List Byte → Option Instr
  | o :: id :: kind :: body => (originOf o).map fun g => parseRequest ⟨g, id⟩ kind body
  | _ => none

/-- A SAMPLE payload. -/
def parseSample : List Byte → Option Instr
  | [n, st, a0, a1, b0, b1, c0, c1, n0, n1, x0, x1, y0, y1, z0, z1] =>
    some (.sampleFrame ⟨n, st, wordOf a0 a1, wordOf b0 b1, wordOf c0 c1, wordOf n0 n1, wordOf x0 x1, wordOf y0 y1,
      wordOf z0 z1⟩)
  | _ => none

/-- A CABINET payload. -/
def parseCabinet : List Byte → Option Instr
  | [n, s0, s1, b0, b1, i0, i1, t0, t1, p0, p1, c0, c1, fl] =>
    some (.cabinetFrame ⟨n, wordOf s0 s1, wordOf b0 b1, wordOf i0 i1, wordOf t0 t1, wordOf p0 p1, wordOf c0 c1, fl⟩)
  | _ => none

/-! ## Writing -/

/-- Kind code and body of a request. -/
def requestBody : Instr → Option (Req × Byte × List Byte)
  | .badRequest r k b => some (r, k, b)
  | .statusRead r => some (r, 1, [])
  | .timeSet r v => some (r, 2, encLong v)
  | .tableUnlock r t => some (r, 3, [t])
  | .tableBegin r t l => some (r, 4, [t, l])
  | .tableData r o ws => some (r, 5, o :: BitVec.ofNat 8 ws.length :: ws.flatMap encWord)
  | .tableCommit r => some (r, 6, [])
  | .tableAbort r => some (r, 7, [])
  | .tableRead r t o n => some (r, 8, [t, o, n])
  | .groupSelect r g => some (r, 9, [g])
  | .select r t k => some (r, 10, t :: encWord k)
  | .operateOpen r k => some (r, 11, encWord k)
  | .operateClose r k => some (r, 11, encWord k)
  | .operateRestart r k => some (r, 11, encWord k)
  | .operateNoSelect r k => some (r, 11, encWord k)
  | .tagPlace r c k => some (r, 12, encWord c ++ [k])
  | .tagRemove r c => some (r, 13, encWord c)
  | .tagList r => some (r, 14, [])
  | .batteryTest r => some (r, 15, [])
  | .reportPoll r => some (r, 16, [])
  | .reportAck r n => some (r, 17, encWord n)
  | .faultRead r n => some (r, 18, encWord n)
  | _ => none

/-- The REQUEST payload of a request. -/
def requestPayload (i : Instr) : Option (List Byte) :=
  (requestBody i).map fun p => BitVec.ofNat 8 (originCode p.1.origin) :: p.1.id :: p.2.1 :: p.2.2

/-- The payload of a SAMPLE frame. -/
def samplePayload (f : SampleFrame) : List Byte :=
  [f.seq, f.status] ++ encWord f.ia ++ encWord f.ib ++ encWord f.ic ++ encWord f.iN ++ encWord f.va ++ encWord f.vb ++ encWord f.vc

/-- The payload of a CABINET frame. -/
def cabinetPayload (f : CabinetFrame) : List Byte :=
  [f.seq] ++ encWord f.supply ++ encWord f.battery ++ encWord f.current ++ encWord f.temperature ++ encWord f.tripCap
    ++ encWord f.closeCap ++ [f.flags]

end Sys2Proof.Machine

/-- A request as the receiver forms it: the four rows of OPERATE are one request (R178). -/
def Sys2Proof.Instr.asReceived : Sys2Proof.Instr → Sys2Proof.Instr
  | .operateOpen r k => .operateNoSelect r k
  | .operateClose r k => .operateNoSelect r k
  | .operateRestart r k => .operateNoSelect r k
  | i => i
end

