-- ==== Sys2Proof/WellFormed.lean ====
section
/-! DEFINITION. Which commands can arrive: the bounds that the envelope and the dispatch put on the operands (R171, R181,
spec/11 sections 11.1 and 11.4). Values outside the range of a field are no matter of form: their block answers them. -/

namespace Sys2Proof

open Sys2Proof.Machine

/-- A TABLE_DATA request carries at most 48 words; a larger count is a BAD_REQUEST (R171). -/
def dataWordsOk (ws : List Word) : Bool := decide (ws.length ≤ 48)

/-- A BAD_REQUEST has a body of at most 117 bytes that no kind's length fits (R171). -/
def badRequestOk (r : Req) (kind : Byte) (body : List Byte) : Bool :=
  decide (body.length ≤ 117) && (parseBody r kind.toNat body).isNone

/-- The command is well formed. -/
def WellFormed : Instr → Bool
  | .tableData _ _ ws => dataWordsOk ws
  | .badRequest r kind body => badRequestOk r kind body
  | _ => true

end Sys2Proof
end

