-- ==== Sys2Proof/Machine/Operands.lean ====
section
/-! DEFINITION. Reading the operands of the commands: SAMPLE and CABINET payloads (R184), and the arithmetic that
turns them into quantities. Nothing here reads the state of the engine. -/

namespace Sys2Proof.Machine

/-! ## SAMPLE frames -/

/-- A sample as the Sample Interface takes it: -32768 is taken as -32767 (R1). -/
def sampleValue (w : Word) : Int := max (-32767) w.toInt

/-- The status byte; bits 6 and 7 are ignored (R184). -/
def sampleStatus (b : Byte) : SampleStatus :=
  { openInd := b.getLsbD 0, closedInd := b.getLsbD 1,
    clip := { a := b.getLsbD 2, b := b.getLsbD 3, c := b.getLsbD 4, n := b.getLsbD 5 } }

/-- The seven samples of a frame. -/
def frameSamples (f : SampleFrame) : Channels Int :=
  { ia := sampleValue f.ia, ib := sampleValue f.ib, ic := sampleValue f.ic, iN := sampleValue f.iN,
    va := sampleValue f.va, vb := sampleValue f.vb, vc := sampleValue f.vc }

/-- A sequence number less another, mod 256 (R3, R103). -/
def seqDelta (a b : Byte) : Nat := (a - b).toNat

/-- Raw position of a status: OPEN or CLOSED for a clean reading, none for DISAGREE (R10). -/
def rawPosition (st : SampleStatus) : Option Recorded :=
  match st.openInd, st.closedInd with
  | true, false => some .opened
  | false, true => some .closed
  | _, _ => none

/-- The position view after a raw position (R10). -/
def nextView (v : View) (raw : Option Recorded) : View :=
  match raw with
  | some .opened => .opened
  | some .closed => .closed
  | none => if v = .unknown then .unknown else .disagree

/-! ## Values of channels -/

/-- A function applied to every channel. -/
def Channels.map {α β : Type} (f : α → β) (c : Channels α) : Channels β :=
  ⟨f c.ia, f c.ib, f c.ic, f c.iN, f c.va, f c.vb, f c.vc⟩

/-- Two channel values combined. -/
def Channels.zip {α β γ : Type} (f : α → β → γ) (a : Channels α) (b : Channels β) : Channels γ :=
  ⟨f a.ia b.ia, f a.ib b.ib, f a.ic b.ic, f a.iN b.iN, f a.va b.va, f a.vb b.vb, f a.vc b.vc⟩

/-- Three channel values combined. -/
def Channels.zip3 {α β γ δ : Type} (f : α → β → γ → δ) (a : Channels α) (b : Channels β) (c : Channels γ) : Channels δ :=
  ⟨f a.ia b.ia c.ia, f a.ib b.ib c.ib, f a.ic b.ic c.ic, f a.iN b.iN c.iN, f a.va b.va c.va, f a.vb b.vb c.vb, f a.vc b.vc c.vc⟩

/-- The four current channels. -/
def Channels.currents {α : Type} (c : Channels α) : Currents α := ⟨c.ia, c.ib, c.ic, c.iN⟩

/-- Two sets of currents combined. -/
def Currents.zip {α β γ : Type} (f : α → β → γ) (a : Currents α) (b : Currents β) : Currents γ :=
  ⟨f a.a b.a, f a.b b.b, f a.c b.c, f a.n b.n⟩

/-- Whether any of the four is set. -/
def Currents.any (c : Currents Bool) : Bool := c.a || c.b || c.c || c.n

/-- Whether any of the three phases is set. -/
def Currents.anyPhase (c : Currents Bool) : Bool := c.a || c.b || c.c

/-! ## Magnitudes (R14, R15) -/

/-- Square of a sample. -/
def square (i : Int) : Nat := i.natAbs * i.natAbs

/-- A window after a sample instant: the newest sample first, the one 32 instants old gone (R14). -/
def pushWindow (w : List Int) (x : Int) : List Int := x :: w.dropLast

/-- W after a sample instant: the new square added, the square of the oldest entry taken away (R14). -/
def pushSum (sum : Nat) (w : List Int) (x : Int) : Nat := sum + square x - square (w.getLastD 0)

/-- The largest root below 2^bits built from its bits: each bit is kept when the square does not pass `n`. -/
def rootBits (n : Nat) : Nat → Nat → Nat
  | 0, r => r
  | b + 1, r => rootBits n b (if (r + 2 ^ b) * (r + 2 ^ b) ≤ n then r + 2 ^ b else r)

/-- Integer square root of a number below 2^30: the largest integer whose square does not exceed it (R15). -/
def isqrt (n : Nat) : Nat := rootBits n 15 0

/-- Magnitude of a running sum (R15). -/
def magnitude (sum : Nat) : Nat := isqrt (sum / 32)

/-! ## CABINET frames -/

/-- The measurements of a frame; bit 2 of the flags is the temperature valid flag, bits 3 to 7 are ignored (R184). -/
def frameMeasurements (f : CabinetFrame) : Measurements :=
  { supply := f.supply.toNat, battery := f.battery.toNat, current := f.current.toInt, temperature := f.temperature.toInt,
    temperatureValid := f.flags.getLsbD 2, tripCap := f.tripCap.toNat, closeCap := f.closeCap.toNat }

/-- Bit 0: remote-enabled. -/
def frameRemote (f : CabinetFrame) : Bool := f.flags.getLsbD 0

/-- Bit 1: charger fault. -/
def frameChargerFault (f : CabinetFrame) : Bool := f.flags.getLsbD 1

/-! ## Charge arithmetic (R117, R118, R122) -/

/-- One integration step of 100 ms at a current in mA, saturating at 0 and at Qmax (R117). -/
def coulombStep (qmax : Nat) (q : Nat) (i : Int) : Nat :=
  if 0 < i then min qmax (q + i.toNat * 243 / 2560)
  else if i < 0 then q - (i.natAbs + 9) / 10
  else q

/-- A step together with whether it is a discharging step that took Q from above 0 to 0 (R119). -/
def coulombStepMark (qmax : Nat) (i : Int) (p : Nat × Bool) : Nat × Bool :=
  (coulombStep qmax p.1 i, p.2 || (decide (i < 0) && decide (0 < p.1) && decide (coulombStep qmax p.1 i = 0)))

/-- Several steps at one current. -/
def coulombSteps (qmax : Nat) (i : Int) : Nat → Nat × Bool → Nat × Bool
  | 0, p => p
  | k + 1, p => coulombSteps qmax i k (coulombStepMark qmax i p)

/-- Gap of an accepted CABINET frame: a number of missing frames, or none when it is unknown (R103). -/
abbrev Gap := Option Nat

/-- Steps made for missing frames (R118). -/
def gapSteps (gap : Gap) (prev : Option Int) : Nat :=
  match gap, prev with
  | some k, some _ => if k ≤ 10 then k else 0
  | _, _ => 0

/-- Whether a temperature reading is valid (R121). -/
def readingValid (m : Measurements) : Bool :=
  m.temperatureValid && decide (-400 ≤ m.temperature) && decide (m.temperature ≤ 800)

/-- A compensated target in mV, from a base in 10 mV: division by 10 rounds toward minus infinity (R122). -/
def compensate (base comp : Nat) (temp : Int) : Int :=
  (10 * base : Nat) + (comp : Int) * (250 - max (-200) (min 500 temp)) / 10

end Sys2Proof.Machine
end

