-- ==== Sys2Proof/Machine/Boot.lean ====
section
/-! DEFINITION. The reset values of the blocks (R19, R41, R69, R87, R101, R115, R134, R139, R146, R154, R170, R179,
R181, R182). Times are half milliseconds of the base, which a reset starts from 0 (log 1). -/

namespace Sys2Proof.Machine

/-- Half milliseconds in a millisecond and in a second. -/
def msec (n : Nat) : Nat := 2 * n
def sec (n : Nat) : Nat := 2000 * n

/-- A timer started at a moment of the base at its full length. -/
def startAt (now len : Nat) : Timer := some ⟨len, now + len⟩

/-- The same value for every channel. -/
def Channels.all {α : Type} (a : α) : Channels α := ⟨a, a, a, a, a, a, a⟩
def Currents.all {α : Type} (a : α) : Currents α := ⟨a, a, a, a⟩

/-- An empty window (R14). -/
def emptyWindow : List Int := List.replicate 32 0

/-- R19. -/
def bootSample : SampleInterface :=
  { stream := .absent, expected := none, last := .all 0, lastStatus := none, run := 0, phase := 0,
    absence := none, sensorLoss := none, disagree := none, view := .unknown }

/-- R19. -/
def bootMagnitude : MagnitudeUnit :=
  { windows := .all emptyWindow, sums := .all 0, mags := .all 0, clip := .all false, evalCount := 0, wholeSecond := false }

/-- A cleared accumulator (R28, R41). -/
def clearAcc : Accumulator := ⟨0, false, 0⟩

/-- R41. -/
def bootOvercurrent : OvercurrentUnit :=
  { accs := .all clearAcc, highSetPhase := 0, highSetGround := 0, hotLineOver := false, active := false,
    coldOpen := false, coldTimer := none }

/-- R69. The kinds are "not meaningful until set" (log 8). -/
def bootSequence : SequenceController :=
  { state := .init, s := 0, latched := none, pendingGroup := none, tripKind := .protection, closeKind := .reclose,
    tripRequested := false, reclaimCause := .reclose, reason := none, recorded := none, openClock := 0,
    openClockRuns := false, dead := none, energyWait := none, reclaim := none }

/-- R87. -/
def bootActuator : ActuatorControl :=
  { trip := false, close := false, tripTimer := none, closeTimer := none, supervision := .none, retry := false,
    confirm := .stopped, heldTrip := false, deferred := none, latch := false }

/-- R101: from the reset to the restore-complete event. -/
def bootTags : TagTable :=
  { slots := List.replicate 6 none, writeState := .idle, durable := false }

/-- R115. -/
def bootSupply : SupplyMonitor :=
  { power := .start,
    meas := { supply := 0, battery := 0, current := 0, temperature := 0, temperatureValid := false, tripCap := 0, closeCap := 0 },
    remote := false, chargerFault := false, lastSeq := none, freshness := .stale, freshTimer := none, present := false,
    qualification := .unqualified, qualifyTimer := none, cutoffTimer := none, restoreMark := false, stage := .none,
    finalTimer := none, finalReport := none, finalSent := false }

/-- R134; `held` is the Q a RESTART holds aside (R120). -/
def bootBattery (held : Option Nat) : BatteryUnit :=
  { charge := .off, q := 0, heldQ := held, prevCurrent := none, tempState := .holding, heldTemp := 250,
    holdTimer := startAt 0 (sec 60), absorbTimer := none, rebulkTimer := none, floatFullTimer := none,
    testState := .idle, testOrigin := .scheduled, vRest := none, vMin := none, dischargeSum := 0, frameCount := 0,
    testTimer := none, retryTimer := none, lastResult := .none, lastTime := none, health := .good, failCount := 0,
    disconnect := false, repeatTimer := startAt 0 (sec 1), sent := ⟨.off, 0, 0⟩ }

/-- The START report: class 4, number 0 (R139). -/
def startReport (kind : ResetKind) (seconds : Long) : Report :=
  { number := 0, cls := 4, needsAck := false, created := seconds, body := .start kind, state := .queued, sends := 0,
    eligible := none, ack := none }

/-- R139, R146. -/
def bootReports (kind : ResetKind) (seconds : Long) : ReportQueue :=
  { records := [startReport kind seconds], nextNumber := 1, budget := 0, dropped := 0, statusTimer := none }

/-- R154. -/
def bootFaultLog : FaultLog := { ring := [], openRecord := none, nextNumber := 0 }

/-- An empty staging buffer. -/
def emptyBuffer : StagingBuffer :=
  { state := .empty, table := 0, length := 0, origin := .radio, image := [], mask := [], timer := none, request := none }

/-- R170, with the NV array as the reset finds it. -/
def bootStore (nv : NvArray) : TableStore :=
  { tables := romTables, locks := List.replicate 15 true, activeGroup := 0, buffer := emptyBuffer, nv := nv,
    inFlight := none, writeTimer := none, recordWaiting := none, tableWaiting := false, recordTimer := none,
    restoreTimer := startAt 0 (msec 300) }

/-- An NV array to which nothing has been written (log 4). -/
def blankNv : NvArray :=
  { tables := List.replicate 15 .missing, tags := .missing, record := .missing }

/-- R179, with the seconds counter that the reset leaves. -/
def bootCommand (seconds : Long) : CommandUnit :=
  { seconds := seconds, slot := none, selectTimer := none, restartMark := false, restartAfter := none, deferredClose := none }

/-- R181, R182. -/
def bootLinks : Links :=
  { sensorDiscards := 0, cabinetDiscards := 0, sensorRx := .hunting, cabinetRx := .hunting, tx := [], txProgress := 0 }

end Sys2Proof.Machine
end

