-- ==== Sys2Proof/Machine/State.lean ====
section
/-! DEFINITION. The state of the CD416: the twelve blocks of spec/00 section 1.2, the links of spec/11, the
millisecond base of spec/00 section 2.1, and the queue of waiting commands. Plain data. -/

namespace Sys2Proof.Machine

/-- Why a step stops. The spec gives every command an effect in every state and no command an end without one, so
there is no reason to stop: the type has no constructor, and no meaning of a command can answer a fault. -/
inductive Fault where
  deriving DecidableEq, Repr

/-- Why a command is turned away without a meaning. -/
inductive Refusal where
  /-- Raised by `exec`'s arm of a command whose meaning is not written yet (none is left). Safe: the model
  stops where the engine goes on. -/
  | notModelled (mnemonic : String)
  deriving DecidableEq, Repr

/-- The whole state of the engine. `now` and `nextSecond` are moments of the millisecond base in half
milliseconds since the reset; `free` is the model's own counter for its free values (log 7); `pending` is the
queue of commands that wait, first in, first out. -/
structure State where
  now : Nat
  nextSecond : Nat
  sample : SampleInterface
  mag : MagnitudeUnit
  oc : OvercurrentUnit
  seq : SequenceController
  act : ActuatorControl
  tags : TagTable
  supply : SupplyMonitor
  battery : BatteryUnit
  reports : ReportQueue
  faults : FaultLog
  store : TableStore
  cmd : CommandUnit
  links : Links
  free : Nat
  pending : List Instr
  deriving DecidableEq, Repr

/-- The state right after a reset: every block at its reset values, with the NV array, the seconds counter, the
Q held aside, the free-value counter and the queue of commands that the reset leaves. -/
def bootState (kind : ResetKind) (nv : NvArray) (seconds : Long) (held : Option Nat) (free : Nat) (pending : List Instr) : State :=
  { now := 0, nextSecond := sec 1, sample := bootSample, mag := bootMagnitude, oc := bootOvercurrent, seq := bootSequence,
    act := bootActuator, tags := bootTags, supply := bootSupply, battery := bootBattery held,
    reports := bootReports kind seconds, faults := bootFaultLog, store := bootStore nv, cmd := bootCommand seconds,
    links := bootLinks, free := free, pending := pending }

/-- The machine right after power-on of a part whose NV array has never been written (log 4). -/
def State.reset : State := bootState .powerOn blankNv 0 none 0 []

/-- What a command answers. -/
abbrev Result := Host.Outcome State Fault Refusal

end Sys2Proof.Machine
end

