-- ==== Sys2Proof/Machine/Ops.lean ====
section
/-! DEFINITION. The operations that every block shares: writing one block of the state, the millisecond base and its
timers (spec/00 section 2.1), the transmitter (R182), responses (R171), entering reports (R135..R138), and the NV
arbiter (R165, R166). -/

namespace Sys2Proof.Machine

/-! ## Writing one part of the state -/

def State.setNow (s : State) (x : Nat) : State := { s with now := x }
def State.setNextSecond (s : State) (x : Nat) : State := { s with nextSecond := x }
def State.setSample (s : State) (x : SampleInterface) : State := { s with sample := x }
def State.setMag (s : State) (x : MagnitudeUnit) : State := { s with mag := x }
def State.setOc (s : State) (x : OvercurrentUnit) : State := { s with oc := x }
def State.setSeq (s : State) (x : SequenceController) : State := { s with seq := x }
def State.setAct (s : State) (x : ActuatorControl) : State := { s with act := x }
def State.setTags (s : State) (x : TagTable) : State := { s with tags := x }
def State.setSupply (s : State) (x : SupplyMonitor) : State := { s with supply := x }
def State.setBattery (s : State) (x : BatteryUnit) : State := { s with battery := x }
def State.setReports (s : State) (x : ReportQueue) : State := { s with reports := x }
def State.setFaults (s : State) (x : FaultLog) : State := { s with faults := x }
def State.setStore (s : State) (x : TableStore) : State := { s with store := x }
def State.setCmd (s : State) (x : CommandUnit) : State := { s with cmd := x }
def State.setLinks (s : State) (x : Links) : State := { s with links := x }
def State.setFree (s : State) (x : Nat) : State := { s with free := x }
def State.setPending (s : State) (x : List Instr) : State := { s with pending := x }

/-! ## The millisecond base -/

/-- A timer started now at a length in half milliseconds. -/
def State.timer (s : State) (len : Nat) : Timer := startAt s.now len

/-- Sends what the cabinet link can carry of the held frames (R182): `credit` is in fifths of a bit, a byte takes 10
bits (spec/11 section 11.6). Answers the credit left over, the frames still held, and how many have left. -/
def drain : Nat → List OutFrame → Nat × List OutFrame × Nat
  | _, [] => (0, [], 0)
  | credit, f :: fs =>
    if 50 * f.size ≤ credit then
      let r := drain (credit - 50 * f.size) fs
      (r.1, r.2.1, r.2.2 + 1)
    else (credit, f :: fs, 0)

/-- The base reaches a moment: meanwhile the transmitter sends at 921,600 bit/s, 2304 fifths of a bit in each half
millisecond. A moment already past changes nothing. -/
def State.advanceTo (s : State) (t : Nat) : State :=
  if t ≤ s.now then s
  else
    let d := drain (s.links.txProgress + 2304 * (t - s.now)) s.links.tx
    { s with
      now := t
      links := { s.links with tx := d.2.1, txProgress := d.1 }
      cmd := { s.cmd with restartAfter := s.cmd.restartAfter.map (· - d.2.2) } }

/-- The expiry of a timer: the event at which the base reaches the moment the timer is due. A stopped timer does not
expire, so the command then changes nothing (log 2). -/
def onExpiry (t : Timer) (s : State) (f : State → State) : Result :=
  match t with
  | none => .next s
  | some c => .next (f (s.advanceTo c.due))

/-! ## The transmitter (R182) -/

/-- Bytes that wait to be sent. -/
def Links.waitingBytes (l : Links) : Nat := (l.tx.map OutFrame.size).sum - l.txProgress / 50

/-- Hands a frame to the transmitter. A METERING frame handed over while 1,024 or more bytes wait is not held. -/
def State.hand (s : State) (f : OutFrame) : State :=
  if f.kind = kindMetering ∧ 1024 ≤ s.links.waitingBytes then s
  else s.setLinks { s.links with tx := s.links.tx ++ [f] }

/-- Answers a request (R171). -/
def State.respond (s : State) (r : Req) (k : RequestKind) (c : ResultCode) (body : List Byte) : State :=
  s.hand (responseFrame r.id (requestCode k) c body)

/-! ## Entering reports (R135..R138) -/

/-- The place of a record: after every record of its own and of higher classes (R136). -/
def place (r : Report) (q : List Report) : List Report :=
  q.takeWhile (fun x => decide (r.cls ≤ x.cls)) ++ r :: q.dropWhile (fun x => decide (r.cls ≤ x.cls))

/-- Whether a record can be displaced by one of a class (R138). -/
def displaceable (cls : Nat) (x : Report) : Bool := decide (x.state = .queued) && decide (x.cls < cls)

/-- The lowest class among the records that can be displaced. -/
def lowestClass (cls : Nat) (q : List Report) : Option Nat :=
  ((q.filter (displaceable cls)).map Report.cls).min?

/-- The queue without the victim of R138: of the lowest class, the oldest. `none` when there is no victim. -/
def withoutVictim (cls : Nat) (q : List Report) : Option (List Report) :=
  (lowestClass cls q).map fun c => q.eraseP (fun x => displaceable cls x && x.cls == c)

/-- Replaces the body and the created time of the STATUS record in place (R137). -/
def coalesce (body : ReportBody) (created : Long) (q : List Report) : List Report :=
  q.map fun x => if x.body.isStatus then { x with body := body, created := created } else x

/-- The record formed for a report (R135). -/
def newRecord (number : Word) (cls : Nat) (created : Long) (body : ReportBody) : Report :=
  { number := number, cls := cls, needsAck := decide (5 ≤ cls), created := created, body := body, state := .queued,
    sends := 0, eligible := none, ack := none }

/-- The dropped count raised by one, saturating at 255. -/
def ReportQueue.drop (q : ReportQueue) : ReportQueue := { q with dropped := min 255 (q.dropped + 1) }

/-- A record placed in the queue, which takes the next number (R135, R136). -/
def ReportQueue.placed (q : ReportQueue) (records : List Report) (cls : Nat) (created : Long) (body : ReportBody) : ReportQueue :=
  { q with records := place (newRecord q.nextNumber cls created body) records, nextNumber := q.nextNumber + 1 }

/-- A report entering the queue, with the number its record took or none (R135, R137, R138). -/
def ReportQueue.enter (q : ReportQueue) (cls : Nat) (created : Long) (body : ReportBody) : ReportQueue × Option Word :=
  if body.isStatus && q.records.any (fun x => x.body.isStatus) then
    ({ q with records := coalesce body created q.records }, none)
  else if q.records.length < 32 then
    (q.placed q.records cls created body, some q.nextNumber)
  else
    match withoutVictim cls q.records with
    | some rest => (q.drop.placed rest cls created body, some q.nextNumber)
    | none => (q.drop, none)

/-- A block enters a report at this event (R135). -/
def State.report (s : State) (cls : Nat) (body : ReportBody) : State :=
  s.setReports (s.reports.enter cls s.cmd.seconds body).1

/-! ## The NV array and its arbiter (R90, R91, R165, R166) -/

/-- No write is in flight and none waits (R166). -/
def State.arbiterIdle (s : State) : Bool :=
  s.store.inFlight.isNone && decide (s.tags.writeState = .idle) && s.store.recordWaiting.isNone && !s.store.tableWaiting

/-- Requests a tag write if none is requested or in flight (R90). -/
def State.requestTagWrite (s : State) : State :=
  match s.tags.writeState with
  | .idle => s.setTags { s.tags with writeState := .waiting }
  | _ => s

/-- Both sets of causes. -/
def WriteCauses.union (a b : WriteCauses) : WriteCauses := ⟨a.group || b.group, a.periodic || b.periodic, a.cutoff || b.cutoff⟩

/-- Requests a state-record write; requests made while one waits are gathered (R165). -/
def State.requestRecordWrite (s : State) (c : WriteCauses) : State :=
  s.setStore { s.store with recordWaiting := some (match s.store.recordWaiting with | none => c | some w => w.union c) }

/-- Requests the table write of the staging buffer (R161). -/
def State.requestTableWrite (s : State) : State := s.setStore { s.store with tableWaiting := true }

/-- The tag image: every record HELD or PLACING, in slot order (R91). -/
def tagImage (slots : List (Option TagRecord)) : List TagImageRecord :=
  (slots.filterMap id).filterMap fun r =>
    if r.state = .removing then none
    else some { crew := r.crew, kind := BitVec.ofNat 8 r.kind.ctorIdx, origin := r.origin, placed := r.placed }

/-- A record WAITING becomes WRITING at the grant (R91). -/
def TagRecord.granted (r : TagRecord) : TagRecord := if r.stage = .waiting then { r with stage := .writing } else r

/-- The state record, formed from the values held at the grant (R133, R165). -/
def State.stateRecord (s : State) : StateRecord :=
  { group := BitVec.ofNat 8 s.store.activeGroup, q := BitVec.ofNat 32 s.battery.q,
    lastResult := BitVec.ofNat 8 s.battery.lastResult.ctorIdx, lastTime := s.battery.lastTime,
    health := BitVec.ofNat 8 s.battery.health.ctorIdx, failCount := BitVec.ofNat 8 s.battery.failCount }

/-- Time of a table write: 20 ms and 5 ms for each 16 words or part (R166). -/
def tableWriteTime (words : Nat) : Nat := msec (20 + 5 * ((words + 15) / 16))

/-- The arbiter grants the array, if it is free, to the waiting write that comes first: tag, state record, table
(R166). Made at the end of the event that requested a write, so that requests of one event count as waiting
together (log 20). -/
def State.grant (s : State) : State :=
  match s.store.inFlight with
  | some _ => s
  | none =>
    if s.tags.writeState = .waiting then
      { s with
        tags := { s.tags with slots := s.tags.slots.map (Option.map TagRecord.granted), writeState := .inFlight }
        store := { s.store with inFlight := some (.tag (tagImage s.tags.slots)), writeTimer := s.timer (msec 25) } }
    else
      match s.store.recordWaiting with
      | some c =>
        s.setStore { s.store with
          inFlight := some (.record s.stateRecord c), recordWaiting := none, writeTimer := s.timer (msec 25) }
      | none =>
        if s.store.tableWaiting then
          s.setStore { s.store with
            inFlight := some (.table s.store.buffer.table s.store.buffer.image), tableWaiting := false,
            writeTimer := s.timer (tableWriteTime s.store.buffer.length) }
        else s

end Sys2Proof.Machine
end

