-- ==== Sys2Proof/Machine/Flags.lean ====
section
/-! DEFINITION. The conditions that the rules test, each computed from the state at its moment of reading: settings
in force, positions and streams, tags, close permission, charge and report conditions. -/

namespace Sys2Proof.Machine

/-! ## Settings in force -/

/-- Active copy of a table (R155). -/
def State.table (s : State) (id : Nat) : Table := s.store.tables.getD id []
def State.unit (s : State) : Table := s.table 1
def State.batteryTable (s : State) : Table := s.table 2
def State.groupTable (s : State) (g : Fin 4) : Table := s.table (3 + g)
def State.curveTable (s : State) (c : Nat) : Table := s.table (7 + c)

/-- The governing group: the latched group, or the active group when none is latched (R42). -/
def State.governing (s : State) : Fin 4 := s.seq.latched.getD s.store.activeGroup

/-- The table of the governing group. -/
def State.governingTable (s : State) : Table := s.groupTable s.governing

/-! ## Requests (R172, R167) -/

/-- The remote-enabled check: a RADIO request while the flag is clear. -/
def State.remoteRefused (s : State) (r : Req) : Bool := decide (r.origin = .radio) && !s.supply.remote

/-! ## Sample stream and pulses -/

/-- The stream is FILLING or VALID. -/
def State.streamLive (s : State) : Bool := decide (s.sample.stream = .filling) || decide (s.sample.stream = .valid)

/-- Neither the TRIP nor the CLOSE line is active. -/
def State.noPulse (s : State) : Bool := !s.act.trip && !s.act.close

/-- The disagree timer runs only under these conditions (R11). -/
def State.disagreeRuns (s : State) : Bool := decide (s.sample.view = .disagree) && s.streamLive && s.noPulse

/-! ## Tags (R88, R43) -/

/-- The records in the table, in slot order. -/
def TagTable.records (t : TagTable) : List TagRecord := t.slots.filterMap id

/-- Tag count (R88). -/
def TagTable.count (t : TagTable) : Nat := t.records.length

/-- The table holds no record, in any record state. -/
def TagTable.isEmpty (t : TagTable) : Bool := t.records.isEmpty

/-- The table holds a HOT_LINE record, in any record state (R32, R43). -/
def TagTable.hotLine (t : TagTable) : Bool := t.records.any (fun r => decide (r.kind = .hotLine))

/-- Slot number of the record with a crew code. -/
def TagTable.find (t : TagTable) (crew : Word) : Option Nat :=
  t.slots.findIdx? (fun o => o.any (fun r => decide (r.crew = crew)))

/-- Lowest-numbered free slot. -/
def TagTable.freeSlot (t : TagTable) : Option Nat := t.slots.findIdx? Option.isNone

/-- Effective operations-to-lockout (R43). -/
def State.effectiveOps (s : State) : Nat := if s.tags.hotLine then 1 else opsToLockout s.governingTable

/-! ## Close permission (R76) -/

/-- The power state is NORMAL or CARRY. -/
def State.powerCloses (s : State) : Bool := decide (s.supply.power = .normal) || decide (s.supply.power = .carry)

/-- The cabinet stream is fresh. -/
def State.fresh (s : State) : Bool := decide (s.supply.freshness = .fresh)

/-- The trip capacitor is at or above the trip-ready level. -/
def State.tripReady (s : State) : Bool := decide (tripReadyLevel s.unit ≤ s.supply.meas.tripCap)

/-- The close capacitor is at or above the close-ready level. -/
def State.closeReady (s : State) : Bool := decide (closeReadyLevel s.unit ≤ s.supply.meas.closeCap)

/-- The first of items 1 to 3 that fails (R76, the partial check of SELECT CLOSE). -/
def State.partialPermission (s : State) : Option PermissionItem :=
  if !s.tags.isEmpty then some .tag
  else if s.sample.view ≠ .opened then some .position
  else if s.act.latch then some .mechanism
  else none

/-- The first of the seven items that fails, or none when all hold (R76). -/
def State.permission (s : State) : Option PermissionItem :=
  match s.partialPermission with
  | some i => some i
  | none =>
    if !s.powerCloses then some .power
    else if !s.fresh then some .stream
    else if !s.tripReady then some .tripEnergy
    else if !s.closeReady then some .closeEnergy
    else none

/-- The code that stands for a failing item (R76, R58). -/
def permissionCode : PermissionItem → ResultCode
  | .tag => .refusedTag
  | .position => .refusedPosition
  | .mechanism => .refusedMech
  | .power => .refusedPower
  | .stream => .refusedStream
  | .tripEnergy => .refusedEnergy
  | .closeEnergy => .refusedEnergy

/-! ## Battery (R119..R129) -/

/-- SoC of a Q and a Qmax (R119); a Qmax of 0 cannot be set. -/
def socOf (q qmax : Nat) : Nat := 100 * q / qmax

/-- State of charge in percent. -/
def State.soc (s : State) : Nat := socOf s.battery.q (qMax s.batteryTable)

/-- Working temperature (R121). -/
def BatteryUnit.workingTemp (b : BatteryUnit) : Int := if b.tempState = .fault then 250 else b.heldTemp

/-- The three compensated targets, in mV (R122). -/
def State.absorbTarget (s : State) : Int :=
  compensate (absorbVoltage s.batteryTable) (compensation s.batteryTable) s.battery.workingTemp
def State.floatTarget (s : State) : Int :=
  compensate (floatVoltage s.batteryTable) (compensation s.batteryTable) s.battery.workingTemp
def State.testMinimum (s : State) : Int :=
  compensate (testMinimumVoltage s.batteryTable) (compensation s.batteryTable) s.battery.workingTemp

/-- The working temperature lies outside the charge window (R126). -/
def State.outsideWindow (s : State) : Bool :=
  decide (s.battery.workingTemp < 10 * windowLow s.batteryTable)
    || decide (10 * (windowHigh s.batteryTable : Int) < s.battery.workingTemp)

/-- The working temperature lies inside the window narrowed by 2.0 °C at each end (R126). -/
def State.insideMargin (s : State) : Bool :=
  decide (10 * windowLow s.batteryTable + 20 ≤ s.battery.workingTemp)
    && decide (s.battery.workingTemp ≤ 10 * (windowHigh s.batteryTable : Int) - 20)

/-- A rest condition holds (R126). -/
def State.restCondition (s : State) : Bool := s.outsideWindow || s.supply.chargerFault || !s.fresh

/-- Battery voltage of the latest measurements in mV (07, 7.1). -/
def State.batteryMillivolts (s : State) : Int := 10 * (s.supply.meas.battery : Int)

/-- The elapsed time since the last test is at least a number of seconds, or there was no test (R128, R129). -/
def State.sinceTest (s : State) (seconds : Nat) : Bool :=
  match s.battery.lastTime with
  | none => true
  | some t => decide (seconds ≤ (s.cmd.seconds - t).toNat)

/-- A scheduled test is due (R128). -/
def State.testDue (s : State) : Bool :=
  decide (testInterval s.batteryTable ≠ 0) && s.sinceTest (testInterval s.batteryTable * 86400)

/-- All the preconditions of a test (R129). -/
def State.testReady (s : State) : Bool :=
  decide (s.supply.power = .normal) && decide (s.seq.state = .idle) && decide (s.battery.charge = .float)
    && s.tripReady && s.fresh && s.sinceTest 3600

/-- Health is FAILED, or SoC is at or below the conserve level (R107). -/
def State.batteryLow (s : State) : Bool :=
  decide (s.battery.health = .failed) || decide (s.soc ≤ conserveLevel s.batteryTable)

/-- The battery voltage is at or below the cutoff voltage (R109, R119). -/
def State.belowCutoff (s : State) : Bool := decide (s.supply.meas.battery ≤ cutoffVoltage s.batteryTable)

/-! ## Reports (R141, R142) -/

/-- Class threshold (R141). -/
def State.threshold (s : State) : Nat :=
  match s.supply.power with
  | .start => 0
  | .normal => 0
  | .carry => carryThreshold s.unit
  | .conserve => 6
  | .cutoff => 7

/-- A record is sendable apart from the budget (R142). -/
def State.sendable (s : State) (r : Report) : Bool :=
  decide (r.state = .queued) && decide (s.threshold ≤ r.cls)
    && (match r.eligible with | none => true | some t => decide (t ≤ s.now))

/-! ## Tables (R160) -/

/-- The sequence is in INIT, IDLE or LOCKOUT. -/
def State.sequenceRests (s : State) : Bool :=
  decide (s.seq.state = .init) || decide (s.seq.state = .idle) || decide (s.seq.state = .lockout)

/-- The apply condition of a table (R160). -/
def State.applyCondition (s : State) (id : Nat) : Bool :=
  match tableKind id with
  | .battery => decide (s.battery.testState = .idle)
  | _ => s.sequenceRests

end Sys2Proof.Machine
end

