-- ==== Sys2Proof/Machine/FaultLog.lean ====
section
/-! DEFINITION. The Fault Log (spec/08 section 8.5): opening, filling, closing, keeping and discarding a record
(R147..R152). -/

namespace Sys2Proof.Machine

/-- What an evaluation hands the Fault Log (R40): magnitudes, clipped marks and channel set. -/
structure Summary where
  mags : Currents Nat
  clipped : Currents Bool
  channels : Currents Bool
  deriving DecidableEq, Repr

/-- Union of two element sets. -/
def Elements.union (a b : Elements) : Elements :=
  ⟨a.tocP || b.tocP, a.tocG || b.tocG, a.hsP || b.hsP, a.hsG || b.hsG, a.hl || b.hl⟩

/-- The empty element set. -/
def noElements : Elements := ⟨false, false, false, false, false⟩

/-- Opens a record if none is open (R147). -/
def State.faultOpen (s : State) : State :=
  match s.faults.openRecord with
  | some _ => s
  | none =>
    s.setFaults { s.faults with
      openRecord := some
        { pickupTime := s.cmd.seconds, group := s.governing, s := s.seq.s, maxima := s.mag.mags.currents,
          clipped := false, elements := noElements, channels := .all false, evaluations := 0, decided := false } }

/-- A summary taken into an open record (R148). -/
def OpenRecord.takeSummary (r : OpenRecord) (m : Summary) : OpenRecord :=
  { r with
    maxima := Currents.zip max r.maxima m.mags
    clipped := r.clipped || m.clipped.any
    channels := Currents.zip (fun x y => x || y) r.channels m.channels
    evaluations := if r.decided then r.evaluations else min 65535 (r.evaluations + 1) }

/-- The evaluation summary reaches the Fault Log; without an open record it has no effect (R40, R148). -/
def State.faultSummary (s : State) (m : Summary) : State :=
  s.setFaults { s.faults with openRecord := s.faults.openRecord.map (·.takeSummary m) }

/-- A trip decision reaches the Fault Log (R149). -/
def State.faultDecision (s : State) (e : Elements) : State :=
  s.setFaults { s.faults with
    openRecord := s.faults.openRecord.map fun r => { r with elements := r.elements.union e, decided := true } }

/-- The kept record that an open record closes to (R150, R152); evaluations to trip is 0 when no trip decision was
taken. -/
def OpenRecord.close (r : OpenRecord) (number : Word) (outcome : FaultOutcome) (time : Long) : FaultRecord :=
  { number := number, pickupTime := r.pickupTime, group := r.group, s := r.s, maxima := r.maxima, clipped := r.clipped,
    elements := r.elements, channels := r.channels, evaluations := if r.decided then r.evaluations else 0,
    outcome := outcome, closingTime := time }

/-- The ring after a record is kept: the latest sixteen (R152). -/
def keepRecord (ring : List FaultRecord) (r : FaultRecord) : List FaultRecord :=
  (if ring.length < 16 then ring else ring.drop 1) ++ [r]

/-- Closes the open record, if there is one, keeps it and enters its FAULT report (R150, R152). -/
def State.faultClose (s : State) (outcome : FaultOutcome) : State :=
  match s.faults.openRecord with
  | none => s
  | some o =>
    let r := o.close s.faults.nextNumber outcome s.cmd.seconds
    (s.setFaults { s.faults with ring := keepRecord s.faults.ring r, openRecord := none, nextNumber := s.faults.nextNumber + 1 }).report 5 (.fault r)

/-- An all-dropped event, after the Sequence Controller has taken it: an open record without a trip decision is
discarded (R151). -/
def State.faultAllDropped (s : State) : State :=
  match s.faults.openRecord with
  | some o => if o.decided then s else s.setFaults { s.faults with openRecord := none }
  | none => s

end Sys2Proof.Machine
end

