-- ==== Sys2Proof/Machine/Charging.lean ====
section
/-! DEFINITION. The charge states and the CHARGER frames of the Battery Unit (R123..R127), as the other parts of the
unit and the Table Store use them. -/

namespace Sys2Proof.Machine

/-! ## CHARGER frames (R127) -/

/-- The content of the CHARGER frame (R127). -/
def State.chargerContent (s : State) : ChargerContent :=
  if s.battery.disconnect then ⟨.disconnect, 0, 0⟩
  else
    match s.battery.charge with
    | .bulk => ⟨.charge, s.absorbTarget, bulkLimit s.batteryTable⟩
    | .absorb => ⟨.charge, s.absorbTarget, bulkLimit s.batteryTable⟩
    | .float => ⟨.charge, s.floatTarget, bulkLimit s.batteryTable⟩
    | .off => ⟨.off, 0, 0⟩
    | .rest => ⟨.off, 0, 0⟩
    | .test => ⟨.testLoad, 0, 0⟩

/-- Sends a CHARGER frame with the current content and restarts the repeat timer at 1 s. -/
def State.chargerSend (s : State) : State :=
  (s.setBattery { s.battery with sent := s.chargerContent, repeatTimer := s.timer (sec 1) }).hand s.chargerContent.frame

/-- Sends a CHARGER frame at once if the content differs from the content sent. -/
def State.chargerUpdate (s : State) : State := if s.chargerContent = s.battery.sent then s else s.chargerSend

/-! ## Charge states (R123..R126) -/

/-- The unit in a charge state: the absorb timer runs only in ABSORB, the rebulk and float-full timers only in
FLOAT (R119, R124, R125). -/
def BatteryUnit.inCharge (b : BatteryUnit) (c : ChargeState) : BatteryUnit :=
  { b with
    charge := c
    absorbTimer := if c = .absorb then b.absorbTimer else none
    rebulkTimer := if c = .float then b.rebulkTimer else none
    floatFullTimer := if c = .float then b.floatFullTimer else none }

/-- BULK, or FLOAT while the temperature state is FAULT (R124). -/
def BatteryUnit.bulkChoice (b : BatteryUnit) : ChargeState := if b.tempState = .fault then .float else .bulk

/-- The entry choice (R123). -/
def State.entryChoice (s : State) : ChargeState := if s.restCondition then .rest else s.battery.bulkChoice

/-- Enters a charge state. -/
def State.setCharge (s : State) (c : ChargeState) : State := s.setBattery (s.battery.inCharge c)

end Sys2Proof.Machine
end

