-- ==== Sys2Proof/Machine/StoreOps.lean ====
section
/-! DEFINITION. What the Table Store does for the other blocks: applying commits and groups (R161, R164, R67), and
the frequency restart of the stream that an apply can make (R9). -/

namespace Sys2Proof.Machine

/-! ## The stream restarts (R9, R14) -/

/-- Cleared windows, sums and clip marks; the latest magnitudes, the evaluation count and the whole-second flag
stay (R12, R14, R3). -/
def MagnitudeUnit.cleared (m : MagnitudeUnit) : MagnitudeUnit :=
  { m with windows := .all emptyWindow, sums := .all 0, clip := .all false }

/-- A change of nominal frequency: a FILLING or VALID stream restarts into FILLING (R9). -/
def State.restartStream (s : State) : State :=
  if s.streamLive then
    (s.setMag s.mag.cleared).setSample { s.sample with stream := .filling, run := 0 }
  else s

/-! ## Applying a commit (R161) -/

/-- Effects of an applied UNIT table: the stream restarts if the nominal frequency differs from the old one, and B is
lowered to the new ceiling (R161, R140). -/
def State.unitApplied (s : State) (oldFrequency : Nat) : State :=
  let s1 := if nominalFrequency s.unit = oldFrequency then s else s.restartStream
  s1.setReports { s1.reports with budget := min s1.reports.budget (airtimeCeiling s1.unit) }

/-- Effects of an applied BATTERY table: Q is lowered to Qmax, an interval of 0 stops the retry timer, and a changed
CHARGER content is sent (R120, R128, R127). -/
def State.batteryApplied (s : State) : State :=
  (s.setBattery { s.battery with
    q := min s.battery.q (qMax s.batteryTable)
    retryTimer := if testInterval s.batteryTable = 0 then none else s.battery.retryTimer }).chargerUpdate

/-- The staged image made active, with the request that is to be answered at NV completion, or none for a commit
applied from PENDING (R161). -/
def State.applyCommit (s : State) (req : Option Req) : State :=
  let b := s.store.buffer
  let s1 := (s.setStore { s.store with
    tables := s.store.tables.set b.table b.image, buffer := { b with state := .writing, request := req } }).requestTableWrite
  match tableKind b.table with
  | .unit => s1.unitApplied (nominalFrequency s.unit)
  | .battery => s1.batteryApplied
  | _ => s1

/-- The Battery Unit tells that no test is running: a PENDING BATTERY image is applied (R160). -/
def State.noticeTestEnded (s : State) : State :=
  if s.store.buffer.state = .pending ∧ tableKind s.store.buffer.table = .battery then s.applyCommit none else s

/-- The Sequence Controller tells of an entry to IDLE or LOCKOUT: a PENDING image of another kind is applied
(R160). -/
def State.noticeSequenceRests (s : State) : State :=
  if s.store.buffer.state = .pending ∧ tableKind s.store.buffer.table ≠ .battery then s.applyCommit none else s

/-! ## Groups (R164, R67) -/

/-- A group made active; a change requests a state-record write (R164). -/
def State.makeActive (s : State) (g : Fin 4) : State :=
  if g = s.store.activeGroup then s
  else (s.setStore { s.store with activeGroup := g }).requestRecordWrite ⟨true, false, false⟩

/-- A pending group number is handed over, if there is one (R67, R164). -/
def State.applyGroup (s : State) : State :=
  match s.seq.pendingGroup with
  | none => s
  | some g =>
    ((s.setSeq { s.seq with pendingGroup := none }).makeActive g).report 4 (.settings (.groupApplied g s.store.activeGroup))

/-- What is pending at an entry to IDLE or LOCKOUT is applied, the group first (R67). -/
def State.applyPending (s : State) : State := s.applyGroup.noticeSequenceRests

end Sys2Proof.Machine
end

