-- ==== Sys2Proof/Machine/Transitions.lean ====
section
/-! DEFINITION. The transitions of the Sequence Controller that ask nothing of the Actuator Control (R42..R68), the end
of a battery test by an abort (R132), which leaving IDLE can cause, and the Overcurrent Unit's part in recording the
switch open and closed (R28, R33). -/

namespace Sys2Proof.Machine

/-! ## A test ends by an abort (R132) -/

/-- The unit's state after a test ended with a result (R131, R132): the charge state is given apart. -/
def BatteryUnit.testEnded (b : BatteryUnit) (result : TestResult) (time : Long) : BatteryUnit :=
  { b with testState := .idle, testTimer := none, retryTimer := none, lastResult := result, lastTime := some time }

/-- The BATTERY report of an abort. -/
def State.abortReport (s : State) (cause : AbortCause) : BatteryReport :=
  { origin := s.battery.testOrigin, result := .aborted, cause := some cause, vRest := s.battery.vRest, vMin := s.battery.vMin,
    load := none, resistance := none, workingTemp := s.battery.workingTemp, tempState := s.battery.tempState,
    testMinimum := s.testMinimum, health := s.battery.health, failCount := s.battery.failCount }

/-- Aborts the running test, entering a charge state; no effect without a test (R132). -/
def State.abortTest (s : State) (cause : AbortCause) (charge : ChargeState) : State :=
  if s.battery.testState = .running then
    let s1 := (s.setBattery ((s.battery.testEnded .aborted s.cmd.seconds).inCharge charge)).chargerUpdate
    s1.noticeTestEnded.report 2 (.battery (s.abortReport cause))
  else s

/-- The notice to the Battery Unit at a transition out of IDLE (R132). -/
def State.leaveIdle (s : State) : State := if s.seq.state = .idle then s.abortTest .sequence s.entryChoice else s

/-! ## The switch recorded open and closed (R44) -/

/-- The Overcurrent Unit cleared when the switch is recorded open: everything R28 names is everything the unit holds. -/
def clearedOvercurrent : OvercurrentUnit :=
  { accs := .all clearAcc, highSetPhase := 0, highSetGround := 0, hotLineOver := false, active := false,
    coldOpen := false, coldTimer := none }

/-- Records the switch open (R44). -/
def State.recordOpen (s : State) : State :=
  let q := if s.seq.recorded = some .opened then s.seq
    else { s.seq with recorded := some .opened, openClock := 0, openClockRuns := true }
  (s.setSeq q).setOc clearedOvercurrent

/-- The close notice to the Overcurrent Unit (R33). -/
def State.closeNotice (s : State) (cause : CloseCause) (openTime : Nat) : State :=
  if cause ≠ .reclose ∧ coldLoadQualify s.governingTable ≤ openTime ∧ coldLoadTime s.governingTable ≠ 0 then
    s.setOc { s.oc with coldOpen := true, coldTimer := s.timer (sec (coldLoadTime s.governingTable)) }
  else s

/-- Records the switch closed; no notice goes out without a cause, as at INIT's passage to IDLE (R44, R45). -/
def State.recordClosed (s : State) (cause : Option CloseCause) : State :=
  if s.seq.recorded = some .closed then s
  else
    let s1 := s.setSeq { s.seq with recorded := some .closed, openClockRuns := false }
    match cause with
    | none => s1
    | some c => s1.closeNotice c s.seq.openClock

/-! ## Entries to states -/

/-- The controller with its dead, energy-wait and reclaim timers stopped. -/
def SequenceController.timersStopped (q : SequenceController) : SequenceController :=
  { q with dead := none, energyWait := none, reclaim := none }

/-- Entry to LOCKOUT (R58). Two points are the model's choice: a test aborted by leaving IDLE is reported before the LOCKOUT
report (log 46), and where no group was latched the report carries the group that was active before a pending one is
applied (log 45). -/
def State.enterLockout (s : State) (reason : LockoutReason) : State :=
  let s1 := s.leaveIdle
  let s2 := (s1.setSeq { s1.seq.timersStopped with state := .lockout, reason := some reason, latched := none }).applyPending
  s2.report 6 (.lockout reason s2.seq.s s.governing s.seq.state s2.sample.view)

/-- The governing group latched, on leaving IDLE or INIT (R42). -/
def State.latch (s : State) : State := s.setSeq { s.seq with latched := some s.governing }

/-- IDLE left for TIMING (R46). -/
def State.enterTiming (s : State) : State :=
  let s1 := s.leaveIdle.latch
  s1.setSeq { s1.seq with state := .timing }

/-- Entry to IDLE (R46): an ACTIVE Overcurrent Unit leads at once to TIMING, and the Fault Log is told (R147). -/
def State.enterIdle (s : State) : State :=
  let s1 := (s.setSeq { s.seq.timersStopped with state := .idle, s := 0, latched := none }).applyPending
  if s1.oc.active then s1.enterTiming.faultOpen else s1

/-- The reclaim timer at full length (R56). -/
def State.reclaimTimer (s : State) : Timer := s.timer (sec (reclaimTime s.governingTable))

/-- Entry to RECLAIM (R56). -/
def State.enterReclaim (s : State) (cause : ReclaimCause) : State :=
  s.setSeq { s.seq with state := .reclaim, reclaimCause := cause, reclaim := if s.oc.active then none else s.reclaimTimer }

/-- s raised by one, where the result is at most L of the governing group (R43). -/
def State.raised (s : State) : Nat := if s.seq.s + 1 ≤ opsToLockout s.governingTable then s.seq.s + 1 else s.seq.s

/-- Entry to TRIPPING (R49): the governing group is latched, the timers stop, the trip-requested mark is clear. -/
def State.enterTripping (s : State) (kind : TripKind) (raise : Bool) : State :=
  let s1 := s.leaveIdle.latch
  s1.setSeq { s1.seq.timersStopped with
    state := .tripping, tripKind := kind, s := if raise then s1.raised else s1.seq.s, tripRequested := false }

/-- Entry to CLOSING (R52, R58). -/
def State.enterClosing (s : State) (kind : CloseKind) : State :=
  s.setSeq { s.seq.timersStopped with
    state := .closing, closeKind := kind, tripRequested := false, s := if kind = .manual then 0 else s.seq.s }

/-! ## Tests made at views, streams and the restore (R45, R64) -/

/-- The view is OPEN, or CLOSED, with the stream VALID. -/
def State.settled (s : State) (v : View) : Bool := decide (s.sample.view = v) && decide (s.sample.stream = .valid)

/-- INIT is left when the restore is complete and the view has settled (R45). -/
def State.initTest (s : State) : State :=
  if s.seq.state = .init ∧ s.supply.restoreMark then
    if s.settled .closed then (s.recordClosed none).enterIdle
    else if s.settled .opened then s.recordOpen.enterLockout .restart
    else s
  else s

/-- MECH_FAIL is left for LOCKOUT when the view is OPEN with the stream VALID (R64). -/
def State.mechTest (s : State) : State :=
  if s.seq.state = .mechFail ∧ s.settled .opened then s.recordOpen.enterLockout .mech else s

/-- A mechanism failure enters MECH_FAIL (R64): the MECH report, then the Fault Log, then the test at entry. Where that test leads
on to LOCKOUT, R152 and R64 do not order the FAULT report and the LOCKOUT report; that the FAULT report comes between MECH and
LOCKOUT is the model's choice (log 54). -/
def State.mechFailure (s : State) (cause : MechCause) : State :=
  let s1 := s.leaveIdle
  let s2 := s1.setSeq { s1.seq.timersStopped with state := .mechFail, tripRequested := false }
  ((s2.report 7 (.mech cause s.seq.state s2.seq.s s2.sample.view)).faultClose .mechFail).mechTest

/-! ## Confirms (R50, R54) -/

/-- The dead timer at d_s of the latched group (R51). -/
def State.deadTimer (s : State) : Timer := s.timer (msec (10 * deadTime s.governingTable s.seq.s))

/-- Entry to DEAD (R51). -/
def State.enterDead (s : State) : State := s.setSeq { s.seq with state := .dead, dead := s.deadTimer }

/-- The open confirm of a trip (R50, R150). -/
def State.openConfirm (s : State) : State :=
  if s.seq.state = .tripping then
    let s1 := s.recordOpen
    match s.seq.tripKind with
    | .protection =>
      (if !s1.tags.isEmpty then s1.enterLockout .tag
       else if s1.seq.s < s1.effectiveOps then s1.enterDead
       else s1.enterLockout .operations).faultClose .tripped
    | .startup => s1.enterLockout .restart
    | .manual => (s1.enterLockout .manual).faultClose .opened
    | .sensor => (s1.enterLockout .sensor).faultClose .sensor
  else s

/-- The close confirm (R54, R147). -/
def State.closeConfirm (s : State) : State :=
  if s.seq.state = .closing then
    match s.seq.closeKind with
    | .reclose =>
      let s1 := (s.recordClosed (some .reclose)).enterReclaim .reclose
      if s1.oc.active then s1.faultOpen else s1
    | .manual => (s.recordClosed (some .manual)).enterIdle
  else s

/-- A trip start, reported for a trip that began during a close supervision (R55). -/
def State.tripStart (s : State) : State :=
  match s.seq.state with
  | .closing | .reclaim | .idle | .timing => s.enterTripping s.seq.tripKind (decide (s.seq.tripKind = .protection))
  | _ => s

/-! ## External operations (R60, R61) -/

/-- An external open (R60, R150). -/
def State.externalOpen (s : State) : State := (s.recordOpen.enterLockout .external).faultClose .opened

/-- An external close (R61). -/
def State.externalClose (s : State) : State := (s.recordClosed (some .external)).enterIdle

end Sys2Proof.Machine
end

