-- ==== Sys2Proof/Machine/Actuator.lean ====
section
/-! DEFINITION. Actuator Control (spec/04): coil pulses, their supervision, close permission answers, and the actions of
the Sequence Controller that follow its reports. -/

namespace Sys2Proof.Machine

/-! ## Notices to the Sample Interface (R11) -/

/-- A pulse has started: the disagree timer stops. -/
def State.pulseStarted (s : State) : State := s.setSample { s.sample with disagree := none }

/-- The disagree timer at full length. -/
def State.disagreeTimer (s : State) : Timer := s.timer (msec 200)

/-- A pulse has ended: with a DISAGREE view the disagree timer starts. -/
def State.pulseEnded (s : State) : State :=
  if s.disagreeRuns then s.setSample { s.sample with disagree := s.disagreeTimer } else s

/-! ## The confirm timer (R71, R78, R83) -/

/-- A confirm timer started from 0 toward a limit in ms; suspended if the stream is STALE. -/
def State.confirmFrom (s : State) (limit : Nat) : ConfirmTimer :=
  if s.sample.stream = .stale then .suspended (msec limit) 0 else .running ⟨msec limit, s.now + msec limit⟩

/-- Suspended with the time it has run (R83). -/
def ConfirmTimer.suspend (now : Nat) : ConfirmTimer → ConfirmTimer
  | .running c => .suspended c.length (c.length - (c.due - now))
  | t => t

/-- Resumed from the elapsed time (R83). -/
def ConfirmTimer.resume (now : Nat) : ConfirmTimer → ConfirmTimer
  | .suspended len elapsed => .running ⟨len, now + (len - elapsed)⟩
  | t => t

/-! ## Trip pulses (R70, R71, R73) -/

/-- Tests the open confirm (R73). -/
def State.tripTest (s : State) : State :=
  if s.act.supervision = .tripWait ∧ s.sample.view = .opened ∧ s.streamLive then
    (s.setAct { s.act with confirm := .stopped, supervision := .none, retry := false }).openConfirm
  else s

/-- Starts a trip pulse (R71); `reported` says that a close supervision was in progress. -/
def State.startTrip (s : State) (reported : Bool) : State :=
  let s1 := (s.setAct { s.act with
    trip := true, tripTimer := s.timer (msec (tripPulseWidth s.unit)), supervision := .tripWait, retry := false,
    confirm := s.confirmFrom (tripConfirmLimit s.unit), heldTrip := false }).pulseStarted
  (if reported then s1.tripStart else s1).tripTest

/-- The Sequence Controller asks for a trip (R70). -/
def State.requestTrip (s : State) : State :=
  if s.act.latch then s.mechFailure .latch
  else if s.act.close then s.setAct { s.act with heldTrip := true }
  else if s.act.trip then s
  else s.startTrip (decide (s.act.supervision = .closeWait))

/-! ## Close pulses (R78, R79, R81, R82) -/

/-- The CLOSE line falls, and the Sample Interface is told if it was active. -/
def State.dropClose (s : State) : State :=
  let s1 := s.setAct { s.act with close := false, closeTimer := none }
  if s.act.close then s1.pulseEnded else s1

/-- The TRIP line falls, and the Sample Interface is told if it was active. -/
def State.dropTrip (s : State) : State :=
  let s1 := s.setAct { s.act with trip := false, tripTimer := none }
  if s.act.trip then s1.pulseEnded else s1

/-- A held trip starts at the end of a close pulse (R81). -/
def State.startHeld (s : State) (reported : Bool) : State := if s.act.heldTrip then s.startTrip reported else s

/-- A close pulse ends at its width or at a tag entry: the supervision goes on unless a held trip starts (R79, R81,
R82). -/
def State.endClosePulse (s : State) : State := s.dropClose.startHeld (decide (s.act.supervision = .closeWait))

/-- Tests the close confirm (R79); a held trip starts at the same event, its start reported (R81). R81 and R55 let the Sequence
Controller take the two reports in either order; that it takes the close confirm first is the model's choice (log 53). -/
def State.closeTest (s : State) : State :=
  if s.act.supervision = .closeWait ∧ s.sample.view = .closed ∧ s.streamLive then
    ((s.setAct { s.act with confirm := .stopped, supervision := .none }).dropClose.closeConfirm).startHeld true
  else s

/-- Starts a close pulse (R78). -/
def State.startClose (s : State) : State :=
  (s.setAct { s.act with
    close := true, closeTimer := s.timer (msec (closePulseWidth s.unit)), supervision := .closeWait,
    confirm := s.confirmFrom (closeConfirmLimit s.unit) }).pulseStarted

/-! ## Views and streams (R73, R79, R83) -/

/-- The confirm that is awaited is tested. -/
def State.confirmTest (s : State) : State :=
  match s.act.supervision with
  | .none => s
  | .tripWait => s.tripTest
  | .closeWait => s.closeTest

/-- The stream's change to STALE suspends a running confirm timer. -/
def State.suspendConfirm (s : State) : State := s.setAct { s.act with confirm := s.act.confirm.suspend s.now }

/-- The stream's change out of STALE resumes it and tests the confirm. -/
def State.resumeConfirm (s : State) : State := s.setAct { s.act with confirm := s.act.confirm.resume s.now }

/-- The Sequence Controller tests what it tests at a stream change (R45, R64). -/
def State.sequenceStreamChange (s : State) : State := s.initTest.mechTest

/-- A change of the stream state to FILLING or VALID reaches the Sequence Controller and the Actuator Control. -/
def State.streamChanged (s : State) : State := s.sequenceStreamChange.resumeConfirm.confirmTest

/-- The Sequence Controller takes a view change (R45, R60, R61, R64). -/
def State.sequenceViewChange (s : State) : State :=
  match s.seq.state with
  | .init => s.initTest
  | .idle | .timing | .reclaim => if s.sample.view = .opened ∧ s.noPulse then s.externalOpen else s
  | .lockout | .dead => if s.sample.view = .closed ∧ s.noPulse then s.externalClose else s
  | .mechFail => s.mechTest
  | .tripping | .closing => s

/-- A view change reaches the Sequence Controller and the Actuator Control (R10). -/
def State.viewChanged (s : State) : State := s.sequenceViewChange.confirmTest

/-! ## Failures (R75, R80, R84) -/

/-- A failed confirm: both lines inactive, no supervision, the latch set, and the failure reported. -/
def State.confirmFailed (s : State) (cause : MechCause) : State :=
  let s1 := s.dropTrip.dropClose
  (s1.setAct { s1.act with
    supervision := .none, retry := false, confirm := .stopped, heldTrip := false, latch := true }).mechFailure cause

/-- The second trip pulse (R74). -/
def State.secondTrip (s : State) : State :=
  let s1 := s.setAct { s.act with
    retry := true, trip := true, tripTimer := s.timer (msec (tripPulseWidth s.unit)),
    confirm := s.confirmFrom (tripConfirmLimit s.unit) }
  if s.act.trip then s1 else s1.pulseStarted

/-! ## Close requests and their answers (R52, R53, R58, R77) -/

/-- The answer of an energy item to a reclose (R53): the wait goes on, starts, or ends at once when it is 0. -/
def State.energyAnswer (s : State) : State :=
  if s.seq.energyWait.isSome then s
  else if closeEnergyWait s.unit = 0 then s.enterLockout .energy
  else s.setSeq { s.seq with energyWait := s.timer (sec (closeEnergyWait s.unit)) }

/-- Permission is checked for a reclose, and the Sequence Controller acts on the answer (R52). -/
def State.answerReclose (s : State) : State :=
  match s.permission with
  | none => (s.enterClosing .reclose).startClose
  | some .tag => s.enterLockout .tag
  | some .position => s.enterLockout .position
  | some .mechanism => s.mechFailure .latch
  | some .power => s.enterLockout .power
  | some .stream => s.enterLockout .stream
  | some .tripEnergy => s.energyAnswer
  | some .closeEnergy => s.energyAnswer

/-- A reclose is requested; an active TRIP line defers it (R77). -/
def State.requestReclose (s : State) : State :=
  if s.act.trip then s.setAct { s.act with deferred := some .reclose } else s.answerReclose

/-- Permission is checked for a manual close, with the answer to its OPERATE (R58). -/
def State.answerManual (s : State) : State × ResultCode :=
  match s.permission with
  | none => ((s.enterClosing .manual).startClose, .ok)
  | some i => (s, permissionCode i)

/-- The answer to a deferred OPERATE CLOSE leaves (R77, R173). -/
def State.answerDeferred (s : State) (c : ResultCode) : State :=
  match s.cmd.deferredClose with
  | none => s
  | some r => (s.setCmd { s.cmd with deferredClose := none }).respond r .operate c []

/-- A deferred close is checked and answered at the end of the trip pulse (R77). -/
def State.deferredCheck (s : State) : State :=
  let s1 := s.setAct { s.act with deferred := none }
  match s.act.deferred with
  | none => s
  | some .reclose => s1.answerReclose
  | some .manual => s1.answerManual.1.answerDeferred s1.answerManual.2

end Sys2Proof.Machine
end

