-- ==== Sys2Proof/Machine/Sequence.lean ====
section
/-! DEFINITION. The events of the Sequence Controller that ask the Actuator Control for a pulse (R46..R65): the outputs of
the Overcurrent Unit, manual operations, sensor loss and tag entries. -/

namespace Sys2Proof.Machine

/-- A trip: TRIPPING is entered, then the pulse is asked for (R49). -/
def State.tripFor (s : State) (kind : TripKind) (raise : Bool) : State := (s.enterTripping kind raise).requestTrip

/-- A pickup event (R46, R56). -/
def State.sequencePickup (s : State) : State :=
  match s.seq.state with
  | .idle => s.enterTiming
  | .reclaim => s.setSeq { s.seq with reclaim := none }
  | _ => s

/-- A coordination advance is due: the next entry is coordinating and the raised count stays below the effective
operations-to-lockout (R48, R57). -/
def State.advanceDue (s : State) : Bool :=
  entryCoordinating s.governingTable (s.seq.s + 1) && decide (s.seq.s + 1 < s.effectiveOps)

/-- A coordination advance (R48, R57): s rises, the Fault Log is told, RECLAIM is entered or restarted. -/
def State.coordinationAdvance (s : State) : State :=
  (((s.setSeq { s.seq with s := s.raised }).faultClose .coordinated).enterReclaim .advance)

/-- An all-dropped event (R48, R57). -/
def State.sequenceAllDropped (s : State) : State :=
  match s.seq.state with
  | .timing => if s.advanceDue then s.coordinationAdvance else s.enterIdle
  | .reclaim =>
    if s.advanceDue then s.coordinationAdvance else s.setSeq { s.seq with reclaim := s.reclaimTimer }
  | _ => s

/-- A trip is requested in CLOSING (R55): the mark is set, a manual close latches the active group, and the Actuator
Control is asked. With the mark already set only a manual open changes the kind. -/
def State.tripInClosing (s : State) (kind : TripKind) : State :=
  if s.seq.tripRequested then
    (if kind = .manual then s.setSeq { s.seq with tripKind := .manual } else s)
  else (s.latch.setSeq { s.latch.seq with tripRequested := true, tripKind := kind }).requestTrip

/-- A trip decision (R45, R46, R47, R55, R57). -/
def State.sequenceDecision (s : State) : State :=
  match s.seq.state with
  | .init => s.tripFor .startup true
  | .idle => s.enterTiming.tripFor .protection true
  | .timing => s.tripFor .protection true
  | .reclaim => s.tripFor .protection true
  | .closing => s.tripInClosing .protection
  | _ => s

/-- OPERATE OPEN, with its answer (R62). -/
def State.manualOpen (s : State) : State × ResultCode :=
  match s.seq.state with
  | .init | .idle | .timing | .reclaim => (s.tripFor .manual false, .ok)
  | .closing => (s.tripInClosing .manual, .ok)
  | .tripping => (s.setSeq { s.seq with tripKind := .manual }, .ok)
  | .dead => (s.enterLockout .manual, .ok)
  | .lockout => (s, .ok)
  | .mechFail => (s, .refusedMech)

/-- The sensor-loss action (R63). -/
def State.sensorLossAction (s : State) : State :=
  match s.seq.state with
  | .idle | .timing | .reclaim => if sensorLossTrips s.unit then s.tripFor .sensor false else s
  | _ => s

/-- The Sequence Controller takes a tag entry (R65). -/
def State.sequenceTagEntry (s : State) : State := if s.seq.state = .dead then s.enterLockout .tag else s

/-- A tag record enters the table: the Sequence Controller takes it, then the Actuator Control drops an active CLOSE line
(R65, R82). -/
def State.tagEntry (s : State) : State :=
  let s1 := s.sequenceTagEntry
  if s1.act.close then s1.endClosePulse else s1

end Sys2Proof.Machine
end

