-- ==== Sys2Proof/Machine/Overcurrent.lean ====
section
/-! DEFINITION. The Overcurrent Unit (spec/02): the arithmetic of one evaluation (R20..R37) and how its outputs reach the
Sequence Controller and the Fault Log (R39, R40, R147..R151). -/

namespace Sys2Proof.Machine

/-! ## Curves (R21, R22, R24) -/

/-- Full scale of an accumulator. -/
def fullScale : Nat := 16777216

/-- Effective pickup (R21). -/
def effectivePickup (pickup cl8 : Nat) : Nat := pickup * cl8 / 8

/-- Multiple of pickup in sixteenths (R22). -/
def multiple (irms peff : Nat) : Nat := min 640 (16 * irms / peff)

/-- The breakpoints of a curve. -/
def curvePoints (t : Table) : List (Nat × Nat) :=
  (List.range (pointCount t)).map fun k => (pointMultiple t k, pointRate t k)

/-- The rate at a multiple: the last rate at or beyond the last breakpoint, else interpolated and truncated (R24). -/
def rateAt : List (Nat × Nat) → Nat → Nat
  | [], _ => 0
  | [p], _ => p.2
  | p :: q :: rest, m =>
    if m < q.1 then p.2 + (q.2 - p.2) * (m - p.1) / (q.1 - p.1) else rateAt (q :: rest) m

/-! ## Accumulators (R23, R25..R27) -/

/-- Pickup state after a multiple (R23). -/
def nextPicked (picked : Bool) (m : Nat) : Bool := decide (16 ≤ m) || (picked && decide (m = 15))

/-- The value of a DROPPED accumulator after an evaluation (R27). -/
def resetValue (curve : Table) (value : Nat) : Nat := if curveDecays curve then value - resetRate curve else 0

/-- An accumulator after an evaluation at a multiple (R23, R25, R27). -/
def Accumulator.step (a : Accumulator) (curve : Table) (m : Nat) : Accumulator :=
  if nextPicked a.picked m then
    if 16 ≤ m then
      { value := min fullScale (a.value + rateAt (curvePoints curve) m), picked := true, count := min 65535 (a.count + 1) }
    else { a with picked := true }
  else { value := resetValue curve a.value, picked := false, count := 0 }

/-- The operate condition, which a DROPPED accumulator never meets (R26, R27). -/
def Accumulator.met (a : Accumulator) (curve : Table) : Bool :=
  a.picked && decide (a.value = fullScale) && decide (minimumResponse curve ≤ a.count)

/-! ## Instantaneous elements (R30..R32) -/

/-- A high-set counter after an evaluation (R30); a threshold of 0 is off. -/
def highSetStep (count threshold : Nat) (above : Bool) : Nat :=
  if threshold ≠ 0 ∧ above then min 255 (count + 1) else 0

/-- Which magnitudes are at or above the thresholds given for the phases and for N. -/
def atOrAbove (mags : Currents Nat) (phase ground : Nat) : Currents Bool :=
  ⟨decide (phase ≤ mags.a), decide (phase ≤ mags.b), decide (phase ≤ mags.c), decide (ground ≤ mags.n)⟩

/-- What an evaluation reads (R20). -/
structure EvalInput where
  group : Table
  phaseCurve : Table
  groundCurve : Table
  entry : Nat
  hotLine : Bool
  mags : Currents Nat
  deriving DecidableEq, Repr

/-- What an evaluation finds. -/
structure EvalOutput where
  unit : OvercurrentUnit
  elements : Elements
  channels : Currents Bool
  deriving DecidableEq, Repr

/-- CL8 in force: the group's while the cold-load window is OPEN, else 8 (R21). -/
def OvercurrentUnit.cl8 (u : OvercurrentUnit) (group : Table) : Nat := if u.coldOpen then coldLoadMultiplier group else 8

/-- The multiples of the four channels (R21, R22). -/
def OvercurrentUnit.multiples (u : OvercurrentUnit) (i : EvalInput) : Currents Nat :=
  let p := effectivePickup (phasePickup i.group) (u.cl8 i.group)
  let g := effectivePickup (groundPickup i.group) (u.cl8 i.group)
  ⟨multiple i.mags.a p, multiple i.mags.b p, multiple i.mags.c p, multiple i.mags.n g⟩

/-- The four accumulators after an evaluation. -/
def OvercurrentUnit.steppedAccs (u : OvercurrentUnit) (i : EvalInput) : Currents Accumulator :=
  let m := u.multiples i
  ⟨u.accs.a.step i.phaseCurve m.a, u.accs.b.step i.phaseCurve m.b, u.accs.c.step i.phaseCurve m.c,
   u.accs.n.step i.groundCurve m.n⟩

/-- Channels over their high-set threshold; a threshold of 0 is off (R30). -/
def EvalInput.highSetOver (i : EvalInput) : Currents Bool :=
  let o := atOrAbove i.mags (phaseHighSet i.group) (groundHighSet i.group)
  let p := decide (phaseHighSet i.group ≠ 0)
  ⟨p && o.a, p && o.b, p && o.c, decide (groundHighSet i.group ≠ 0) && o.n⟩

/-- Channels over their hot-line threshold while the element is active (R32). -/
def EvalInput.hotOver (i : EvalInput) : Currents Bool :=
  let o := atOrAbove i.mags (hotLinePhase i.group) (hotLineGround i.group)
  ⟨i.hotLine && o.a, i.hotLine && o.b, i.hotLine && o.c, i.hotLine && o.n⟩

/-- Any element out of its idle state (R35). -/
def OvercurrentUnit.anyOut (u : OvercurrentUnit) : Bool :=
  u.accs.a.picked || u.accs.b.picked || u.accs.c.picked || u.accs.n.picked
    || decide (0 < u.highSetPhase) || decide (0 < u.highSetGround) || u.hotLineOver

/-- The unit after an evaluation (R21..R27, R30, R32, R35). -/
def OvercurrentUnit.stepped (u : OvercurrentUnit) (i : EvalInput) : OvercurrentUnit :=
  let v : OvercurrentUnit := { u with
    accs := u.steppedAccs i
    highSetPhase := highSetStep u.highSetPhase (phaseHighSet i.group) i.highSetOver.anyPhase
    highSetGround := highSetStep u.highSetGround (groundHighSet i.group) i.highSetOver.n
    hotLineOver := i.hotOver.any }
  { v with active := v.anyOut }

/-- The elements met, read from the unit after its update (R26, R31, R32). -/
def OvercurrentUnit.elementsMet (v : OvercurrentUnit) (i : EvalInput) : Elements :=
  let enabled := entryHighSet i.group i.entry
  { tocP := v.accs.a.met i.phaseCurve || v.accs.b.met i.phaseCurve || v.accs.c.met i.phaseCurve
    tocG := v.accs.n.met i.groundCurve
    hsP := enabled && decide (0 < v.highSetPhase) && decide (highSetCount i.group ≤ v.highSetPhase)
    hsG := enabled && decide (0 < v.highSetGround) && decide (highSetCount i.group ≤ v.highSetGround)
    hl := v.hotLineOver }

/-- The channels out of their idle state (R37). -/
def OvercurrentUnit.channelsOut (v : OvercurrentUnit) (i : EvalInput) : Currents Bool :=
  let h := i.highSetOver
  let l := i.hotOver
  ⟨v.accs.a.picked || h.a || l.a, v.accs.b.picked || h.b || l.b, v.accs.c.picked || h.c || l.c, v.accs.n.picked || h.n || l.n⟩

/-- One evaluation of all the elements (R20). -/
def OvercurrentUnit.evaluate (u : OvercurrentUnit) (i : EvalInput) : EvalOutput :=
  { unit := u.stepped i, elements := (u.stepped i).elementsMet i, channels := (u.stepped i).channelsOut i }

/-- One or more elements are met. -/
def Elements.any (e : Elements) : Bool := e.tocP || e.tocG || e.hsP || e.hsG || e.hl

/-! ## An evaluation in the engine -/

/-- Number of the operation entry in force (R20). -/
def State.entryInForce (s : State) : Nat := min 4 (s.seq.s + 1)

/-- What the unit reads for an evaluation at given magnitudes (R20). -/
def State.evalInput (s : State) (mags : Currents Nat) : EvalInput :=
  { group := s.governingTable
    phaseCurve := s.curveTable (entryPhaseCurve s.governingTable s.entryInForce)
    groundCurve := s.curveTable (entryGroundCurve s.governingTable s.entryInForce)
    entry := s.entryInForce, hotLine := s.tags.hotLine, mags := mags }

/-- A pickup reaches the Sequence Controller, then the Fault Log, which opens a record in TIMING or RECLAIM (R147). -/
def State.takePickup (s : State) : State :=
  let s1 := s.sequencePickup
  if s1.seq.state = .timing ∨ s1.seq.state = .reclaim then s1.faultOpen else s1

/-- The Fault Log is told of a trip decision that opens a record: a close onto a fault, or a decision taken in IDLE as
a pickup (R147, R46). -/
def State.decisionOpens (s : State) : State :=
  match s.seq.state with
  | .closing => s.faultOpen
  | .idle => s.faultOpen
  | _ => s

/-- The outputs of one evaluation in the order of R39; the summary goes with them (R40, log 21). -/
def State.takeOutputs (s : State) (wasActive : Bool) (o : EvalOutput) (m : Summary) : State :=
  let s1 := if !wasActive && o.unit.active then s.takePickup else s
  if o.elements.any then ((s1.decisionOpens.faultSummary m).faultDecision o.elements).sequenceDecision
  else if wasActive && !o.unit.active then ((s1.faultSummary m).sequenceAllDropped).faultAllDropped
  else s1.faultSummary m

/-- The Overcurrent Unit takes an evaluation instant. Before the restore-complete event it leaves its state as it is
and gives no output (R41). -/
def State.overcurrent (s : State) (mags : Currents Nat) (clipped : Currents Bool) : State :=
  if s.supply.restoreMark then
    let o := s.oc.evaluate (s.evalInput mags)
    (s.setOc o.unit).takeOutputs s.oc.active o { mags := mags, clipped := clipped, channels := o.channels }
  else s

end Sys2Proof.Machine
end

