-- ==== Sys2Proof/Machine/SamplePath.lean ====
section
/-! DEFINITION. The sample path (spec/01): sample instants, the stream state, the position view, magnitudes and METERING
frames (R1..R18). -/

namespace Sys2Proof.Machine

/-! ## METERING frames (R16..R18) -/

/-- The METERING frame (R18, spec/11 section 11.3). -/
def State.meteringFrame (s : State) : OutFrame :=
  { kind := kindMetering
    payload := encWord s.mag.evalCount ++ encCurrents s.mag.mags.currents
      ++ enc2 s.mag.mags.va ++ enc2 s.mag.mags.vb ++ enc2 s.mag.mags.vc
      ++ enc1 s.seq.state.ctorIdx ++ enc1 s.seq.s ++ enc1 s.sample.view.ctorIdx ++ enc1 s.sample.stream.ctorIdx
      ++ enc1 s.supply.power.ctorIdx ++ enc1 s.soc }

/-- Sends a METERING frame and clears the whole-second flag (R16). -/
def State.sendMetering (s : State) : State := (s.setMag { s.mag with wholeSecond := false }).hand s.meteringFrame

/-- Whether a METERING frame is due at an evaluation instant (R16). -/
def State.meteringDue (s : State) : Bool :=
  match s.supply.power with
  | .start | .normal | .carry => decide (s.mag.evalCount.toNat % 4 = 0)
  | .conserve => s.mag.wholeSecond
  | .cutoff => false

/-! ## Evaluation instants (R15) -/

/-- The Magnitude Unit at an evaluation instant: new magnitudes, the count raised, the clip marks cleared (R15, R12). -/
def MagnitudeUnit.evaluated (m : MagnitudeUnit) : MagnitudeUnit :=
  { m with mags := m.sums.map magnitude, evalCount := m.evalCount + 1, clip := .all false }

/-- The METERING frame of an evaluation instant, if one is due (R16). -/
def State.metered (s : State) : State := if s.meteringDue then s.sendMetering else s

/-- An evaluation instant: magnitudes, METERING, then the Overcurrent Unit (R15, R16, R20). -/
def State.evaluate (s : State) : State :=
  ((s.setMag s.mag.evaluated).metered).overcurrent s.mag.evaluated.mags.currents s.mag.clip

/-! ## Sample instants (R1, R4, R5, R12, R14) -/

/-- Samples and clip flags taken into the windows and the clip marks (R14, R12). -/
def MagnitudeUnit.push (m : MagnitudeUnit) (x : Channels Int) (clip : Currents Bool) : MagnitudeUnit :=
  { m with
    windows := Channels.zip pushWindow m.windows x
    sums := Channels.zip3 pushSum m.sums m.windows x
    clip := Currents.zip (fun a b => a || b) m.clip clip }

/-- The run counter in FILLING, or the evaluation phase in VALID, advanced by one (R1). -/
def SampleInterface.counted (si : SampleInterface) : SampleInterface :=
  match si.stream with
  | .filling => { si with run := si.run + 1 }
  | .valid => { si with phase := (si.phase + 1) % 8 }
  | _ => si

/-- One sample instant forms: windows, marks and counters (R1, R4). -/
def State.formInstant (s : State) (x : Channels Int) (clip : Currents Bool) : State :=
  (s.setMag (s.mag.push x clip)).setSample s.sample.counted

/-- The 32nd instant of a run makes the stream VALID at phase 0 and tells the Sequence Controller and the Actuator
Control (R5), before the instant is evaluated (log 52). -/
def State.becomeValid (s : State) : State :=
  if s.sample.stream = .filling ∧ s.sample.run = 32 then
    (s.setSample { s.sample with stream := .valid, phase := 0 }).streamChanged
  else s

/-- The end of a sample instant: VALID, then the evaluation instant if it is one (R5). R45 lets the change to VALID and the
outputs of that instant's evaluation be taken in either order; that the change comes first is the model's choice (log 52). -/
def State.endInstant (s : State) : State :=
  let s1 := s.becomeValid
  if s1.sample.stream = .valid ∧ s1.sample.phase = 0 then s1.evaluate else s1

/-- The clip flags of the last status. -/
def SampleInterface.lastClip (si : SampleInterface) : Currents Bool :=
  match si.lastStatus with
  | none => .all false
  | some st => st.clip

/-- A filled sample instant (R4). -/
def State.fillInstant (s : State) : State :=
  let s1 := s.formInstant s.sample.last s.sample.lastClip
  (s1.setSample { s1.sample with expected := s1.sample.expected.map (· + 1) }).endInstant

/-- Several fills. -/
def State.fills : Nat → State → State
  | 0, s => s
  | n + 1, s => State.fills n s.fillInstant

/-! ## Accepted frames (R1, R10, R11) -/

/-- The disagree timer after a view is read at an accepted frame (R11): stopped unless the view is DISAGREE; started
when the view becomes DISAGREE, or the stream leaves STALE, with no pulse active. -/
def State.disagreeAfter (s : State) (before : View) (leftStale : Bool) : Timer :=
  if s.sample.view ≠ .disagree then none
  else if (before ≠ .disagree ∨ leftStale) ∧ s.noPulse then s.disagreeTimer
  else s.sample.disagree

/-- The frame's values become the last sample, status and expected number, and the absence timer restarts at 2.5 ms
(R1). -/
def State.takeFrame (s : State) (f : SampleFrame) : State :=
  s.setSample { s.sample with
    last := frameSamples f, lastStatus := some (sampleStatus f.status), expected := some (f.seq + 1), absence := s.timer 5 }

/-- The view read from the frame's status, and the disagree timer (R10, R11). -/
def State.readView (s : State) (f : SampleFrame) (leftStale : Bool) : State :=
  let before := s.sample.view
  let s1 := s.setSample { s.sample with view := nextView before (rawPosition (sampleStatus f.status)) }
  s1.setSample { s1.sample with disagree := s1.disagreeAfter before leftStale }

/-- A frame is accepted. `prior` is the stream state before it, and `fresh` says that it starts a new run, whose stream
change is told before the view change. The view change is told before the instant becomes VALID or is evaluated, in VALID
too; both orders are the model's choice (R1, R10, log 22). -/
def State.acceptFrame (s : State) (f : SampleFrame) (prior : StreamState) (newRun : Bool) : State :=
  let s1 := (s.takeFrame f).formInstant (frameSamples f) (sampleStatus f.status).clip
  let s2 := s1.readView f (decide (prior = .stale))
  let s3 := if newRun ∧ prior ≠ .filling then s2.streamChanged else s2
  (if s2.sample.view ≠ s1.sample.view then s3.viewChanged else s3).endInstant

/-- A new run: windows and marks cleared, run counter 0, FILLING, the sensor-loss timer stopped (R2, R3). -/
def State.beginRun (s : State) : State :=
  (s.setMag s.mag.cleared).setSample { s.sample with stream := .filling, run := 0, sensorLoss := none }

/-- A SAMPLE frame that starts a new run. -/
def State.newRunFrame (s : State) (f : SampleFrame) : State := s.beginRun.acceptFrame f s.sample.stream true

/-- A SAMPLE frame checked against the expected number (R3). -/
def State.checkedFrame (s : State) (f : SampleFrame) (d : Nat) : State :=
  if d = 0 then s.acceptFrame f s.sample.stream false
  else if d ≤ 3 then
    let s1 := State.fills d s
    s1.acceptFrame f s1.sample.stream false
  else if d ≤ 127 then s.newRunFrame f
  else s

/-- A SAMPLE frame arrives (R2, R3). -/
def State.takeSample (s : State) (f : SampleFrame) : State :=
  match s.sample.stream, s.sample.expected with
  | .absent, _ => s.newRunFrame f
  | .stale, _ => s.newRunFrame f
  | .filling, some e => s.checkedFrame f (seqDelta f.seq e)
  | .valid, some e => s.checkedFrame f (seqDelta f.seq e)
  | .filling, none => s.acceptFrame f .filling false
  | .valid, none => s.acceptFrame f .valid false

/-- SAMPLE_FRAME (R3). -/
def execSampleFrame (f : SampleFrame) (s : State) : Result := .next (s.takeSample f).grant

/-! ## Absence, sensor loss, disagreement (R6, R7, R11) -/

/-- The last accepted sequence number (R8); all ones before any frame. -/
def SampleInterface.lastAccepted (si : SampleInterface) : Byte :=
  match si.expected with
  | none => 0xFF
  | some e => e - 1

/-- A SENSOR report (R8). -/
def State.sensorReport (s : State) (e : SensorEvent) (prior : StreamState) (staleTime : Nat) : State :=
  s.report 6 (.sensor e s.sample.lastAccepted s.sample.view prior staleTime)

/-- The sensor-loss timer at full length (R7). -/
def State.sensorLossTimer (s : State) : Timer := s.timer (msec (100 * sensorLossTime s.unit))

/-- The stream becomes STALE (R6). -/
def State.becomeStale (s : State) : State :=
  let s1 := s.setSample { s.sample with stream := .stale, absence := none, disagree := none, sensorLoss := s.sensorLossTimer }
  (s1.sensorReport .streamStale s.sample.stream 0).sequenceStreamChange.suspendConfirm

/-- ABSENCE_TIMER_EXPIRY (R6). -/
def execAbsenceTimerExpiry (s : State) : Result := onExpiry s.sample.absence s fun s => s.becomeStale.grant

/-- The sensor-loss event: the Actuator Control ends an awaited confirm, then the Sequence Controller takes its action
(R84, R63, log 23). -/
def State.sensorLossEvent (s : State) : State :=
  (if s.act.supervision = .none then s else s.confirmFailed .sensor).sensorLossAction

/-- The sensor-loss timer expires (R7); the stale time of the report is the sensor-loss time then in force, in 0.1 s (R8). -/
def State.sensorLossExpiry (s : State) : State :=
  ((s.setSample { s.sample with sensorLoss := none }).sensorLossEvent).sensorReport .sensorLoss .stale (sensorLossTime s.unit)

/-- SENSOR_LOSS_TIMER_EXPIRY (R7). -/
def execSensorLossTimerExpiry (s : State) : Result := onExpiry s.sample.sensorLoss s fun s => s.sensorLossExpiry.grant

/-- The MECH report of a view that becomes UNKNOWN (R86). -/
def State.positionUnknownReport (s : State) : State :=
  s.report 7 (.mech .positionUnknown s.seq.state s.seq.s s.sample.view)

/-- The view becomes UNKNOWN (R11, R86). -/
def State.becomeUnknown (s : State) : State :=
  ((s.setSample { s.sample with view := .unknown, disagree := none }).viewChanged).positionUnknownReport

/-- DISAGREE_TIMER_EXPIRY (R11). -/
def execDisagreeTimerExpiry (s : State) : Result := onExpiry s.sample.disagree s fun s => s.becomeUnknown.grant

end Sys2Proof.Machine
end

