-- ==== Sys2Proof/Machine/SequenceTimers.lean ====
section
/-! DEFINITION. The expiries and limits of the Overcurrent Unit, the Sequence Controller and the Actuator Control. -/

namespace Sys2Proof.Machine

/-- The cold-load window closes (R34). -/
def State.coldLoadExpiry (s : State) : State := s.setOc { s.oc with coldOpen := false, coldTimer := none }

/-- COLD_LOAD_TIMER_EXPIRY (R34). -/
def execColdLoadTimerExpiry (s : State) : Result := onExpiry s.oc.coldTimer s fun s => s.coldLoadExpiry.grant

/-- The dead timer expires: a reclose close is asked for (R52). -/
def State.deadExpiry (s : State) : State :=
  let s1 := s.setSeq { s.seq with dead := none }
  if s.seq.state = .dead then s1.requestReclose else s1

/-- DEAD_TIMER_EXPIRY (R52). -/
def execDeadTimerExpiry (s : State) : Result := onExpiry s.seq.dead s fun s => s.deadExpiry.grant

/-- The energy wait ends in LOCKOUT with reason ENERGY (R53). -/
def State.energyWaitExpiry (s : State) : State :=
  let s1 := s.setSeq { s.seq with energyWait := none }
  if s.seq.state = .dead then s1.enterLockout .energy else s1

/-- ENERGY_WAIT_TIMER_EXPIRY (R53). -/
def execEnergyWaitTimerExpiry (s : State) : Result := onExpiry s.seq.energyWait s fun s => s.energyWaitExpiry.grant

/-- The RECLOSE_OK report (R56, R68). -/
def State.recloseOk (s : State) : State :=
  s.report 3 (.recloseOk s.seq.s s.governing (reclaimTime s.governingTable))

/-- The reclaim timer expires: after a reclose RECLOSE_OK is queued, then IDLE is entered (R56). -/
def State.reclaimExpiry (s : State) : State :=
  let s1 := s.setSeq { s.seq with reclaim := none }
  if s.seq.state = .reclaim then
    (if s.seq.reclaimCause = .reclose then s1.recloseOk else s1).enterIdle
  else s1

/-- RECLAIM_TIMER_EXPIRY (R56). -/
def execReclaimTimerExpiry (s : State) : Result := onExpiry s.seq.reclaim s fun s => s.reclaimExpiry.grant

/-- TRIP_PULSE_TIMER_EXPIRY (R72, R77). -/
def execTripPulseTimerExpiry (s : State) : Result := onExpiry s.act.tripTimer s fun s => s.dropTrip.deferredCheck.grant

/-- CLOSE_PULSE_TIMER_EXPIRY (R79, R81). -/
def execClosePulseTimerExpiry (s : State) : Result := onExpiry s.act.closeTimer s fun s => s.endClosePulse.grant

/-- The confirm timer as it runs toward the limit of a supervision; a suspended timer reaches no limit (R83). -/
def ActuatorControl.limitTimer (a : ActuatorControl) (v : Supervision) : Timer :=
  match a.confirm with
  | .running c => if a.supervision = v then some c else none
  | _ => none

/-- The trip confirm limit: a second pulse, or after the retry the failure (R74, R75). -/
def State.tripLimit (s : State) : State := if s.act.retry then s.confirmFailed .tripConfirm else s.secondTrip

/-- TRIP_CONFIRM_LIMIT (R74, R75). -/
def execTripConfirmLimit (s : State) : Result := onExpiry (s.act.limitTimer .tripWait) s fun s => s.tripLimit.grant

/-- CLOSE_CONFIRM_LIMIT (R80). -/
def execCloseConfirmLimit (s : State) : Result :=
  onExpiry (s.act.limitTimer .closeWait) s fun s => (s.confirmFailed .closeConfirm).grant

end Sys2Proof.Machine
end

