-- ==== Sys2Proof/Machine/Battery.lean ====
section
/-! DEFINITION. The Battery Unit (spec/07): taking a CABINET frame (R116..R126), the battery test (R128..R132), and the
timers of the unit. -/

namespace Sys2Proof.Machine

/-! ## Taking a frame (R116) -/

/-- Q after the integration of a frame and its gap, and whether a discharging step took it to 0 (R117, R118, R119). -/
def State.integrate (s : State) (gap : Gap) : Nat × Bool :=
  let qmax := qMax s.batteryTable
  coulombStepMark qmax s.supply.meas.current
    (coulombSteps qmax (s.battery.prevCurrent.getD 0) (gapSteps gap s.battery.prevCurrent) (s.battery.q, false))

/-- Steps 1 to 3 for Q: integration, then the empty recalibration (R117..R119). -/
def State.frameCharge (s : State) (gap : Gap) : State :=
  s.setBattery { s.battery with
    q := if s.belowCutoff then 0 else (s.integrate gap).1, prevCurrent := some s.supply.meas.current }

/-- A settled FLOAT frame: a current from 0 to the absorb end current (R119). -/
def State.floatSettled (s : State) : Bool :=
  decide (0 ≤ s.supply.meas.current) && decide (s.supply.meas.current ≤ (absorbEndCurrent s.batteryTable : Int))

/-- The float-full timer at a frame (R119). -/
def State.frameFloatFull (s : State) : State :=
  if s.battery.charge = .float then
    s.setBattery { s.battery with
      floatFullTimer := if s.floatSettled then (if s.battery.floatFullTimer.isSome then s.battery.floatFullTimer else s.timer (sec 3600)) else none }
  else s

/-- The temperature state at a frame (R121). -/
def State.frameTemperature (s : State) : State :=
  if readingValid s.supply.meas then
    s.setBattery { s.battery with tempState := .valid, heldTemp := s.supply.meas.temperature, holdTimer := none }
  else if s.battery.tempState = .valid then
    s.setBattery { s.battery with tempState := .holding, holdTimer := s.timer (sec 60) }
  else s

/-- The lower of a voltage and a minimum, if there is one. -/
def lowerOf (v : Nat) : Option Nat → Nat
  | none => v
  | some m => min v m

/-- A frame taken into the measurement of a running test (R130). -/
def State.measureTest (s : State) : State :=
  s.setBattery { s.battery with
    vMin := some (lowerOf s.supply.meas.battery s.battery.vMin)
    dischargeSum := s.battery.dischargeSum - s.supply.meas.current
    frameCount := s.battery.frameCount + 1 }

/-- A frame of a running test: measured, then an abort where a cause holds, in the order of R130. -/
def State.frameTest (s : State) : State :=
  if s.battery.testState = .running then
    let s1 := s.measureTest
    if !s1.tripReady then s1.abortTest .tripEnergy s1.entryChoice
    else if s1.outsideWindow then s1.abortTest .temperature .rest
    else if s1.supply.chargerFault then s1.abortTest .chargerFault .rest
    else s1
  else s

/-- BULK at a frame (R124). -/
def State.frameBulk (s : State) : State :=
  if s.absorbTarget ≤ s.batteryMillivolts then
    let s1 := s.setCharge .absorb
    s1.setBattery { s1.battery with absorbTimer := s.timer (sec (3600 * absorbMaxTime s.batteryTable)) }
  else s

/-- ABSORB at a frame (R124). -/
def State.frameAbsorb (s : State) : State :=
  if s.supply.meas.current ≤ (absorbEndCurrent s.batteryTable : Int) then s.setCharge .float else s

/-- FLOAT at a frame (R125). -/
def State.frameFloat (s : State) : State :=
  if s.battery.tempState = .fault then s.setBattery { s.battery with rebulkTimer := none }
  else if s.soc < 90 then s.setCharge .bulk
  else if s.batteryMillivolts < s.floatTarget - 500 then
    s.setBattery { s.battery with
      rebulkTimer := if s.battery.rebulkTimer.isSome then s.battery.rebulkTimer else s.timer (sec 60) }
  else s.setBattery { s.battery with rebulkTimer := none }

/-- REST at a frame (R126). -/
def State.frameRest (s : State) : State :=
  if s.fresh ∧ !s.supply.chargerFault ∧ s.insideMargin then s.setCharge s.entryChoice else s

/-- The rest conditions that a frame can bring (R126). -/
def State.frameRests (s : State) : Bool := s.outsideWindow || s.supply.chargerFault

/-- The charge-state rules for a frame: one transition, from the state that the frame finds (R123..R126, log 24). -/
def State.frameState (s : State) : State :=
  match s.battery.charge with
  | .off => s
  | .rest => s.frameRest
  | .bulk => if s.frameRests then s.setCharge .rest else s.frameBulk
  | .absorb => if s.frameRests then s.setCharge .rest else s.frameAbsorb
  | .float => if s.frameRests then s.setCharge .rest else s.frameFloat
  | .test => if s.frameRests then s.setCharge .rest else s

/-- The Battery Unit takes a CABINET frame with its gap, in the order of R116. -/
def State.batteryFrame (s : State) (gap : Gap) : State :=
  (s.frameCharge gap).frameFloatFull.frameTemperature.frameTest.frameState.chargerUpdate

/-! ## Notices of the Supply Monitor (R123, R105) -/

/-- A notice of NORMAL: OFF becomes the entry choice (R123). -/
def State.noticeNormal (s : State) : State := if s.battery.charge = .off then s.setCharge s.entryChoice else s

/-- A notice of another state: OFF, a running test aborted (R123, R132). -/
def State.noticeNotNormal (s : State) : State :=
  if s.battery.testState = .running then s.abortTest .supplyLost .off else s.setCharge .off

/-- The power-state notice (R114, R123); the disconnect order is cleared at any state but CUTOFF (R127). -/
def State.batteryNotice (s : State) (p : PowerState) : State :=
  let s1 := s.setBattery { s.battery with disconnect := s.battery.disconnect && decide (p = .cutoff) }
  (if p = .normal then s1.noticeNormal else s1.noticeNotNormal).chargerUpdate

/-- The notice that the cabinet stream is STALE (R126, R132). -/
def State.batteryStale (s : State) : State :=
  (if s.battery.testState = .running then s.abortTest .streamStale .rest
   else if s.battery.charge = .off then s else s.setCharge .rest).chargerUpdate

/-! ## Timers of the unit -/

/-- The temperature state becomes FAULT: BULK and ABSORB become FLOAT, and the rebulk timer stops (R121, R124, R125). -/
def State.holdExpiry (s : State) : State :=
  let s1 := s.setBattery { s.battery with tempState := .fault, holdTimer := none, rebulkTimer := none }
  (if s.battery.charge = .bulk ∨ s.battery.charge = .absorb then s1.setCharge .float else s1).chargerUpdate

/-- HOLD_TIMER_EXPIRY (R121). -/
def execHoldTimerExpiry (s : State) : Result := onExpiry s.battery.holdTimer s fun s => s.holdExpiry.grant

/-- ABSORB ends in FLOAT (R124). -/
def State.absorbExpiry (s : State) : State :=
  let s1 := s.setBattery { s.battery with absorbTimer := none }
  (if s.battery.charge = .absorb then s1.setCharge .float else s1).chargerUpdate

/-- ABSORB_TIMER_EXPIRY (R124). -/
def execAbsorbTimerExpiry (s : State) : Result := onExpiry s.battery.absorbTimer s fun s => s.absorbExpiry.grant

/-- FLOAT becomes BULK after a lasting sag (R125). -/
def State.rebulkExpiry (s : State) : State :=
  let s1 := s.setBattery { s.battery with rebulkTimer := none }
  (if s.battery.charge = .float then s1.setCharge s1.battery.bulkChoice else s1).chargerUpdate

/-- REBULK_TIMER_EXPIRY (R125). -/
def execRebulkTimerExpiry (s : State) : Result := onExpiry s.battery.rebulkTimer s fun s => s.rebulkExpiry.grant

/-- Full recalibration; the timer restarts at 60 minutes (R119). -/
def State.floatFullExpiry (s : State) : State :=
  s.setBattery { s.battery with q := qMax s.batteryTable, floatFullTimer := s.timer (sec 3600) }

/-- FLOAT_FULL_TIMER_EXPIRY (R119). -/
def execFloatFullTimerExpiry (s : State) : Result :=
  onExpiry s.battery.floatFullTimer s fun s => s.floatFullExpiry.grant

/-- CHARGER_REPEAT_TIMER_EXPIRY (R127). -/
def execChargerRepeatTimerExpiry (s : State) : Result := onExpiry s.battery.repeatTimer s fun s => s.chargerSend.grant

/-! ## The battery test (R128..R131) -/

/-- A test starts (R129). -/
def State.startTest (s : State) (origin : TestOrigin) : State :=
  (s.setBattery ({ s.battery with
    testState := .running, testOrigin := origin, vRest := some s.supply.meas.battery, vMin := none, dischargeSum := 0,
    frameCount := 0, testTimer := s.timer (sec (testDuration s.batteryTable)) }.inCharge .test)).chargerUpdate

/-- A scheduled test that is due is tried, unless one runs or the retry timer does; a failed try starts the retry
timer (R128). -/
def State.tryScheduled (s : State) : State :=
  if s.testDue ∧ s.battery.testState = .idle ∧ s.battery.retryTimer.isNone then
    if s.testReady then s.startTest .scheduled
    else s.setBattery { s.battery with retryTimer := s.timer (sec 600) }
  else s

/-- SCHEDULE_RETRY_TIMER_EXPIRY (R128). -/
def execScheduleRetryTimerExpiry (s : State) : Result :=
  onExpiry s.battery.retryTimer s fun s => ((s.setBattery { s.battery with retryTimer := none }).tryScheduled).grant

/-- Mean load current of a test: floor of the sum over the count, 0 without frames (R131). -/
def BatteryUnit.load (b : BatteryUnit) : Int := if b.frameCount = 0 then 0 else b.dischargeSum / (b.frameCount : Int)

/-- Internal resistance in milliohms, saturating (R131). -/
def testResistance (vRest vMin load : Nat) : Nat := if vMin < vRest then min 65535 ((vRest - vMin) * 10 * 1000 / load) else 0

/-- Health after a result (R131). -/
def healthAfter (pass : Bool) (h : Health) : Health :=
  if pass then .good else match h with | .good => .weak | .weak => .failed | .failed => .failed

/-- Fail count after a result (R131). -/
def failCountAfter (pass : Bool) (n : Nat) : Nat := if pass then 0 else min 255 (n + 1)

/-- The test passes: V_min is at or above the compensated test minimum (R131). -/
def State.testPasses (s : State) : Bool := decide (s.testMinimum ≤ 10 * ((s.battery.vMin.getD 0 : Nat) : Int))

/-- The BATTERY report of a completed test, from the unit with the new health and fail count (R131). -/
def State.completeReport (s : State) (result : TestResult) (h : Health) (n : Nat) : BatteryReport :=
  { origin := s.battery.testOrigin, result := result, cause := none, vRest := s.battery.vRest, vMin := s.battery.vMin,
    load := some s.battery.load
    resistance := some (testResistance (s.battery.vRest.getD 0) (s.battery.vMin.getD 0) s.battery.load.toNat)
    workingTemp := s.battery.workingTemp, tempState := s.battery.tempState, testMinimum := s.testMinimum, health := h, failCount := n }

/-- A completed test with its result (R131): health, times, charge state, the notice to the Table Store, the report. -/
def State.completeTest (s : State) (pass : Bool) : State :=
  let result : TestResult := if pass then .pass else .fail
  let h := healthAfter pass s.battery.health
  let n := failCountAfter pass s.battery.failCount
  let b := { s.battery.testEnded result s.cmd.seconds with health := h, failCount := n }
  ((s.setBattery (b.inCharge b.bulkChoice)).chargerUpdate.noticeTestEnded).report
    (if h = .failed ∧ s.battery.health ≠ .failed then 5 else 2) (.battery (s.completeReport result h n))

/-- The test duration timer expires (R131). -/
def State.testExpiry (s : State) : State :=
  let s1 := s.setBattery { s.battery with testTimer := none }
  if s.battery.testState = .running then
    if s.battery.load ≤ 0 then s1.abortTest .noLoad s1.entryChoice else s1.completeTest s.testPasses
  else s1

/-- TEST_DURATION_TIMER_EXPIRY (R131). -/
def execTestDurationTimerExpiry (s : State) : Result :=
  onExpiry s.battery.testTimer s fun s => s.testExpiry.grant

/-- BATTERY_TEST (R129): refused, or the test starts and the request is answered at once. -/
def State.batteryTestRequest (s : State) (r : Req) : State :=
  if s.remoteRefused r then s.respond r .batteryTest .remoteDisabled []
  else if s.testReady then (s.startTest .requested).respond r .batteryTest .ok []
  else s.respond r .batteryTest .refusedState []

end Sys2Proof.Machine
end

