-- ==== Sys2Proof/Machine/Supply.lean ====
section
/-! DEFINITION. The Supply Monitor (spec/06): CABINET frames, freshness, qualification, the power states, cutoff and
disconnection (R103..R114). -/

namespace Sys2Proof.Machine

/-! ## Disconnection (R112) -/

/-- The final report has been sent, or the wait for it has ended, or there is none (R112). -/
def SupplyMonitor.finalSettled (u : SupplyMonitor) : Bool := u.finalSent || u.finalTimer.isNone || u.finalReport.isNone

/-- Tests the disconnection in DRAINING, and has the Battery Unit send DISCONNECT (R112). -/
def State.disconnectTest (s : State) : State :=
  if s.supply.stage = .draining ∧ s.arbiterIdle ∧ s.supply.finalSettled then
    ((s.setSupply { s.supply with stage := .disconnected, finalTimer := none }).setBattery
      { s.battery with disconnect := true }).chargerUpdate
  else s

/-! ## Changes of power state (R111, R114) -/

/-- Class of the POWER report of a new state (R114). -/
def powerClass : PowerState → Nat
  | .conserve => 5
  | .cutoff => 7
  | _ => 4

/-- The POWER report of a change from a previous state (R114). -/
def State.powerBody (s : State) (previous : PowerState) (cause : PowerCause) : ReportBody :=
  .power s.supply.power previous cause s.supply.meas.supply s.supply.meas.battery s.soc s.battery.health

/-- The power state takes a new value, and the Battery Unit is told; any change stops the cutoff timer (R109, R114). -/
def State.setPower (s : State) (p : PowerState) : State :=
  (s.setSupply { s.supply with power := p, cutoffTimer := none }).batteryNotice p

/-- A change to a state other than CUTOFF, reported (R114). The SoC of the report is that after the Battery Unit has taken the
notice, which may have applied a PENDING BATTERY table; that is the model's choice (log 48). -/
def State.changePower (s : State) (p : PowerState) (cause : PowerCause) : State :=
  let s1 := s.setPower p
  s1.report (powerClass p) (s1.powerBody s.supply.power cause)

/-- The final report is queued and its number kept, the final-report timer starts, the stage is DRAINING (R111). -/
def State.beginDraining (s : State) (body : ReportBody) : State :=
  let e := s.reports.enter 7 s.cmd.seconds body
  (s.setReports e.1).setSupply { s.supply with
    finalReport := e.2, finalSent := false, finalTimer := s.timer (sec 60), stage := .draining }

/-- Entry to CUTOFF (R111, R114); the SoC of its report is that after the notice (log 48). -/
def State.enterCutoff (s : State) (cause : PowerCause) : State :=
  let s1 := (s.setPower .cutoff).requestRecordWrite ⟨false, false, true⟩
  (s1.beginDraining (s1.powerBody s.supply.power cause)).disconnectTest

/-! ## The power-state rules at a frame (R107..R110, R113) -/

/-- The state and cause that SoC and health give when the battery is low (R114); `cause` is that of a low SoC. -/
def State.lowCause (s : State) (cause : PowerCause) : PowerCause :=
  if s.battery.health = .failed then .healthFailed else cause

/-- START ends with the supply present: NORMAL, QUALIFIED; absent: CONSERVE or CARRY, UNQUALIFIED (R110). At the
restore-complete event the presence is the one set at the last frame, under the level in force then; that it is not
judged again under the restored level is the model's choice (log 47). -/
def State.endStart (s : State) : State :=
  let q : Qualification := if s.supply.present then .qualified else .unqualified
  let s1 := s.setSupply { s.supply with qualification := q, qualifyTimer := none }
  if s.supply.present then s1.changePower .normal .startDone
  else if s.batteryLow then s1.changePower .conserve (s.lowCause .socLow)
  else s1.changePower .carry .startDone

/-- The cutoff timer started at 10 s (R109). -/
def State.startCutoff (s : State) : State := s.setSupply { s.supply with cutoffTimer := s.timer (sec 10) }

/-- START ends on a frame: a low voltage then starts the cutoff timer at that frame (R110). -/
def State.endStartOnFrame (s : State) : State :=
  let s1 := s.endStart
  if s.supply.present ∨ !s.belowCutoff then s1 else s1.startCutoff

/-- The power-state rules at an accepted frame; `exhausted` is the Battery Unit's notice (R107..R110, R113). -/
def State.powerRules (s : State) (exhausted : Bool) : State :=
  match s.supply.power with
  | .start => if s.supply.restoreMark then s.endStartOnFrame else s
  | .normal =>
    if s.supply.present then s
    else if s.batteryLow then s.changePower .conserve (s.lowCause .supplyLost)
    else s.changePower .carry .supplyLost
  | .carry =>
    if exhausted ∧ !s.supply.present then s.enterCutoff .exhausted
    else if s.batteryLow then s.changePower .conserve (s.lowCause .socLow)
    else s
  | .conserve => if exhausted ∧ !s.supply.present then s.enterCutoff .exhausted else s
  | .cutoff =>
    if s.supply.present then
      (s.setSupply { s.supply with stage := .none, finalTimer := none }).changePower .carry .supplyReturned
    else s

/-! ## CABINET frames (R103, R104, R106) -/

/-- The sequence check: discarded, or accepted with a gap (R103). -/
def State.cabinetGap (s : State) (f : CabinetFrame) : Option Gap :=
  match s.supply.lastSeq with
  | none => some none
  | some l =>
    if s.supply.freshness = .stale then some none
    else
      let d := seqDelta f.seq l
      if d = 0 ∨ 128 ≤ d then none else some (some (d - 1))

/-- Steps 1 and 2: measurements, flags, sequence, freshness (R104, R105). -/
def State.takeMeasurements (s : State) (f : CabinetFrame) : State :=
  s.setSupply { s.supply with
    meas := frameMeasurements f, remote := frameRemote f, chargerFault := frameChargerFault f, lastSeq := some f.seq,
    freshness := .fresh, freshTimer := s.timer (sec 1) }

/-- The latest measurements show the supply present (R106). -/
def State.showsSupply (s : State) : Bool := decide (supplyPresentLevel s.unit ≤ s.supply.meas.supply)

/-- Supply presence and qualification at a frame (R106). -/
def State.qualify (s : State) : State :=
  if s.showsSupply then
    (if s.supply.qualification = .unqualified then
      s.setSupply { s.supply with
        present := true, qualification := .qualifying, qualifyTimer := s.timer (sec (supplyQualifyTime s.unit)) }
     else s.setSupply { s.supply with present := true })
  else s.setSupply { s.supply with present := false, qualification := .unqualified, qualifyTimer := none }

/-- The power state is CARRY or CONSERVE. -/
def SupplyMonitor.onBattery (u : SupplyMonitor) : Bool := decide (u.power = .carry) || decide (u.power = .conserve)

/-- The cutoff timer at a frame (R109). -/
def State.frameCutoff (s : State) : State :=
  if s.supply.onBattery ∧ !s.supply.present ∧ s.belowCutoff then
    (if s.supply.cutoffTimer.isSome then s else s.startCutoff)
  else s.setSupply { s.supply with cutoffTimer := none }

/-- Step 3: the frame and its gap go to the Battery Unit once the restore mark is set (R104). -/
def State.passToBattery (s : State) (gap : Gap) : State := if s.supply.restoreMark then s.batteryFrame gap else s

/-- Whether the Battery Unit reports exhaustion at the frame (R119). -/
def State.exhaustedBy (s : State) (gap : Gap) : Bool := s.supply.restoreMark && (s.integrate gap).2

/-- Step 6: a reclose in energy wait is asked for again (R53). -/
def State.energyRecheck (s : State) : State :=
  if s.seq.state = .dead ∧ s.seq.energyWait.isSome then s.requestReclose else s

/-- An accepted CABINET frame, in the order of R104. -/
def State.acceptCabinet (s : State) (f : CabinetFrame) (gap : Gap) : State :=
  let s1 := s.takeMeasurements f
  (((s1.passToBattery gap).qualify.frameCutoff).powerRules (s1.exhaustedBy gap)).energyRecheck

/-- A CABINET frame arrives (R103). -/
def State.takeCabinet (s : State) (f : CabinetFrame) : State :=
  match s.cabinetGap f with
  | none => s
  | some gap => s.acceptCabinet f gap

/-- CABINET_FRAME (R103, R104). -/
def execCabinetFrame (f : CabinetFrame) (s : State) : Result := .next (s.takeCabinet f).grant

/-! ## Timers of the Supply Monitor -/

/-- The cabinet stream becomes STALE (R105). -/
def State.freshnessExpiry (s : State) : State :=
  (s.setSupply { s.supply with
    freshness := .stale, freshTimer := none, qualification := .unqualified, qualifyTimer := none, cutoffTimer := none }).batteryStale

/-- FRESHNESS_TIMER_EXPIRY (R105). -/
def execFreshnessTimerExpiry (s : State) : Result := onExpiry s.supply.freshTimer s fun s => s.freshnessExpiry.grant

/-- The supply becomes QUALIFIED; CARRY and CONSERVE become NORMAL (R106, R108). -/
def State.qualifyExpiry (s : State) : State :=
  let s1 := s.setSupply { s.supply with qualification := .qualified, qualifyTimer := none }
  if s.supply.onBattery then s1.changePower .normal .supplyQualified else s1

/-- SUPPLY_QUALIFY_TIMER_EXPIRY (R106). -/
def execSupplyQualifyTimerExpiry (s : State) : Result :=
  onExpiry s.supply.qualifyTimer s fun s => s.qualifyExpiry.grant

/-- The low battery voltage has lasted 10 s (R109). -/
def State.cutoffExpiry (s : State) : State :=
  if s.supply.onBattery then s.enterCutoff .batteryLow else s.setSupply { s.supply with cutoffTimer := none }

/-- CUTOFF_TIMER_EXPIRY (R109). -/
def execCutoffTimerExpiry (s : State) : Result := onExpiry s.supply.cutoffTimer s fun s => s.cutoffExpiry.grant

/-- FINAL_REPORT_TIMER_EXPIRY (R112). -/
def execFinalReportTimerExpiry (s : State) : Result :=
  onExpiry s.supply.finalTimer s fun s => ((s.setSupply { s.supply with finalTimer := none }).disconnectTest).grant

end Sys2Proof.Machine
end

