-- ==== Sys2Proof/Machine/Nv.lean ====
section
/-! DEFINITION. The end of a write of the NV array and the arbiter's idle notice (R166, R178). -/

namespace Sys2Proof.Machine

/-- An operated RESTART that waits follows once the frames now held have left (R178). -/
def State.fenceRestart (s : State) : State :=
  if s.cmd.restartMark then s.setCmd { s.cmd with restartAfter := some s.links.tx.length } else s

/-- An operated RESTART takes effect: the mark is set, the arbiter is idle, and the frames that were held at the idle
notice, the RESPONSE to its OPERATE among them, have left (R178, R182). -/
def State.restartReady (s : State) : Bool :=
  s.cmd.restartMark && s.arbiterIdle && decide (s.cmd.restartAfter = some 0)

/-- The idle notice: the Supply Monitor takes it, then the Command Unit (R166, R178). -/
def State.idleNotice (s : State) : State := if s.arbiterIdle then s.disconnectTest.fenceRestart else s

/-- The array is free again: the waiting write that comes first is granted, or the arbiter is idle (R166). -/
def State.arrayFreed (s : State) : State := s.grant.idleNotice

/-- No write in flight. -/
def State.endJob (s : State) : State := s.setStore { s.store with inFlight := none, writeTimer := none }

/-- The free-value counter moved on after a use. -/
def State.useFree (s : State) : State := s.setFree (s.free + 1)

/-- The timer of the write in flight, where it is a tag write. -/
def TableStore.tagJobTimer (t : TableStore) : Timer :=
  match t.inFlight with
  | some (.tag _) => t.writeTimer
  | _ => none

/-- The timer of the write in flight, where it is a state-record write. -/
def TableStore.recordJobTimer (t : TableStore) : Timer :=
  match t.inFlight with
  | some (.record _ _) => t.writeTimer
  | _ => none

/-- The timer of the write in flight, where it is a table write. -/
def TableStore.tableJobTimer (t : TableStore) : Timer :=
  match t.inFlight with
  | some (.table _ _) => t.writeTimer
  | _ => none

end Sys2Proof.Machine
end

