-- ==== Sys2Proof/Machine/Tags.lean ====
section
/-! DEFINITION. The Tag Table (spec/05): placing, removing and listing tags, the conclusion of a tag write, and the
restoration of the table (R88..R102). -/

namespace Sys2Proof.Machine

/-- Body of a response to TAG_PLACE or TAG_REMOVE: crew code, slot, record state (spec/11 section 11.4). -/
def tagBody (crew : Word) (slot : Option Nat) (st : Option TagState) : List Byte :=
  encWord crew ++ encOpt absent1 enc1 slot ++ encOpt absent1 (fun t : TagState => enc1 t.ctorIdx) st

/-- A refusal, answered with the crew code and no slot (R98). -/
def State.refuseTag (s : State) (r : Req) (k : RequestKind) (c : ResultCode) (crew : Word) : State :=
  s.respond r k c (tagBody crew none none)

/-- Writes one slot of the table. -/
def State.setSlot (s : State) (i : Nat) (r : Option TagRecord) : State :=
  s.setTags { s.tags with slots := s.tags.slots.set i r }

/-! ## Placing (R94, R95) -/

/-- Kind of a tag by its code. -/
def tagKindOf (b : Byte) : Option TagKind := if b = 0 then some .hotLine else if b = 1 then some .closeBlock else none

/-- The record that a TAG_PLACE enters (R95). -/
def placedRecord (r : Req) (crew : Word) (kind : TagKind) (time : Long) : TagRecord :=
  { crew := crew, kind := kind, origin := r.origin, placed := time, state := .placing, stage := .waiting, request := some r }

/-- A tag enters a slot and takes effect at once, then its write is asked for (R95, R90). -/
def State.enterTag (s : State) (slot : Nat) (rec : TagRecord) : State :=
  ((s.setSlot slot (some rec)).tagEntry).requestTagWrite

/-- TAG_PLACE, checked in the order of R94. -/
def State.tagPlaceRequest (s : State) (r : Req) (crew : Word) (kind : Byte) : State :=
  if !s.supply.restoreMark then s.refuseTag r .tagPlace .busy crew
  else
    match tagKindOf kind with
    | none => s.refuseTag r .tagPlace .outOfRange crew
    | some k =>
      if crew = 0 then s.refuseTag r .tagPlace .outOfRange crew
      else if s.remoteRefused r then s.refuseTag r .tagPlace .remoteDisabled crew
      else if (s.tags.find crew).isSome then s.refuseTag r .tagPlace .tagExists crew
      else
        match s.tags.freeSlot with
        | none => s.refuseTag r .tagPlace .tagFull crew
        | some i => s.enterTag i (placedRecord r crew k s.cmd.seconds)

/-! ## Removing (R96, R97) -/

/-- The code that refuses the removal of a record, if one does (R96, checks 2 to 4). -/
def State.removeRefusal (s : State) (r : Req) (rec : TagRecord) : Option ResultCode :=
  if rec.state ≠ .held then some .tagBusy
  else if rec.origin = .panel ∧ r.origin = .radio then some .tagOrigin
  else if s.remoteRefused r then some .remoteDisabled
  else none

/-- A record becomes REMOVING and its write is asked for (R97). -/
def State.beginRemoval (s : State) (i : Nat) (rec : TagRecord) (r : Req) : State :=
  (s.setSlot i (some { rec with state := .removing, stage := .waiting, request := some r })).requestTagWrite

/-- The record in a slot. -/
def TagTable.at (t : TagTable) (i : Nat) : Option TagRecord := t.slots.getD i none

/-- TAG_REMOVE, checked in the order of R96. -/
def State.tagRemoveRequest (s : State) (r : Req) (crew : Word) : State :=
  if !s.supply.restoreMark then s.refuseTag r .tagRemove .busy crew
  else
    match s.tags.find crew with
    | none => s.refuseTag r .tagRemove .tagUnknown crew
    | some i =>
      match s.tags.at i with
      | none => s.refuseTag r .tagRemove .tagUnknown crew
      | some rec =>
        match s.removeRefusal r rec with
        | some c => s.refuseTag r .tagRemove c crew
        | none => s.beginRemoval i rec r

/-! ## Listing (R99) -/

/-- The ten bytes of one slot in the list, nothing for a free slot. -/
def tagListEntry (i : Nat) : Option TagRecord → List Byte
  | none => []
  | some r => enc1 i ++ encWord r.crew ++ enc1 r.kind.ctorIdx ++ enc1 (originCode r.origin) ++ encLong r.placed ++ enc1 r.state.ctorIdx

/-- Body of a TAG_LIST response (R99). -/
def TagTable.listBody (t : TagTable) : List Byte :=
  enc1 t.count ++ encFlag t.durable ++ (t.slots.mapIdx tagListEntry).flatten

/-! ## The end of a tag write (R92, R93) -/

/-- The TAG report of a concluded record (R100). -/
def State.tagReport (s : State) (e : TagEvent) (r : TagRecord) (slot : Nat) : State :=
  s.report 6 (.tag e
    (some { crew := r.crew, kind := r.kind, origin := r.origin, requester := r.request.map Req.origin, placed := r.placed, slot := slot })
    s.tags.count s.tags.durable)

/-- The answer to the pending request of a concluded record (R98). -/
def State.answerTag (s : State) (r : TagRecord) (k : RequestKind) (c : ResultCode) (slot : Nat) (st : Option TagState) : State :=
  match r.request with
  | none => s
  | some q => s.respond q k c (tagBody r.crew (some slot) st)

/-- A record HELD with nothing outstanding. -/
def TagRecord.settled (r : TagRecord) : TagRecord := { r with state := .held, stage := .none, request := none }

/-- A record with write stage WRITING is concluded (R92, R93). -/
def State.concludeRecord (s : State) (verified : Bool) (i : Nat) (r : TagRecord) : State :=
  match r.state, verified with
  | .placing, true => ((s.setSlot i (some r.settled)).answerTag r .tagPlace .ok i (some .held)).tagReport .placed r i
  | .placing, false => ((s.setSlot i (some r.settled)).answerTag r .tagPlace .nvFault i (some .held)).tagReport .placeNotDurable r i
  | .removing, true => ((s.setSlot i none).answerTag r .tagRemove .ok i none).tagReport .removed r i
  | .removing, false => ((s.setSlot i (some r.settled)).answerTag r .tagRemove .nvFault i (some .held)).tagReport .removeFailed r i
  | .held, _ => s.setSlot i (some r.settled)

/-- One slot at the end of a tag write. -/
def State.concludeSlot (verified : Bool) (s : State) (i : Nat) : State :=
  match s.tags.at i with
  | none => s
  | some r => if r.stage = .writing then s.concludeRecord verified i r else s

/-- The slots in slot order. -/
def State.concludeSlots (s : State) (verified : Bool) : State := (List.range 6).foldl (State.concludeSlot verified) s

/-- The tag write state after a write: a record that waits leads to a new request (R92). -/
def TagTable.nextWriteState (t : TagTable) : TagWriteState :=
  if t.records.any (fun r => decide (r.stage = .waiting)) then .waiting else .idle

/-- What the array holds after a tag write (R93). -/
def State.storeTagImage (s : State) (image : List TagImageRecord) (verified : Bool) : State :=
  if verified then s.setStore { s.store with nv := { s.store.nv with tags := .good image } }
  else (s.setStore { s.store with nv := { s.store.nv with tags := Config.tagsAfterFault s.free } }).useFree

/-- The tag write completes (R92, R93). -/
def State.tagWriteEnd (s : State) (image : List TagImageRecord) (verified : Bool) : State :=
  let s1 := (s.storeTagImage image verified).endJob
  let s2 := (s1.setTags { s1.tags with durable := verified }).concludeSlots verified
  s2.setTags { s2.tags with writeState := s2.tags.nextWriteState }

/-- The image of the tag write in flight. -/
def TableStore.tagJob (t : TableStore) : List TagImageRecord :=
  match t.inFlight with
  | some (.tag image) => image
  | _ => []

/-- TAG_WRITE_COMPLETE (R92, R93, R166). -/
def execTagWriteComplete (verified : Bool) (s : State) : Result :=
  onExpiry s.store.tagJobTimer s fun s => (s.tagWriteEnd s.store.tagJob verified).arrayFreed

/-! ## Restoration (R101, R102) -/

/-- Whether no two records of an image share a crew code. -/
def crewsDistinct : List TagImageRecord → Bool
  | [] => true
  | r :: rest => !rest.any (fun x => x.crew == r.crew) && crewsDistinct rest

/-- Whether the contents of a tag image keep the rules of the table (R102). -/
def tagImageValid (image : List TagImageRecord) : Bool :=
  decide (image.length ≤ 6) && image.all (fun r => r.crew != 0 && (tagKindOf r.kind).isSome) && crewsDistinct image

/-- A restored record (R101). -/
def restoredRecord (r : TagImageRecord) : TagRecord :=
  { crew := r.crew, kind := (tagKindOf r.kind).getD .hotLine, origin := r.origin, placed := r.placed, state := .held,
    stage := .none, request := none }

/-- The slots that a valid image fills, from slot 0 onward. -/
def restoredSlots (image : List TagImageRecord) : List (Option TagRecord) :=
  image.map (fun r => some (restoredRecord r)) ++ List.replicate (6 - image.length) none

/-- An invalid image gives an empty table that is not durable; the SETTINGS report, then the RESTORED_EMPTY report (R168,
R102). -/
def State.tagImageDefaulted (s : State) (cause : ImageCause) : State :=
  ((s.setTags bootTags).report 4 (.settings (.imageDefaulted .tagImage cause))).report 6 (.tag .restoredEmpty none 0 false)

/-- The tag table rebuilt from the NV array (R101, R102). -/
def State.restoreTags (s : State) : State :=
  match s.store.nv.tags with
  | .missing => s.tagImageDefaulted .missing
  | .badCrc => s.tagImageDefaulted .crc
  | .good image =>
    if tagImageValid image then
      let s1 := s.setTags { slots := restoredSlots image, writeState := .idle, durable := true }
      if image.isEmpty then s1 else s1.tagEntry
    else s.tagImageDefaulted .content

end Sys2Proof.Machine
end

