-- ==== Sys2Proof/Machine/Reports.lean ====
section
/-! DEFINITION. The Report Queue (spec/08): STATUS reports, polling, acknowledgement and the ack timers (R137,
R142..R145), and FAULT_READ (R153). -/

namespace Sys2Proof.Machine

/-- Acts on the first element that meets a condition: it is replaced, or removed. -/
def updateFirst {α : Type} (p : α → Bool) (f : α → Option α) : List α → List α
  | [] => []
  | x :: xs => if p x then (match f x with | none => xs | some y => y :: xs) else x :: updateFirst p f xs

/-! ## STATUS reports (R137) -/

/-- Body of a STATUS report; its dropped count is filled in when it is sent (R143). -/
def State.statusBody (s : State) : ReportBody :=
  .status s.mag.mags.currents s.supply.power s.soc s.seq.state s.tags.count 0 s.links.sensorDiscards s.links.cabinetDiscards

/-- The status-interval timer at full length. -/
def State.statusTimer (s : State) : Timer := s.timer (sec (statusInterval s.unit))

/-- The status interval has passed (R137). -/
def State.statusExpiry (s : State) : State :=
  (s.setReports { s.reports with statusTimer := s.statusTimer }).report 1 s.statusBody

/-- STATUS_INTERVAL_TIMER_EXPIRY (R137). -/
def execStatusIntervalTimerExpiry (s : State) : Result :=
  onExpiry s.reports.statusTimer s fun s => s.statusExpiry.grant

/-! ## Polling (R142, R143) -/

/-- The body as it is sent: a STATUS report carries the dropped count of that moment (R143). -/
def ReportBody.filled (dropped : Nat) : ReportBody → ReportBody
  | .status c p soc q n _ a b => .status c p soc q n dropped a b
  | b => b

/-- The record as it would be sent. -/
def State.toSend (s : State) (r : Report) : Report := { r with body := r.body.filled s.reports.dropped }

/-- Cost of a record: the sent length of its REPORT frame (R142, R180). -/
def State.cost (s : State) (r : Report) : Nat := (s.toSend r).frame.size

/-- The candidate of a poll (R142). -/
def State.candidate (s : State) : Option Report := s.reports.records.find? s.sendable

/-- Whether the budget lets a record of a class and a cost be sent (R142). -/
def budgetAllows (budget : Int) (ceiling cls cost : Nat) : Bool :=
  decide ((cost : Int) ≤ budget) || (decide (6 ≤ cls) && decide (-512 ≤ budget - cost))
    || (decide (ceiling < cost) && decide (budget = ceiling))

/-- The record after it was sent: removed, or SENT with its ack timer (R143). -/
def State.afterSending (s : State) (r : Report) : Option Report :=
  if r.needsAck then
    some { r with state := .sent, sends := r.sends + 1, eligible := none, ack := s.timer (sec (ackTimeout s.unit)) }
  else none

/-- The Supply Monitor is told that the final report has been sent; it acts on it in DRAINING (R143, R112). -/
def State.finalNotice (s : State) (number : Word) : State :=
  if s.supply.stage = .draining ∧ s.supply.finalReport = some number then
    (s.setSupply { s.supply with finalSent := true }).disconnectTest
  else s

/-- The queue and the budget after a record was sent (R142, R143). -/
def State.chargeSent (s : State) (r : Report) : State :=
  s.setReports { s.reports with
    budget := s.reports.budget - s.cost r
    dropped := if r.body.isStatus then 0 else s.reports.dropped
    records := updateFirst s.sendable s.afterSending s.reports.records }

/-- A record is sent: the RESPONSE, directly after it the REPORT frame, then R143. -/
def State.sendReport (s : State) (q : Req) (r : Report) : State :=
  (((s.respond q .reportPoll .ok (encWord r.number)).hand (s.toSend r).frame).chargeSent r).finalNotice r.number

/-- Body of a NONE response (R142). -/
def State.noneBody (s : State) : List Byte :=
  enc1 s.reports.records.length ++ enc1 (s.reports.records.countP s.sendable) ++ encInt s.reports.budget

/-- REPORT_POLL (R142); before the restore-complete event it is answered NONE (R140). -/
def State.poll (s : State) (q : Req) : State :=
  match s.candidate with
  | none => s.respond q .reportPoll .none s.noneBody
  | some r =>
    if s.supply.restoreMark ∧ budgetAllows s.reports.budget (airtimeCeiling s.unit) r.cls (s.cost r) then s.sendReport q r
    else s.respond q .reportPoll .none s.noneBody

/-! ## Acknowledgement (R144, R145) -/

/-- REPORT_ACK (R144). -/
def State.acknowledge (s : State) (q : Req) (number : Word) : State :=
  if s.reports.records.any (fun r => r.number == number) then
    (s.setReports { s.reports with records := updateFirst (fun r => r.number == number) (fun _ => none) s.reports.records }).respond
      q .reportAck .ok []
  else s.respond q .reportAck .unknownReport []

/-- A SENT record with a number whose ack timer runs. -/
def awaitsAck (number : Word) (r : Report) : Bool := r.number == number && decide (r.state = .sent) && r.ack.isSome

/-- The ack timer of one record is due no later than that of another. -/
def Report.dueBy (r y : Report) : Bool := r.ack.all fun c => y.ack.all fun d => decide (c.due ≤ d.due)

/-- A record whose ack timer is the next to expire of the SENT records with a number (R145): R136 lets several share one. -/
def ReportQueue.expiresNext (q : ReportQueue) (number : Word) (r : Report) : Bool :=
  awaitsAck number r && q.records.all fun y => !awaitsAck number y || r.dueBy y

/-- The ack timer that expires next of the SENT records with a number. Of those due at one moment the first in the queue is
taken first (log 38). -/
def ReportQueue.ackTimer (q : ReportQueue) (number : Word) : Timer :=
  match q.records.find? (q.expiresNext number) with
  | none => none
  | some r => r.ack

/-- The record after its ack timer expired: QUEUED again, or removed after its fourth send (R145). -/
def State.afterTimeout (s : State) (r : Report) : Option Report :=
  if 4 ≤ r.sends then none
  else some { r with state := .queued, eligible := some (s.now + sec (ackTimeout s.unit * r.sends)), ack := none }

/-- The record whose ack timer has expired was not acknowledged in time (R145). -/
def State.ackExpiry (s : State) (number : Word) : State :=
  let gone := s.reports.records.find? (s.reports.expiresNext number) |>.any (fun r => decide (4 ≤ r.sends))
  let q := if gone then s.reports.drop else s.reports
  s.setReports { q with records := updateFirst (s.reports.expiresNext number) s.afterTimeout s.reports.records }

/-- ACK_TIMER_EXPIRY (R145). -/
def execAckTimerExpiry (number : Word) (s : State) : Result :=
  onExpiry (s.reports.ackTimer number) s fun s => (s.ackExpiry number).grant

/-! ## FAULT_READ (R153) -/

/-- FAULT_READ (R153). -/
def State.faultRead (s : State) (q : Req) (number : Word) : State :=
  match s.faults.ring.find? (fun r => r.number == number) with
  | none => s.respond q .faultRead .unknownRecord []
  | some r => s.respond q .faultRead .ok (encFault r)

end Sys2Proof.Machine
end

