-- ==== Sys2Proof/Machine/Settings.lean ====
section
/-! DEFINITION. The Table Store's requests, timers and write completions (R157..R166, R169). -/

namespace Sys2Proof.Machine

/-! ## Locks and the buffer -/

/-- Sets or clears the write lock of a table (R157). -/
def State.setLock (s : State) (id : Nat) (b : Bool) : State := s.setStore { s.store with locks := s.store.locks.set id b }

/-- The write lock of a table. -/
def TableStore.locked (t : TableStore) (id : Nat) : Bool := t.locks.getD id true

/-- Writes the staging buffer. -/
def State.setBuffer (s : State) (b : StagingBuffer) : State := s.setStore { s.store with buffer := b }

/-- The buffer is LOADING for an origin (R159, R160). -/
def StagingBuffer.loadedBy (b : StagingBuffer) (o : Origin) : Bool := decide (b.state = .loading) && decide (b.origin = o)

/-- The loading timer at 120 s. -/
def State.loadingTimer (s : State) : Timer := s.timer (sec 120)

/-! ## TABLE_UNLOCK, TABLE_BEGIN, TABLE_DATA -/

/-- TABLE_UNLOCK (R157); BUSY before the restore is complete (R167). -/
def State.tableUnlockRequest (s : State) (r : Req) (table : Nat) : State :=
  if !s.supply.restoreMark then s.respond r .tableUnlock .busy []
  else if 14 < table then s.respond r .tableUnlock .outOfRange []
  else if table = 0 then s.respond r .tableUnlock .locked []
  else if s.remoteRefused r then s.respond r .tableUnlock .remoteDisabled []
  else (s.setLock table false).respond r .tableUnlock .ok []

/-- The buffer claimed for a load (R158). -/
def State.claimed (s : State) (table length : Nat) (o : Origin) : StagingBuffer :=
  { state := .loading, table := table, length := length, origin := o, image := List.replicate length 0,
    mask := List.replicate length false, timer := s.loadingTimer, request := none }

/-- TABLE_BEGIN (R158). -/
def State.tableBeginRequest (s : State) (r : Req) (table length : Nat) : State :=
  if !s.supply.restoreMark then s.respond r .tableBegin .busy []
  else if 14 < table then s.respond r .tableBegin .outOfRange []
  else if s.remoteRefused r then s.respond r .tableBegin .remoteDisabled []
  else if s.store.buffer.state ≠ .empty then s.respond r .tableBegin .busy []
  else if s.store.locked table ∨ table = 0 then s.respond r .tableBegin .locked []
  else if !lengthFits table length then s.respond r .tableBegin .outOfRange []
  else (s.setBuffer (s.claimed table length r.origin)).respond r .tableBegin .ok []

/-- Words written over a list from an offset on. -/
def writeFrom {α : Type} (xs : List α) (offset : Nat) (ws : List α) : List α :=
  xs.take offset ++ ws ++ xs.drop (offset + ws.length)

/-- The buffer after words are written into it (R159). -/
def StagingBuffer.written (b : StagingBuffer) (offset : Nat) (ws : List Word) (t : Timer) : StagingBuffer :=
  { b with image := writeFrom b.image offset ws, mask := writeFrom b.mask offset (ws.map fun _ => true), timer := t }

/-- TABLE_DATA (R159); a word count above 48 is not a length that the kind defines (R171). -/
def State.tableDataRequest (s : State) (r : Req) (offset : Nat) (ws : List Word) : State :=
  if 48 < ws.length then s.respond r .tableData .badRequest []
  else if !s.supply.restoreMark then s.respond r .tableData .busy []
  else if s.remoteRefused r then s.respond r .tableData .remoteDisabled []
  else if !s.store.buffer.loadedBy r.origin then s.respond r .tableData .busy []
  else if ws = [] ∨ s.store.buffer.length < offset + ws.length then s.respond r .tableData .outOfRange []
  else (s.setBuffer (s.store.buffer.written offset ws s.loadingTimer)).respond r .tableData .ok []

/-! ## TABLE_COMMIT, TABLE_ABORT (R160, R162) -/

/-- The lowest unwritten word. -/
def StagingBuffer.unwritten (b : StagingBuffer) : Option Nat := b.mask.findIdx? (fun m => !m)

/-- The buffer given up, with the lock of its table set (R159, R160, R162). That the abort of a PENDING commit sets a lock which
was cleared again meanwhile is the model's choice (log 50). -/
def State.giveUp (s : State) : State := (s.setLock s.store.buffer.table true).setBuffer emptyBuffer

/-- The outcome of a commit that passed its checks (R160). -/
def State.commitOutcome (s : State) (r : Req) : State :=
  match s.store.buffer.unwritten with
  | some i => s.giveUp.respond r .tableCommit .incomplete (enc1 i)
  | none =>
    match firstInvalid s.store.buffer.table s.store.buffer.image with
    | some i => s.giveUp.respond r .tableCommit .invalid (enc1 i)
    | none =>
      let s1 := (s.setLock s.store.buffer.table true).setBuffer { s.store.buffer with timer := none }
      if s.applyCondition s.store.buffer.table then s1.applyCommit (some r)
      else (s1.setBuffer { s1.store.buffer with state := .pending }).respond r .tableCommit .pending []

/-- TABLE_COMMIT (R160). -/
def State.tableCommitRequest (s : State) (r : Req) : State :=
  if !s.supply.restoreMark then s.respond r .tableCommit .busy []
  else if s.remoteRefused r then s.respond r .tableCommit .remoteDisabled []
  else if !s.store.buffer.loadedBy r.origin then s.respond r .tableCommit .busy []
  else s.commitOutcome r

/-- TABLE_ABORT (R162). -/
def State.tableAbortRequest (s : State) (r : Req) : State :=
  if !s.supply.restoreMark then s.respond r .tableAbort .busy []
  else
    match s.store.buffer.state with
    | .empty => (s.setStore { s.store with locks := s.store.locks.map fun _ => true }).respond r .tableAbort .ok []
    | .writing => s.respond r .tableAbort .busy []
    | .loading | .pending =>
      if s.store.buffer.origin = r.origin then s.giveUp.respond r .tableAbort .ok [] else s.respond r .tableAbort .busy []

/-! ## TABLE_READ, GROUP_SELECT (R163, R164) -/

/-- Words of a table from an offset, continuing from word 0 past its end (R163). -/
def readWords (t : Table) (offset count : Nat) : List Word := (List.range count).map fun k => wordAt t ((offset + k) % t.length)

/-- TABLE_READ (R163). -/
def State.tableReadRequest (s : State) (r : Req) (table offset count : Nat) : State :=
  if !s.supply.restoreMark then s.respond r .tableRead .busy []
  else if 14 < table ∨ (s.table table).length ≤ offset ∨ count = 0 ∨ 48 < count then s.respond r .tableRead .outOfRange []
  else s.respond r .tableRead .ok (enc1 count ++ (readWords (s.table table) offset count).flatMap encWord)

/-- The group with a number, if it lies in 0..3. -/
def groupOf (n : Nat) : Option (Fin 4) := if h : n < 4 then some ⟨n, h⟩ else none

/-- GROUP_SELECT (R164, R66). -/
def State.groupSelectRequest (s : State) (r : Req) (group : Nat) : State :=
  if !s.supply.restoreMark then s.respond r .groupSelect .busy []
  else
    match groupOf group with
    | none => s.respond r .groupSelect .outOfRange []
    | some g =>
      if s.remoteRefused r then s.respond r .groupSelect .remoteDisabled []
      else if s.sequenceRests then (s.makeActive g).respond r .groupSelect .ok []
      else (s.setSeq { s.seq with pendingGroup := some g }).respond r .groupSelect .pending []

/-! ## Timers (R159, R165) -/

/-- An idle load is abandoned (R159, R169). -/
def State.loadingExpiry (s : State) : State :=
  let b := s.store.buffer
  s.giveUp.report 4 (.settings (.loadTimeout b.table b.origin (b.mask.countP id)))

/-- LOADING_TIMER_EXPIRY (R159). -/
def execLoadingTimerExpiry (s : State) : Result := onExpiry s.store.buffer.timer s fun s => s.loadingExpiry.grant

/-- The state-record timer expires and restarts (R165). -/
def State.recordExpiry (s : State) : State :=
  (s.setStore { s.store with recordTimer := s.timer (sec 600) }).requestRecordWrite ⟨false, true, false⟩

/-- STATE_RECORD_TIMER_EXPIRY (R165). -/
def execStateRecordTimerExpiry (s : State) : Result :=
  onExpiry s.store.recordTimer s fun s => s.recordExpiry.grant

/-! ## Ends of the state-record and table writes (R161, R165) -/

/-- The record and the causes of the state-record write in flight. -/
def TableStore.recordJob (t : TableStore) : Option (StateRecord × WriteCauses) :=
  match t.inFlight with
  | some (.record r c) => some (r, c)
  | _ => none

/-- What the array holds after a state-record write (R165). -/
def State.storeRecord (s : State) (r : StateRecord) (verified : Bool) : State :=
  if verified then s.setStore { s.store with nv := { s.store.nv with record := .good r } }
  else (s.setStore { s.store with nv := { s.store.nv with record := Config.recordAfterFault s.free } }).useFree

/-- The state-record write completes; a mismatch is reported with the causes it gathered (R165, R169). -/
def State.recordWriteEnd (s : State) (verified : Bool) : State :=
  match s.store.recordJob with
  | none => s
  | some (r, c) =>
    let s1 := (s.storeRecord r verified).endJob
    if verified then s1 else s1.report 4 (.settings (.stateWriteFailed c))

/-- STATE_RECORD_WRITE_COMPLETE (R165, R166). -/
def execStateRecordWriteComplete (verified : Bool) (s : State) : Result :=
  onExpiry s.store.recordJobTimer s fun s => (s.recordWriteEnd verified).arrayFreed

/-- The table and the image of the table write in flight. -/
def TableStore.tableJob (t : TableStore) : Option (Nat × Table) :=
  match t.inFlight with
  | some (.table id image) => some (id, image)
  | _ => none

/-- What a table write of image that failed its verify leaves: the content given, unless that is the image itself, which
an NV_FAULT says the array does not hold (R161); then an image whose CRC fails. As the content ranges over all, so
does what is left over all but the image (log 7). -/
def tableLeft (image : Table) (content : NvImage Table) : NvImage Table :=
  if content = .good image then .badCrc else content

/-- What the array holds after a table write (R161). -/
def State.storeTable (s : State) (id : Nat) (image : Table) (verified : Bool) : State :=
  let put (x : NvImage Table) : State :=
    s.setStore { s.store with nv := { s.store.nv with tables := s.store.nv.tables.set id x } }
  if verified then put (.good image) else (put (tableLeft image (Config.tableAfterFault s.free))).useFree

/-- The commit of a table write is answered, or reported if it was applied from PENDING (R161). -/
def State.concludeCommit (s : State) (b : StagingBuffer) (verified : Bool) : State :=
  match b.request with
  | some r => s.respond r .tableCommit (if verified then .ok else .nvFault) []
  | none => s.report 4 (.settings (.commitApplied b.table b.origin verified))

/-- The table write completes: the buffer is EMPTY and the commit is concluded (R161). -/
def State.tableWriteEnd (s : State) (verified : Bool) : State :=
  match s.store.tableJob with
  | none => s
  | some (id, image) =>
    (((s.storeTable id image verified).endJob).setBuffer emptyBuffer).concludeCommit s.store.buffer verified

/-- TABLE_WRITE_COMPLETE (R161, R166). -/
def execTableWriteComplete (verified : Bool) (s : State) : Result :=
  onExpiry s.store.tableJobTimer s fun s => (s.tableWriteEnd verified).arrayFreed

end Sys2Proof.Machine
end

