-- ==== Sys2Proof/Machine/Commands.lean ====
section
/-! DEFINITION. The Command Unit (spec/10): the select slot, STATUS_READ, TIME_SET, SELECT and OPERATE (R174..R178). -/

namespace Sys2Proof.Machine

/-! ## The select slot (R176, R177) -/

/-- The slot cleared, with its timer (R177). -/
def State.clearSlot (s : State) : State := s.setCmd { s.cmd with slot := none, selectTimer := none }

/-- A request from the holder's origin ends the selection (R177). -/
def State.cancelSlot (s : State) (o : Origin) : State :=
  match s.cmd.slot with
  | some sel => if sel.origin = o then s.clearSlot else s
  | none => s

/-- Target of a SELECT by its code (spec/11 section 11.4). -/
def targetOf (b : Byte) : Option Target :=
  if b = 0 then some .opened else if b = 1 then some .close else if b = 2 then some .restart else none

/-- The partial check that target CLOSE needs (R176, check 4). -/
def State.selectRefusal (s : State) (t : Target) : Option ResultCode :=
  if t = .close then s.partialPermission.map permissionCode else none

/-- The slot taken by a SELECT, its timer at 10 s (R176). -/
def State.holdSlot (s : State) (r : Req) (t : Target) (token : Word) : State :=
  s.setCmd { s.cmd with slot := some ⟨r.origin, t, token⟩, selectTimer := s.timer (sec 10) }

/-- SELECT after the cancellation, checked in the order of R176. -/
def State.selectRequest (s : State) (r : Req) (target : Byte) (token : Word) : State :=
  match targetOf target with
  | none => s.respond r .select .outOfRange []
  | some t =>
    if s.remoteRefused r then s.respond r .select .remoteDisabled []
    else if s.cmd.slot.isSome then s.respond r .select .selectHeld []
    else
      match s.selectRefusal t with
      | some c => s.respond r .select c []
      | none => (s.holdSlot r t token).respond r .select .ok (enc1 t.ctorIdx)

/-- SELECT_TIMER_EXPIRY (R177). -/
def execSelectTimerExpiry (s : State) : Result := onExpiry s.cmd.selectTimer s fun s => s.clearSlot.grant

/-! ## OPERATE (R178, R58, R62) -/

/-- OPERATE on an OPEN selection (R62). -/
def State.operateOpen (s : State) (r : Req) : State := s.manualOpen.1.respond r .operate s.manualOpen.2 []

/-- OPERATE on a CLOSE selection (R58, R77): outside LOCKOUT, or while a close is deferred, REFUSED_STATE; while the
TRIP line is active the close and its answer wait for the end of the pulse. -/
def State.operateClose (s : State) (r : Req) : State :=
  if s.seq.state ≠ .lockout ∨ s.act.deferred.isSome then s.respond r .operate .refusedState []
  else if s.act.trip then
    (s.setAct { s.act with deferred := some .manual }).setCmd { s.cmd with deferredClose := some r }
  else s.answerManual.1.respond r .operate s.answerManual.2 []

/-- OPERATE on a RESTART selection (R178): answered OK; the mark is set, and with an idle arbiter the reset follows once
the frames now held have left. A second one changes nothing. -/
def State.operateRestart (s : State) (r : Req) : State :=
  let s1 := s.respond r .operate .ok []
  if s.cmd.restartMark then s1
  else
    let s2 := s1.setCmd { s1.cmd with restartMark := true }
    if s2.arbiterIdle then s2.fenceRestart else s2

/-- The target executed by a matching OPERATE (R178). -/
def State.operateTarget (s : State) (r : Req) (t : Target) : State :=
  match t with
  | .opened => s.operateOpen r
  | .close => s.operateClose r
  | .restart => s.operateRestart r

/-- The OPERATE matches a held selection (R178). -/
def Selection.matchedBy (sel : Selection) (r : Req) (token : Word) : Bool := decide (sel.origin = r.origin) && decide (sel.token = token)

/-- An OPERATE that matches nothing: it ends a selection of its own origin (R178, R177). -/
def State.operateRefused (s : State) (r : Req) (c : ResultCode) : State := (s.cancelSlot r.origin).respond r .operate c []

/-- OPERATE, as R178 dispatches it. -/
def State.operate (s : State) (r : Req) (token : Word) : State :=
  if s.remoteRefused r then s.operateRefused r .remoteDisabled
  else
    match s.cmd.slot with
    | none => s.operateRefused r .noSelect
    | some sel => if sel.matchedBy r token then s.clearSlot.operateTarget r sel.target else s.operateRefused r .noSelect

/-! ## STATUS_READ (R174) -/

/-- Time and sample path. -/
def State.statusSample (s : State) : List Byte :=
  encLong s.cmd.seconds ++ enc1 s.sample.stream.ctorIdx ++ enc1 s.sample.view.ctorIdx ++ encCurrents s.mag.mags.currents
    ++ enc2 s.mag.mags.va ++ enc2 s.mag.mags.vb ++ enc2 s.mag.mags.vc ++ encWord s.mag.evalCount

/-- A group number or none. -/
def encGroup : Option (Fin 4) → List Byte := encOpt absent1 fun g => enc1 g

/-- Sequence, actuator and tags. -/
def State.statusSequence (s : State) : List Byte :=
  enc1 s.seq.state.ctorIdx ++ enc1 s.seq.s ++ encOpt absent1 (fun r : LockoutReason => enc1 r.ctorIdx) s.seq.reason
    ++ encGroup s.seq.latched ++ enc1 s.store.activeGroup ++ encGroup s.seq.pendingGroup
    ++ encFlag s.act.latch ++ enc1 s.act.supervision.ctorIdx ++ encFlag s.act.trip ++ encFlag s.act.close
    ++ enc1 s.tags.count ++ encFlag s.tags.durable

/-- Supply. -/
def State.statusSupply (s : State) : List Byte :=
  enc1 s.supply.power.ctorIdx ++ enc1 s.supply.freshness.ctorIdx ++ enc1 s.supply.qualification.ctorIdx
    ++ encFlag s.supply.remote ++ encFlag s.supply.chargerFault ++ enc2 s.supply.meas.supply ++ enc2 s.supply.meas.battery
    ++ enc2 s.supply.meas.tripCap ++ enc2 s.supply.meas.closeCap

/-- Battery. -/
def State.statusBattery (s : State) : List Byte :=
  encLong (BitVec.ofNat 32 s.battery.q) ++ enc1 s.soc ++ enc1 s.battery.health.ctorIdx ++ enc1 s.battery.failCount
    ++ enc1 s.battery.charge.ctorIdx ++ enc1 s.battery.tempState.ctorIdx ++ encInt s.battery.workingTemp
    ++ encInt s.absorbTarget ++ encInt s.floatTarget ++ encInt s.testMinimum
    ++ enc1 s.battery.testState.ctorIdx ++ enc1 s.battery.lastResult.ctorIdx ++ encOpt absent4 encLong s.battery.lastTime

/-- Reports and fault log. -/
def State.statusReports (s : State) : List Byte :=
  enc1 s.reports.records.length ++ enc1 (s.reports.records.countP fun r => decide (r.state = .sent))
    ++ encInt s.reports.budget ++ enc1 s.reports.dropped ++ encWord s.reports.nextNumber
    ++ enc1 s.faults.ring.length ++ encOpt absent2 (fun r : FaultRecord => encWord r.number) s.faults.ring.getLast?
    ++ encFlag s.faults.openRecord.isSome

/-- A list of flags as a number, bit n for the flag at place n. -/
def bitsOf : List Bool → Nat
  | [] => 0
  | b :: bs => b.toNat + 2 * bitsOf bs

/-- Settings: the table id and the loader's origin are absent while the buffer is EMPTY. -/
def State.statusSettings (s : State) : List Byte :=
  enc1 s.store.buffer.state.ctorIdx
    ++ (if s.store.buffer.state = .empty then absent1 ++ absent1
        else enc1 s.store.buffer.table ++ enc1 (originCode s.store.buffer.origin))
    ++ enc2 (bitsOf s.store.locks)

/-- Whole seconds that the select timer has left (log 17). -/
def State.selectLeft (s : State) : Nat :=
  match s.cmd.selectTimer with
  | none => 0
  | some c => (c.due - s.now) / sec 1

/-- Requests and links; the fields of an empty slot are absent. -/
def State.statusRequests (s : State) : List Byte :=
  (match s.cmd.slot with
    | none => enc1 0 ++ absent1 ++ absent1 ++ absent1
    | some sel => enc1 1 ++ enc1 (originCode sel.origin) ++ enc1 sel.target.ctorIdx ++ enc1 s.selectLeft)
    ++ encFlag s.cmd.restartMark ++ enc2 s.links.sensorDiscards ++ enc2 s.links.cabinetDiscards

/-- Body of a STATUS_READ response (R174). -/
def State.statusReadBody (s : State) : List Byte :=
  s.statusSample ++ s.statusSequence ++ s.statusSupply ++ s.statusBattery ++ s.statusReports ++ s.statusSettings ++ s.statusRequests

/-! ## TIME_SET (R175) -/

/-- TIME_SET: the counter takes the value, and a scheduled test is tested with it (R175, R128). -/
def State.timeSetRequest (s : State) (r : Req) (value : Long) : State :=
  ((s.setCmd { s.cmd with seconds := value }).tryScheduled).respond r .timeSet .ok []

end Sys2Proof.Machine
end

