-- ==== Sys2Proof/Machine/Requests.lean ====
section
/-! DEFINITION. The meanings of the requests: one definition for each row, over the blocks' own operations. The
select-slot cancellation comes first, except for STATUS_READ, REPORT_POLL, REPORT_ACK and OPERATE, which decides on it
itself (R171, R177, R178). -/

namespace Sys2Proof.Machine

/-- BAD_REQUEST (R171): answered with the request's own kind code and an empty body. It ends a selection of its own origin
whatever its kind code; that a STATUS_READ, REPORT_POLL or REPORT_ACK of a wrong length has no exemption is the model's
choice (R177, log 51). -/
def execBadRequest (r : Req) (kind : Byte) (_ : List Byte) (s : State) : Result :=
  .next ((s.cancelSlot r.origin).hand (responseFrame r.id kind .badRequest [])).grant

/-- STATUS_READ (R174). -/
def execStatusRead (r : Req) (s : State) : Result := .next (s.respond r .statusRead .ok s.statusReadBody).grant

/-- TIME_SET (R175). -/
def execTimeSet (r : Req) (value : Long) (s : State) : Result := .next ((s.cancelSlot r.origin).timeSetRequest r value).grant

/-- TABLE_UNLOCK (R157). -/
def execTableUnlock (r : Req) (table : Byte) (s : State) : Result :=
  .next ((s.cancelSlot r.origin).tableUnlockRequest r table.toNat).grant

/-- TABLE_BEGIN (R158). -/
def execTableBegin (r : Req) (table length : Byte) (s : State) : Result :=
  .next ((s.cancelSlot r.origin).tableBeginRequest r table.toNat length.toNat).grant

/-- TABLE_DATA (R159). -/
def execTableData (r : Req) (offset : Byte) (words : List Word) (s : State) : Result :=
  .next ((s.cancelSlot r.origin).tableDataRequest r offset.toNat words).grant

/-- TABLE_COMMIT (R160). -/
def execTableCommit (r : Req) (s : State) : Result := .next ((s.cancelSlot r.origin).tableCommitRequest r).grant

/-- TABLE_ABORT (R162). -/
def execTableAbort (r : Req) (s : State) : Result := .next ((s.cancelSlot r.origin).tableAbortRequest r).grant

/-- TABLE_READ (R163). -/
def execTableRead (r : Req) (table offset count : Byte) (s : State) : Result :=
  .next ((s.cancelSlot r.origin).tableReadRequest r table.toNat offset.toNat count.toNat).grant

/-- GROUP_SELECT (R164, R66). -/
def execGroupSelect (r : Req) (group : Byte) (s : State) : Result :=
  .next ((s.cancelSlot r.origin).groupSelectRequest r group.toNat).grant

/-- SELECT (R176). -/
def execSelect (r : Req) (target : Byte) (token : Word) (s : State) : Result :=
  .next ((s.cancelSlot r.origin).selectRequest r target token).grant

/-- OPERATE_OPEN: the OPERATE of R178, which on a matching OPEN selection takes a manual open (R62). -/
def execOperateOpen (r : Req) (token : Word) (s : State) : Result := .next (s.operate r token).grant

/-- OPERATE_CLOSE: the OPERATE of R178, which on a matching CLOSE selection asks for a manual close (R58). -/
def execOperateClose (r : Req) (token : Word) (s : State) : Result := .next (s.operate r token).grant

/-- OPERATE_RESTART: the OPERATE of R178, which on a matching RESTART selection sets the restart mark. -/
def execOperateRestart (r : Req) (token : Word) (s : State) : Result := .next (s.operate r token).grant

/-- OPERATE_NO_SELECT: the OPERATE of R178, answered NO_SELECT or REMOTE_DISABLED where nothing matches. -/
def execOperateNoSelect (r : Req) (token : Word) (s : State) : Result := .next (s.operate r token).grant

/-- TAG_PLACE (R94, R95). -/
def execTagPlace (r : Req) (crew : Word) (kind : Byte) (s : State) : Result :=
  .next ((s.cancelSlot r.origin).tagPlaceRequest r crew kind).grant

/-- TAG_REMOVE (R96, R97). -/
def execTagRemove (r : Req) (crew : Word) (s : State) : Result :=
  .next ((s.cancelSlot r.origin).tagRemoveRequest r crew).grant

/-- TAG_LIST (R99). -/
def execTagList (r : Req) (s : State) : Result :=
  .next ((s.cancelSlot r.origin).respond r .tagList .ok s.tags.listBody).grant

/-- BATTERY_TEST (R129). -/
def execBatteryTest (r : Req) (s : State) : Result := .next ((s.cancelSlot r.origin).batteryTestRequest r).grant

/-- REPORT_POLL (R142, R143). -/
def execReportPoll (r : Req) (s : State) : Result := .next (s.poll r).grant

/-- REPORT_ACK (R144). -/
def execReportAck (r : Req) (number : Word) (s : State) : Result := .next (s.acknowledge r number).grant

/-- FAULT_READ (R153). -/
def execFaultRead (r : Req) (number : Word) (s : State) : Result :=
  .next ((s.cancelSlot r.origin).faultRead r number).grant

/-! ## Frames that fail the envelope checks (R181) -/

/-- A discarded-frame count raised by one, saturating (R181). -/
def raiseDiscards (n : Nat) : Nat := min 65535 (n + 1)

/-- DISCARDED_FRAME (R181). -/
def execDiscardedFrame (link : LinkId) (s : State) : Result :=
  match link with
  | .sensor => .next (s.setLinks { s.links with sensorDiscards := raiseDiscards s.links.sensorDiscards })
  | .cabinet => .next (s.setLinks { s.links with cabinetDiscards := raiseDiscards s.links.cabinetDiscards })

end Sys2Proof.Machine
end

