-- ==== Sys2Proof/Machine/Startup.lean ====
section
/-! DEFINITION. The whole second (R175), the two resets (R167, R178) and the restore-complete event (R167, R168). -/

namespace Sys2Proof.Machine

/-! ## The whole second (R175) -/

/-- The open-time clock advances while it runs, saturating at 65,535 s (R44). -/
def SequenceController.clocked (q : SequenceController) : SequenceController :=
  if q.openClockRuns then { q with openClock := min 65535 (q.openClock + 1) } else q

/-- The airtime refill, held at the ceiling; none before the restore-complete event (R140). -/
def State.refill (s : State) : State :=
  if s.supply.restoreMark then
    s.setReports { s.reports with budget := min (airtimeCeiling s.unit : Int) (s.reports.budget + refillRate s.unit) }
  else s

/-- The METERING frame of a whole second while the stream is not VALID (R17). -/
def State.secondMetering (s : State) : State :=
  if s.sample.stream ≠ .valid ∧ s.supply.power ≠ .cutoff then s.sendMetering else s

/-- The counter, the open-time clock, the refill and the whole-second flag (R175, R44, R140, R16). -/
def State.secondCounts (s : State) : State :=
  let s1 := (s.setCmd { s.cmd with seconds := s.cmd.seconds + 1 }).setSeq s.seq.clocked
  let s2 := s1.refill
  s2.setMag { s2.mag with wholeSecond := true }

/-- The whole second of the base, in the order of log 25. -/
def State.second (s : State) : State := s.secondCounts.secondMetering.tryScheduled

/-- WHOLE_SECOND (R175): the base reaches the next whole second. -/
def execWholeSecond (s : State) : Result :=
  let s1 := s.advanceTo s.nextSecond
  .next ((s1.setNextSecond (s.nextSecond + sec 1)).second).grant

/-! ## Resets (R167, R178, R179) -/

/-- The NV array after a loss of power: the image of a write in flight is incomplete, so its CRC fails (R166). -/
def NvArray.interrupted (nv : NvArray) : Option NvJob → NvArray
  | none => nv
  | some (.tag _) => { nv with tags := .badCrc }
  | some (.record _ _) => { nv with record := .badCrc }
  | some (.table id _) => { nv with tables := nv.tables.set id .badCrc }

/-- POWER_ON (R167). -/
def execPowerOn (s : State) : Result :=
  .next (bootState .powerOn (s.store.nv.interrupted s.store.inFlight) 0 none s.free s.pending)

/-- The Q that a RESTART holds aside: one already held, else the Q in memory (R120). -/
def BatteryUnit.aside (b : BatteryUnit) : Nat := b.heldQ.getD b.q

/-- RESTART (R178): the reset that an operated RESTART brings once the arbiter is idle and its RESPONSE has left. Before
that, or without a mark, no reset can happen and the command changes nothing (log 26). -/
def execRestart (s : State) : Result :=
  if s.restartReady then
    .next (bootState .restart s.store.nv s.cmd.seconds (some s.battery.aside) s.free s.pending)
  else .next s

/-! ## The restore (R167, R168, R133) -/

/-- A table replaced by its ROM default, with its report (R168). -/
def State.tableDefaulted (s : State) (id : Nat) (cause : ImageCause) : State :=
  (s.setStore { s.store with tables := s.store.tables.set id (romTable id) }).report 4 (.settings (.imageDefaulted (.table id) cause))

/-- One table restored from its image (R168). -/
def State.restoreTable (s : State) (id : Nat) : State :=
  match s.store.nv.tables.getD id .missing with
  | .missing => s.tableDefaulted id .missing
  | .badCrc => s.tableDefaulted id .crc
  | .good t =>
    if imageValid id t then s.setStore { s.store with tables := s.store.tables.set id t } else s.tableDefaulted id .content

/-- The ids of the writable tables. -/
def writableIds : List Nat := [1, 2, 3, 4, 5, 6, 7, 8, 9, 10, 11, 12, 13, 14]

/-- The table images, in order of id; a nominal frequency that differs from the ROM default restarts the stream (R167).
That the restart comes with the images, before the blocks are told of the restore, is the model's choice (log 49). -/
def State.restoreTables (s : State) : State :=
  let s1 := writableIds.foldl State.restoreTable s
  if nominalFrequency s1.unit = nominalFrequency romUnit then s1 else s1.restartStream

/-- Health by its code. -/
def healthOf (b : Byte) : Option Health :=
  if b = 0 then some .good else if b = 1 then some .weak else if b = 2 then some .failed else none

/-- Last test result by its code. -/
def resultOf (b : Byte) : Option TestResult :=
  if b = 0 then some .none else if b = 1 then some .pass else if b = 2 then some .fail else if b = 3 then some .aborted else none

/-- Q at the restore: the one held aside by a RESTART, else the value given, at most Qmax (R120). -/
def State.restoredQ (s : State) (q : Nat) : Nat := min (qMax s.batteryTable) (s.battery.heldQ.getD q)

/-- The Battery Unit's values and the active group put into force (R133, R168). -/
def State.putRecord (s : State) (g : Fin 4) (q : Nat) (r : TestResult) (t : Option Long) (h : Health) (n : Nat) : State :=
  (s.setStore { s.store with activeGroup := g }).setBattery { s.battery with
    q := s.restoredQ q, heldQ := none, lastResult := r, lastTime := t, health := h, failCount := n }

/-- A state record that is replaced by its defaults, with its report (R168). -/
def State.recordDefaulted (s : State) (cause : ImageCause) : State :=
  (s.putRecord 0 (qMax s.batteryTable / 2) .none none .good 0).report 4 (.settings (.stateDefaulted cause))

/-- The state record restored (R168). -/
def State.restoreRecord (s : State) : State :=
  match s.store.nv.record with
  | .missing => s.recordDefaulted .missing
  | .badCrc => s.recordDefaulted .crc
  | .good r =>
    match groupOf r.group.toNat, healthOf r.health, resultOf r.lastResult with
    | some g, some h, some t => s.putRecord g r.q.toNat t r.lastTime h r.failCount.toNat
    | _, _, _ => s.recordDefaulted .content

/-- B at the ceiling, the state-record and status-interval timers started (R167, R146). -/
def State.startTimers (s : State) : State :=
  (s.setReports { s.reports with budget := airtimeCeiling s.unit, statusTimer := s.statusTimer }).setStore
    { s.store with recordTimer := s.timer (sec 600), restoreTimer := none }

/-- The restore-complete event at the Supply Monitor: the restore mark, and the end of START if a frame has been accepted
(R110). -/
def State.supplyRestored (s : State) : State :=
  let s1 := s.setSupply { s.supply with restoreMark := true }
  if s.supply.power = .start ∧ s.supply.lastSeq.isSome then s1.endStart else s1

/-- The restore-complete event (R167): table images, state record, tag image, then B and the timers, then the blocks are
told. -/
def State.restore (s : State) : State :=
  s.restoreTables.restoreRecord.restoreTags.startTimers.supplyRestored.initTest

/-- RESTORE_COMPLETE (R167). -/
def execRestoreComplete (s : State) : Result := onExpiry s.store.restoreTimer s fun s => s.restore.grant

end Sys2Proof.Machine
end

