-- ==== Sys2Proof/Machine/Receiver.lean ====
section
/-! DEFINITION. The inbound receivers (R181): bytes of a link become frames, and frames become commands that wait in the
queue. -/

namespace Sys2Proof.Machine

/-- Kind codes of the inbound frames (spec/11 section 11.1). -/
def kindSample : Byte := 0x11
def kindCabinet : Byte := 0x21
def kindRequest : Byte := 0x22

/-- Whether a link's inbound direction carries a kind (R181). -/
def carries (link : LinkId) (kind : Byte) : Bool :=
  match link with
  | .sensor => kind == kindSample
  | .cabinet => kind == kindCabinet || kind == kindRequest

/-- Whether a payload length is the one given for an inbound kind (spec/11 section 11.1). -/
def lengthOk (kind : Byte) (len : Nat) : Bool :=
  if kind = kindSample then len == 16
  else if kind = kindCabinet then len == 14
  else decide (3 ≤ len) && decide (len ≤ 120)

/-- The command that a payload of a kind spells. -/
def parsePayload (kind : Byte) (payload : List Byte) : Option Instr :=
  if kind = kindSample then parseSample payload
  else if kind = kindCabinet then parseCabinet payload
  else parseRequestPayload payload

/-- A complete frame: kind, length, payload and the two CRC bytes, checked (R181). -/
def parseFrame (bytes : List Byte) : Option Instr :=
  match bytes with
  | kind :: len :: rest =>
    let payload := rest.take len.toNat
    if rest.drop len.toNat = encWord (crc16 (kind :: len :: payload)) then parsePayload kind payload else none
  | _ => none

/-- What a byte leads to: the receiver after it, and the command it completes, if it does. -/
abbrev Fed := Receiver × Option Instr

/-- The frame in progress with one more unstuffed byte (R181). -/
def collect (link : LinkId) (bytes : List Byte) : Fed :=
  match bytes with
  | [] => (.collecting [] false, none)
  | [kind] => if carries link kind then (.collecting bytes false, none) else (.hunting, some (.discardedFrame link))
  | kind :: len :: rest =>
    if !lengthOk kind len.toNat then (.hunting, some (.discardedFrame link))
    else if rest.length < len.toNat + 2 then (.collecting bytes false, none)
    else (.hunting, some ((parseFrame bytes).getD (.discardedFrame link)))

/-- One byte arrives at a receiver (R181). -/
def Receiver.feed (link : LinkId) (rx : Receiver) (b : Byte) : Fed :=
  match rx with
  | .hunting => if b = delimiter then (.collecting [] false, none) else (.hunting, none)
  | .collecting bytes escaped =>
    if b = delimiter then (.collecting [] false, some (.discardedFrame link))
    else if escaped then
      (if b = 0x5E then collect link (bytes ++ [0x7E])
       else if b = 0x5D then collect link (bytes ++ [0x7D])
       else (.hunting, some (.discardedFrame link)))
    else if b = 0x7D then (.collecting bytes true, none)
    else collect link (bytes ++ [b])

/-- Several bytes arrive: the receiver after them and the commands they complete, in order. -/
def Receiver.feedAll (link : LinkId) : Receiver → List Byte → Receiver × List Instr
  | rx, [] => (rx, [])
  | rx, b :: bs =>
    let f := rx.feed link b
    let r := f.1.feedAll link bs
    (r.1, f.2.toList ++ r.2)

/-- The receiver of a link. -/
def Links.rx (l : Links) : LinkId → Receiver
  | .sensor => l.sensorRx
  | .cabinet => l.cabinetRx

/-- The links with one receiver replaced. -/
def Links.setRx (l : Links) (link : LinkId) (rx : Receiver) : Links :=
  match link with
  | .sensor => { l with sensorRx := rx }
  | .cabinet => { l with cabinetRx := rx }

/-- A byte arrives on a link: the command that it completes waits at the end of the queue (log 5). -/
def State.receiveByte (s : State) (link : LinkId) (b : Byte) : State :=
  let f := (s.links.rx link).feed link b
  (s.setLinks (s.links.setRx link f.1)).setPending (s.pending ++ f.2.toList)

end Sys2Proof.Machine
end

