-- ==== Sys2Proof/Machine/Dispatch.lean ====
section
/-! DEFINITION. The meaning of every command: one arm for each constructor of `Instr`. -/

namespace Sys2Proof.Machine

def exec (i : Instr) (s : State) : Host.Outcome State Fault Refusal :=
  match i with
  | .powerOn => Sys2Proof.Machine.execPowerOn s
  | .restart => Sys2Proof.Machine.execRestart s
  | .sampleFrame f => Sys2Proof.Machine.execSampleFrame f s
  | .cabinetFrame f => Sys2Proof.Machine.execCabinetFrame f s
  | .discardedFrame link => Sys2Proof.Machine.execDiscardedFrame link s
  | .badRequest r kind body => Sys2Proof.Machine.execBadRequest r kind body s
  | .statusRead r => Sys2Proof.Machine.execStatusRead r s
  | .timeSet r value => Sys2Proof.Machine.execTimeSet r value s
  | .tableUnlock r table => Sys2Proof.Machine.execTableUnlock r table s
  | .tableBegin r table length => Sys2Proof.Machine.execTableBegin r table length s
  | .tableData r offset words => Sys2Proof.Machine.execTableData r offset words s
  | .tableCommit r => Sys2Proof.Machine.execTableCommit r s
  | .tableAbort r => Sys2Proof.Machine.execTableAbort r s
  | .tableRead r table offset count => Sys2Proof.Machine.execTableRead r table offset count s
  | .groupSelect r group => Sys2Proof.Machine.execGroupSelect r group s
  | .select r target token => Sys2Proof.Machine.execSelect r target token s
  | .operateOpen r token => Sys2Proof.Machine.execOperateOpen r token s
  | .operateClose r token => Sys2Proof.Machine.execOperateClose r token s
  | .operateRestart r token => Sys2Proof.Machine.execOperateRestart r token s
  | .tagPlace r crew kind => Sys2Proof.Machine.execTagPlace r crew kind s
  | .tagRemove r crew => Sys2Proof.Machine.execTagRemove r crew s
  | .tagList r => Sys2Proof.Machine.execTagList r s
  | .batteryTest r => Sys2Proof.Machine.execBatteryTest r s
  | .reportPoll r => Sys2Proof.Machine.execReportPoll r s
  | .reportAck r number => Sys2Proof.Machine.execReportAck r number s
  | .faultRead r number => Sys2Proof.Machine.execFaultRead r number s
  | .absenceTimerExpiry => Sys2Proof.Machine.execAbsenceTimerExpiry s
  | .sensorLossTimerExpiry => Sys2Proof.Machine.execSensorLossTimerExpiry s
  | .disagreeTimerExpiry => Sys2Proof.Machine.execDisagreeTimerExpiry s
  | .wholeSecond => Sys2Proof.Machine.execWholeSecond s
  | .coldLoadTimerExpiry => Sys2Proof.Machine.execColdLoadTimerExpiry s
  | .deadTimerExpiry => Sys2Proof.Machine.execDeadTimerExpiry s
  | .energyWaitTimerExpiry => Sys2Proof.Machine.execEnergyWaitTimerExpiry s
  | .reclaimTimerExpiry => Sys2Proof.Machine.execReclaimTimerExpiry s
  | .tripPulseTimerExpiry => Sys2Proof.Machine.execTripPulseTimerExpiry s
  | .closePulseTimerExpiry => Sys2Proof.Machine.execClosePulseTimerExpiry s
  | .tripConfirmLimit => Sys2Proof.Machine.execTripConfirmLimit s
  | .closeConfirmLimit => Sys2Proof.Machine.execCloseConfirmLimit s
  | .freshnessTimerExpiry => Sys2Proof.Machine.execFreshnessTimerExpiry s
  | .supplyQualifyTimerExpiry => Sys2Proof.Machine.execSupplyQualifyTimerExpiry s
  | .cutoffTimerExpiry => Sys2Proof.Machine.execCutoffTimerExpiry s
  | .finalReportTimerExpiry => Sys2Proof.Machine.execFinalReportTimerExpiry s
  | .holdTimerExpiry => Sys2Proof.Machine.execHoldTimerExpiry s
  | .absorbTimerExpiry => Sys2Proof.Machine.execAbsorbTimerExpiry s
  | .rebulkTimerExpiry => Sys2Proof.Machine.execRebulkTimerExpiry s
  | .floatFullTimerExpiry => Sys2Proof.Machine.execFloatFullTimerExpiry s
  | .testDurationTimerExpiry => Sys2Proof.Machine.execTestDurationTimerExpiry s
  | .scheduleRetryTimerExpiry => Sys2Proof.Machine.execScheduleRetryTimerExpiry s
  | .chargerRepeatTimerExpiry => Sys2Proof.Machine.execChargerRepeatTimerExpiry s
  | .ackTimerExpiry number => Sys2Proof.Machine.execAckTimerExpiry number s
  | .statusIntervalTimerExpiry => Sys2Proof.Machine.execStatusIntervalTimerExpiry s
  | .loadingTimerExpiry => Sys2Proof.Machine.execLoadingTimerExpiry s
  | .stateRecordTimerExpiry => Sys2Proof.Machine.execStateRecordTimerExpiry s
  | .selectTimerExpiry => Sys2Proof.Machine.execSelectTimerExpiry s
  | .restoreComplete => Sys2Proof.Machine.execRestoreComplete s
  | .tagWriteComplete verified => Sys2Proof.Machine.execTagWriteComplete verified s
  | .stateRecordWriteComplete verified => Sys2Proof.Machine.execStateRecordWriteComplete verified s
  | .tableWriteComplete verified => Sys2Proof.Machine.execTableWriteComplete verified s
  | .operateNoSelect r token => Sys2Proof.Machine.execOperateNoSelect r token s

end Sys2Proof.Machine
end

