-- ==== Sys2Proof/Machine/Tick.lean ====
section
/-! DEFINITION. What the millisecond base brings while no command waits (spec/00 section 2.1): which commands are due at
the present moment, and one tick of the base (log 1, log 3). -/

namespace Sys2Proof.Machine

/-- A running timer whose moment the base has reached. -/
def expired (now : Nat) (t : Timer) : Bool := t.any fun c => decide (c.due ≤ now)

/-- A command, if the timer it ends has expired. -/
def dueOf (now : Nat) (t : Timer) (i : Instr) : List Instr := if expired now t then [i] else []

/-- The whole second, if the base has reached it. -/
def State.dueSecond (s : State) : List Instr := if s.nextSecond ≤ s.now then [.wholeSecond] else []

/-- Due expiries of the sample path, the Overcurrent Unit, the Sequence Controller and the Actuator Control. -/
def State.dueProtection (s : State) : List Instr :=
  dueOf s.now s.sample.absence .absenceTimerExpiry ++ dueOf s.now s.sample.sensorLoss .sensorLossTimerExpiry
    ++ dueOf s.now s.sample.disagree .disagreeTimerExpiry ++ dueOf s.now s.oc.coldTimer .coldLoadTimerExpiry
    ++ dueOf s.now s.seq.dead .deadTimerExpiry ++ dueOf s.now s.seq.energyWait .energyWaitTimerExpiry
    ++ dueOf s.now s.seq.reclaim .reclaimTimerExpiry ++ dueOf s.now s.act.tripTimer .tripPulseTimerExpiry
    ++ dueOf s.now s.act.closeTimer .closePulseTimerExpiry
    ++ dueOf s.now (s.act.limitTimer .tripWait) .tripConfirmLimit ++ dueOf s.now (s.act.limitTimer .closeWait) .closeConfirmLimit

/-- Due expiries of the Supply Monitor and the Battery Unit. -/
def State.duePower (s : State) : List Instr :=
  dueOf s.now s.supply.freshTimer .freshnessTimerExpiry ++ dueOf s.now s.supply.qualifyTimer .supplyQualifyTimerExpiry
    ++ dueOf s.now s.supply.cutoffTimer .cutoffTimerExpiry ++ dueOf s.now s.supply.finalTimer .finalReportTimerExpiry
    ++ dueOf s.now s.battery.holdTimer .holdTimerExpiry ++ dueOf s.now s.battery.absorbTimer .absorbTimerExpiry
    ++ dueOf s.now s.battery.rebulkTimer .rebulkTimerExpiry ++ dueOf s.now s.battery.floatFullTimer .floatFullTimerExpiry
    ++ dueOf s.now s.battery.testTimer .testDurationTimerExpiry ++ dueOf s.now s.battery.retryTimer .scheduleRetryTimerExpiry
    ++ dueOf s.now s.battery.repeatTimer .chargerRepeatTimerExpiry

/-- Due ack timers, in the order of the queue. -/
def ReportQueue.dueAcks (q : ReportQueue) (now : Nat) : List Instr :=
  q.records.flatMap fun r => if r.state = .sent then dueOf now r.ack (.ackTimerExpiry r.number) else []

/-- Due expiries of the Report Queue, the Table Store and the Command Unit. -/
def State.dueStores (s : State) : List Instr :=
  s.reports.dueAcks s.now ++ dueOf s.now s.reports.statusTimer .statusIntervalTimerExpiry
    ++ dueOf s.now s.store.buffer.timer .loadingTimerExpiry ++ dueOf s.now s.store.recordTimer .stateRecordTimerExpiry
    ++ dueOf s.now s.cmd.selectTimer .selectTimerExpiry

/-- The restore-complete event and the write completion that are due. Whether a write that completes of itself has
matched at its verify is a free value (log 7). -/
def State.dueNv (s : State) : List Instr :=
  dueOf s.now s.store.restoreTimer .restoreComplete
    ++ dueOf s.now s.store.tagJobTimer (.tagWriteComplete (Config.writeVerifies s.free))
    ++ dueOf s.now s.store.recordJobTimer (.stateRecordWriteComplete (Config.writeVerifies s.free))
    ++ dueOf s.now s.store.tableJobTimer (.tableWriteComplete (Config.writeVerifies s.free))

/-- An operated RESTART that waits takes effect (R178). -/
def State.dueRestart (s : State) : List Instr := if s.restartReady then [.restart] else []

/-- All that is due at the present moment, in the order in which it is taken (log 3). -/
def State.due (s : State) : List Instr :=
  s.dueSecond ++ s.dueProtection ++ s.duePower ++ s.dueStores ++ s.dueNv ++ s.dueRestart

/-- One tick of the base, made when no command waits: the first command that is due is put in the queue; when none is,
the base goes on by half a millisecond. -/
def State.tick (s : State) : State :=
  match s.due with
  | [] => s.advanceTo (s.now + 1)
  | i :: _ => (s.setPending [i]).useFree

end Sys2Proof.Machine
end

