-- ==== Sys2Proof/Safety.lean ====
section
/-! DEFINITION. What a safe state of the engine is, and what a command leaves as it is, in the terms in which the
statements use them. -/

namespace Sys2Proof.Machine

/-! ## Frames: what a command leaves unchanged -/

/-- Sample Interface, Magnitude Unit and Overcurrent Unit are unchanged. -/
def SamePath (s t : State) : Prop := t.sample = s.sample ∧ t.mag = s.mag ∧ t.oc = s.oc

/-- Sequence Controller and Actuator Control are unchanged. -/
def SameDrive (s t : State) : Prop := t.seq = s.seq ∧ t.act = s.act

/-- Supply Monitor and Battery Unit are unchanged. -/
def SamePower (s t : State) : Prop := t.supply = s.supply ∧ t.battery = s.battery

/-- Report Queue and Fault Log are unchanged. -/
def SameLogs (s t : State) : Prop := t.reports = s.reports ∧ t.faults = s.faults

/-- Tag Table and Table Store, with the NV array, are unchanged. -/
def SameArrays (s t : State) : Prop := t.tags = s.tags ∧ t.store = s.store

/-- The base, the free values and the queue of commands are unchanged. -/
def SameClock (s t : State) : Prop := t.now = s.now ∧ t.nextSecond = s.nextSecond ∧ t.free = s.free ∧ t.pending = s.pending

/-- The base has reached a moment, unless it was past it; the next whole second, the free values and the queue are
unchanged. -/
def MovedTo (moment : Nat) (s t : State) : Prop :=
  t.now = max s.now moment ∧ t.nextSecond = s.nextSecond ∧ t.free = s.free ∧ t.pending = s.pending

/-- Nothing but a part of the links or the Command Unit has changed. -/
def OnlyLinksAndCommand (s t : State) : Prop :=
  SamePath s t ∧ SameDrive s t ∧ SamePower s t ∧ SameLogs s t ∧ SameArrays s t ∧ SameClock s t

/-- A frame has been handed to the transmitter, and nothing else of the links has changed. -/
def Handed (frame : OutFrame) (s t : State) : Prop := t.links = { s.links with tx := s.links.tx ++ [frame] }

/-- No commit waits for a rest of the sequence or for the end of a battery test. -/
abbrev State.nothingPending (s : State) : Prop := s.store.buffer.state ≠ .pending

/-! ## Effects that several commands share, each said from the state before to the state after -/

/-- A battery test tried by the schedule (R128, R129), with the seconds counter at a value and the base at a moment: a test that
is due, with none running and the retry timer stopped, starts where its preconditions hold, else the retry timer runs
600 s; without such a try the Battery Unit is unchanged. -/
def ScheduledTry (s t : State) (seconds : Long) (moment : Nat) : Prop :=
  let c := s.setCmd { s.cmd with seconds := seconds }
  (c.testDue = true → s.battery.testState = .idle → s.battery.retryTimer = none →
    (c.testReady = true →
      t.battery.testState = .running ∧ t.battery.testOrigin = .scheduled ∧ t.battery.charge = .test ∧
      t.battery.vRest = some s.supply.meas.battery ∧ t.battery.vMin = none ∧ t.battery.dischargeSum = 0 ∧
      t.battery.frameCount = 0 ∧ t.battery.testTimer = startAt moment (sec (testDuration s.batteryTable)) ∧
      t.battery.retryTimer = none ∧ t.battery.q = s.battery.q) ∧
    (c.testReady = false → t.battery = { s.battery with retryTimer := startAt moment (sec 600) })) ∧
  ((c.testDue = false ∨ s.battery.testState ≠ .idle ∨ s.battery.retryTimer ≠ none) → t.battery = s.battery)

/-- The sequence is in LOCKOUT for a reason, with its latch released, its timers stopped and s as it was (R58). -/
def LockedOut (reason : LockoutReason) (s t : State) : Prop :=
  t.seq.state = .lockout ∧ t.seq.reason = some reason ∧ t.seq.latched = none ∧ t.seq.dead = none ∧ t.seq.energyWait = none ∧
  t.seq.reclaim = none ∧ t.seq.s = s.seq.s

/-- The switch is recorded open, and the Overcurrent Unit is cleared (R44, R28). -/
def RecordedOpen (s t : State) : Prop :=
  t.seq.recorded = some .opened ∧ t.oc = clearedOvercurrent ∧
  (s.seq.recorded ≠ some .opened → t.seq.openClock = 0 ∧ t.seq.openClockRuns = true)

/-- The sequence has entered IDLE with nothing pending (R46): with the elements QUIET it stays there; with the unit ACTIVE it has
gone on to TIMING, the active group is latched and a fault record is open. -/
def EnteredIdle (s t : State) : Prop :=
  t.seq.s = 0 ∧ t.seq.dead = none ∧ t.seq.energyWait = none ∧ t.seq.reclaim = none ∧
  (s.oc.active = false → t.seq.state = .idle ∧ t.seq.latched = none ∧ t.faults = s.faults) ∧
  (s.oc.active = true → t.seq.state = .timing ∧ t.seq.latched = some s.store.activeGroup ∧ t.faults.openRecord.isSome = true)

/-- The switch is recorded closed by a close that is no reclose: the open-time clock stops, and the cold-load window opens where
the open time qualifies (R44, R33). -/
def ClosedByHand (s t : State) : Prop :=
  t.seq.recorded = some .closed ∧
  (s.seq.recorded = some .closed → t.oc = s.oc) ∧
  (s.seq.recorded ≠ some .closed →
    t.seq.openClockRuns = false ∧
    t.oc = if coldLoadQualify s.governingTable ≤ s.seq.openClock ∧ coldLoadTime s.governingTable ≠ 0 then
        { s.oc with coldOpen := true, coldTimer := startAt s.now (sec (coldLoadTime s.governingTable)) }
      else s.oc)

/-- The queue after the GROUP_APPLIED report of a pending group, if there is one (R164). -/
def State.afterGroupReport (s : State) : ReportQueue :=
  match s.seq.pendingGroup with
  | none => s.reports
  | some g => (s.reports.enter 4 s.cmd.seconds (.settings (.groupApplied g s.store.activeGroup))).1

/-- What an entry to IDLE or LOCKOUT applies (R67, R161, R164). A pending group becomes active, and a change asks for a
state-record write. A PENDING image of any table but BATTERY is put into force, its write asked for and to be answered by a
report; a UNIT table caps the airtime budget and, where it changes the nominal frequency, restarts a live stream (R140, R9). -/
def PendingTaken (s t : State) : Prop :=
  let b := s.store.buffer
  let applied := b.state = .pending ∧ tableKind b.table ≠ .battery
  t.seq.pendingGroup = none ∧ t.store.activeGroup = s.seq.pendingGroup.getD s.store.activeGroup ∧
  (t.store.activeGroup ≠ s.store.activeGroup → t.store.recordWaiting.isSome = true ∨ t.store.inFlight.isSome = true) ∧
  (applied →
    t.store.tables = s.store.tables.set b.table b.image ∧ t.store.buffer = { b with state := .writing, request := none } ∧
    (t.store.tableWaiting = true ∨ t.store.inFlight = some (.table b.table b.image))) ∧
  (¬ applied → t.store.tables = s.store.tables ∧ t.store.buffer = b) ∧
  t.reports.budget =
    (if applied ∧ tableKind b.table = .unit then min s.reports.budget (airtimeCeiling t.unit : Int) else s.reports.budget) ∧
  (if applied ∧ tableKind b.table = .unit ∧ nominalFrequency t.unit ≠ nominalFrequency s.unit ∧ s.streamLive = true then
    t.sample = { s.sample with stream := .filling, run := 0 } ∧ t.mag = s.mag.cleared
   else t.sample = s.sample ∧ t.mag = s.mag)

/-- The codes of a state record lie in their ranges (R168). -/
def recordInRange (r : StateRecord) : Bool :=
  decide (r.group.toNat < 4) && decide (r.health.toNat < 3) && decide (r.lastResult.toNat < 4)

/-- The reports that the restore enters, with their classes, in the order of the images: tables by id, state record, tag
image (R168, R102). -/
def restoreReports (nv : NvArray) : List (Nat × ReportBody) :=
  (writableIds.filterMap fun id =>
    match nv.tables.getD id .missing with
    | .missing => some (4, .settings (.imageDefaulted (.table id) .missing))
    | .badCrc => some (4, .settings (.imageDefaulted (.table id) .crc))
    | .good image => if imageValid id image then none else some (4, .settings (.imageDefaulted (.table id) .content))) ++
  (match nv.record with
    | .missing => [(4, .settings (.stateDefaulted .missing))]
    | .badCrc => [(4, .settings (.stateDefaulted .crc))]
    | .good r => if recordInRange r then [] else [(4, .settings (.stateDefaulted .content))]) ++
  (match nv.tags with
    | .missing => [(4, .settings (.imageDefaulted .tagImage .missing)), (6, .tag .restoredEmpty none 0 false)]
    | .badCrc => [(4, .settings (.imageDefaulted .tagImage .crc)), (6, .tag .restoredEmpty none 0 false)]
    | .good image =>
      if tagImageValid image then []
      else [(4, .settings (.imageDefaulted .tagImage .content)), (6, .tag .restoredEmpty none 0 false)])

/-! ### Sample instants that a gap fills -/

/-- The windows and running sums after sample instants, in their order (R14). -/
def MagnitudeUnit.after (m : MagnitudeUnit) (instants : List (Channels Int)) : Channels (List Int) × Channels Nat :=
  instants.foldl (fun p x => (Channels.zip pushWindow p.1 x, Channels.zip3 pushSum p.2 p.1 x)) (m.windows, m.sums)

/-! ### The conclusion of a tag write (R92, R93, R98, R100) -/

/-- A record that the write carried, after its conclusion; none where its slot is freed. -/
def concludedRecord (verified : Bool) (r : TagRecord) : Option TagRecord :=
  if r.state = .removing ∧ verified = true then none else some r.settled

/-- The table when the slots below a number have been concluded, in slot order. -/
def TagTable.concludedBelow (t : TagTable) (verified : Bool) (k : Nat) : TagTable :=
  { t with slots := t.slots.mapIdx fun i o => o.bind fun r =>
      if i < k ∧ r.stage = .writing then concludedRecord verified r else some r }

/-- The answer to the pending request of a slot's record (R92, R93), with crew code, slot and record state after the conclusion
(R98): HELD, or all ones for a removal answered OK. -/
def tagAnswer (verified : Bool) (i : Nat) (o : Option TagRecord) : Option OutFrame :=
  o.bind fun r => r.request.bind fun q =>
    let code : ResultCode := if verified then .ok else .nvFault
    let body (state : Byte) : List Byte := [hiByte r.crew, loByte r.crew, BitVec.ofNat 8 i, state]
    if r.stage ≠ .writing then none
    else match r.state with
      | .placing => some (responseFrame q.id 12 code (body 1))
      | .removing => some (responseFrame q.id 13 code (body (if verified then 0xFF else 1)))
      | .held => none

/-- The TAG report of a slot's record (R100), with the count of the tags after its own conclusion. -/
def TagTable.conclusionReport (t : TagTable) (verified : Bool) (i : Nat) (o : Option TagRecord) : Option ReportBody :=
  o.bind fun r =>
    let body (e : TagEvent) : ReportBody :=
      .tag e
        (some { crew := r.crew, kind := r.kind, origin := r.origin, requester := r.request.map Req.origin, placed := r.placed, slot := i })
        (t.concludedBelow verified (i + 1)).count verified
    if r.stage ≠ .writing then none
    else match r.state with
      | .placing => some (body (if verified then .placed else .placeNotDurable))
      | .removing => some (body (if verified then .removed else .removeFailed))
      | .held => none

/-! ### What a CABINET frame does in the Battery Unit and in an energy wait, with the restore complete and no commit pending -/

/-- The temperature state after a frame (R121). -/
def TemperatureTaken (f : CabinetFrame) (s t : State) : Prop :=
  let valid := f.flags.getLsbD 2 = true ∧ -400 ≤ f.temperature.toInt ∧ f.temperature.toInt ≤ 800
  (valid → t.battery.tempState = .valid ∧ t.battery.heldTemp = f.temperature.toInt ∧ t.battery.holdTimer = none) ∧
  (¬ valid → t.battery.heldTemp = s.battery.heldTemp ∧
    (s.battery.tempState = .valid → t.battery.tempState = .holding ∧ t.battery.holdTimer = startAt s.now (sec 60)) ∧
    (s.battery.tempState ≠ .valid → t.battery.tempState = s.battery.tempState ∧ t.battery.holdTimer = s.battery.holdTimer))

/-- The working temperature that a frame leaves lies outside the charge window (R126). -/
abbrev OutsideWindow (s t : State) : Prop :=
  t.battery.workingTemp < 10 * windowLow s.batteryTable ∨ 10 * (windowHigh s.batteryTable : Int) < t.battery.workingTemp

/-- A frame brings one of the rest conditions (R126). -/
abbrev FrameRests (f : CabinetFrame) (s t : State) : Prop := OutsideWindow s t ∨ f.flags.getLsbD 1 = true

/-- A frame lets REST be left: no charger fault, and a working temperature 2.0 °C inside the window (R126). -/
abbrev FrameLeavesRest (f : CabinetFrame) (s t : State) : Prop :=
  f.flags.getLsbD 1 = false ∧ 10 * windowLow s.batteryTable + 20 ≤ t.battery.workingTemp ∧
  t.battery.workingTemp ≤ 10 * (windowHigh s.batteryTable : Int) - 20

/-- BULK, or FLOAT under a temperature FAULT (R124). -/
def BulkOrFloat (t : State) : ChargeState := if t.battery.tempState = .fault then .float else .bulk

/-- The charge state and its timers after a frame in NORMAL with the supply present and no test running (R124, R125, R126, R119):
one transition, from the state that the frame finds; and the CHARGER frame of a changed content (R127). -/
def ChargeTaken (f : CabinetFrame) (s t : State) : Prop :=
  let rests := FrameRests f s t
  let millivolts : Int := 10 * (f.battery.toNat : Int)
  (s.battery.charge = .off → t.battery.charge = .off) ∧
  (s.battery.charge = .rest →
    (FrameLeavesRest f s t → t.battery.charge = BulkOrFloat t) ∧ (¬ FrameLeavesRest f s t → t.battery.charge = .rest)) ∧
  (s.battery.charge ≠ .off → s.battery.charge ≠ .rest → rests → t.battery.charge = .rest ∧ t.battery.absorbTimer = none ∧
    t.battery.rebulkTimer = none ∧ t.battery.floatFullTimer = none) ∧
  (s.battery.charge = .bulk → ¬ rests →
    (t.absorbTarget ≤ millivolts → t.battery.charge = .absorb ∧
      t.battery.absorbTimer = startAt s.now (sec (3600 * absorbMaxTime s.batteryTable))) ∧
    (millivolts < t.absorbTarget → t.battery.charge = .bulk)) ∧
  (s.battery.charge = .absorb → ¬ rests →
    (f.current.toInt ≤ (absorbEndCurrent s.batteryTable : Int) → t.battery.charge = .float ∧ t.battery.absorbTimer = none) ∧
    ((absorbEndCurrent s.batteryTable : Int) < f.current.toInt →
      t.battery.charge = .absorb ∧ t.battery.absorbTimer = s.battery.absorbTimer)) ∧
  (s.battery.charge = .float → ¬ rests →
    (t.battery.tempState ≠ .fault → t.soc < 90 →
      t.battery.charge = .bulk ∧ t.battery.rebulkTimer = none ∧ t.battery.floatFullTimer = none) ∧
    ((t.battery.tempState = .fault ∨ 90 ≤ t.soc) → t.battery.charge = .float ∧
      t.battery.floatFullTimer =
        (if 0 ≤ f.current.toInt ∧ f.current.toInt ≤ (absorbEndCurrent s.batteryTable : Int) then
          (if s.battery.floatFullTimer.isSome then s.battery.floatFullTimer else startAt s.now (sec 3600)) else none) ∧
      t.battery.rebulkTimer =
        (if t.battery.tempState ≠ .fault ∧ millivolts < t.floatTarget - 500 then
          (if s.battery.rebulkTimer.isSome then s.battery.rebulkTimer else startAt s.now (sec 60)) else none))) ∧
  (t.chargerContent = s.battery.sent → t.links = s.links ∧ t.battery.repeatTimer = s.battery.repeatTimer) ∧
  (t.chargerContent ≠ s.battery.sent → Handed t.chargerContent.frame s t ∧ t.battery.repeatTimer = startAt s.now (sec 1))

/-- The BATTERY report of a test that a frame aborts, with the frame taken into the measurement (R130, R132). -/
def frameAbortReport (f : CabinetFrame) (s t : State) (cause : AbortCause) : BatteryReport :=
  { origin := s.battery.testOrigin, result := .aborted, cause := some cause, vRest := s.battery.vRest,
    vMin := some ((s.battery.vMin.map (min f.battery.toNat)).getD f.battery.toNat), load := none, resistance := none,
    workingTemp := t.battery.workingTemp, tempState := t.battery.tempState, testMinimum := t.testMinimum,
    health := s.battery.health, failCount := s.battery.failCount }

/-- A running test after a frame in NORMAL with the supply present (R130, R132): measured, or aborted for the first cause that
holds; an abort for TRIP_ENERGY goes to REST where a rest condition accompanies it, else to BULK or FLOAT, from which the frame
may lead to ABSORB. -/
def TestTaken (f : CabinetFrame) (s t : State) : Prop :=
  let aborted (cause : AbortCause) : Prop :=
    t.battery.testState = .idle ∧ t.battery.testTimer = none ∧ t.battery.retryTimer = none ∧ t.battery.lastResult = .aborted ∧
    t.battery.lastTime = some s.cmd.seconds ∧ t.battery.health = s.battery.health ∧ t.battery.failCount = s.battery.failCount ∧
    (s.seq.energyWait = none → t.reports = (s.reports.enter 2 s.cmd.seconds (.battery (frameAbortReport f s t cause))).1)
  let energy := tripReadyLevel s.unit ≤ f.tripCap.toNat
  (¬ energy → aborted .tripEnergy ∧
    (FrameRests f s t → t.battery.charge = .rest) ∧
    (¬ FrameRests f s t → t.battery.charge =
      (if t.battery.tempState = .fault then .float else if t.absorbTarget ≤ 10 * (f.battery.toNat : Int) then .absorb else .bulk))) ∧
  (energy → OutsideWindow s t → aborted .temperature ∧ t.battery.charge = .rest) ∧
  (energy → ¬ OutsideWindow s t → f.flags.getLsbD 1 = true → aborted .chargerFault ∧ t.battery.charge = .rest) ∧
  (energy → ¬ FrameRests f s t →
    t.battery.testState = .running ∧ t.battery.charge = .test ∧ t.battery.testTimer = s.battery.testTimer ∧
    t.battery.vMin = some ((s.battery.vMin.map (min f.battery.toNat)).getD f.battery.toNat) ∧
    t.battery.dischargeSum = s.battery.dischargeSum - f.current.toInt ∧ t.battery.frameCount = s.battery.frameCount + 1)

/-- The charge state under the power states (R123): OFF at a change to a state other than NORMAL, which ends a running test; OFF
stays OFF with no change; at the end of START in NORMAL, OFF becomes the entry choice. -/
def ChargeNoticed (f : CabinetFrame) (s t : State) : Prop :=
  (t.supply.power ≠ s.supply.power → t.supply.power ≠ .normal →
    t.battery.charge = .off ∧ t.battery.testState = .idle ∧ t.battery.absorbTimer = none ∧ t.battery.rebulkTimer = none ∧
    t.battery.floatFullTimer = none ∧
    (s.battery.testState = .running → t.battery.lastResult = .aborted ∧ t.battery.lastTime = some s.cmd.seconds ∧
      t.battery.testTimer = none ∧ t.battery.retryTimer = none)) ∧
  (t.supply.power = s.supply.power → s.battery.testState = .idle → s.battery.charge = .off → t.battery.charge = .off) ∧
  (s.supply.power = .start → t.supply.power = .normal → s.battery.testState = .idle → s.battery.charge = .off →
    (FrameRests f s t → t.battery.charge = .rest) ∧ (¬ FrameRests f s t → t.battery.charge = BulkOrFloat t))

/-- A reclose in energy wait, asked for again at a frame with the supply as the frame leaves it (R53, R52, R77); without an energy
wait the frame leaves the sample path, the sequence, the actuator and the Fault Log as they are. -/
def RecloseRechecked (s t : State) : Prop :=
  let permission := (s.setSupply t.supply).permission
  let waits := s.seq.state = .dead ∧ s.seq.energyWait.isSome = true
  (¬ waits → SamePath s t ∧ SameDrive s t ∧ t.faults = s.faults) ∧
  (waits → s.act.trip = true → t.seq = s.seq ∧ t.act = { s.act with deferred := some .reclose }) ∧
  (waits → s.act.trip = false →
    (permission = none →
      t.seq.state = .closing ∧ t.seq.closeKind = .reclose ∧ t.seq.s = s.seq.s ∧ t.seq.latched = s.seq.latched ∧ t.seq.dead = none ∧
      t.seq.energyWait = none ∧ t.act.close = true ∧ t.act.closeTimer = startAt s.now (msec (closePulseWidth s.unit)) ∧
      t.act.supervision = .closeWait ∧ t.act.trip = false) ∧
    ((permission = some .tripEnergy ∨ permission = some .closeEnergy) → SameDrive s t) ∧
    (permission = some .tag → LockedOut .tag s t ∧ t.act = s.act) ∧
    (permission = some .position → LockedOut .position s t ∧ t.act = s.act) ∧
    (permission = some .power → LockedOut .power s t ∧ t.act = s.act) ∧
    (permission = some .mechanism →
      t.seq.state = (if s.sample.stream = .valid then .lockout else .mechFail) ∧ t.seq.energyWait = none ∧ t.act = s.act) ∧
    permission ≠ some .stream)

/-! ## Timers by the command that their expiry is -/

/-- The timer that a command ends; none for a command that is no expiry. -/
def timerOf (s : State) : Instr → Option Timer
  | .absenceTimerExpiry => some s.sample.absence
  | .sensorLossTimerExpiry => some s.sample.sensorLoss
  | .disagreeTimerExpiry => some s.sample.disagree
  | .coldLoadTimerExpiry => some s.oc.coldTimer
  | .deadTimerExpiry => some s.seq.dead
  | .energyWaitTimerExpiry => some s.seq.energyWait
  | .reclaimTimerExpiry => some s.seq.reclaim
  | .tripPulseTimerExpiry => some s.act.tripTimer
  | .closePulseTimerExpiry => some s.act.closeTimer
  | .tripConfirmLimit => some (s.act.limitTimer .tripWait)
  | .closeConfirmLimit => some (s.act.limitTimer .closeWait)
  | .freshnessTimerExpiry => some s.supply.freshTimer
  | .supplyQualifyTimerExpiry => some s.supply.qualifyTimer
  | .cutoffTimerExpiry => some s.supply.cutoffTimer
  | .finalReportTimerExpiry => some s.supply.finalTimer
  | .holdTimerExpiry => some s.battery.holdTimer
  | .absorbTimerExpiry => some s.battery.absorbTimer
  | .rebulkTimerExpiry => some s.battery.rebulkTimer
  | .floatFullTimerExpiry => some s.battery.floatFullTimer
  | .testDurationTimerExpiry => some s.battery.testTimer
  | .scheduleRetryTimerExpiry => some s.battery.retryTimer
  | .chargerRepeatTimerExpiry => some s.battery.repeatTimer
  | .ackTimerExpiry n => some (s.reports.ackTimer n)
  | .statusIntervalTimerExpiry => some s.reports.statusTimer
  | .loadingTimerExpiry => some s.store.buffer.timer
  | .stateRecordTimerExpiry => some s.store.recordTimer
  | .selectTimerExpiry => some s.cmd.selectTimer
  | .restoreComplete => some s.store.restoreTimer
  | .tagWriteComplete _ => some s.store.tagJobTimer
  | .stateRecordWriteComplete _ => some s.store.recordJobTimer
  | .tableWriteComplete _ => some s.store.tableJobTimer
  | _ => none

/-! ## Safe states -/

/-- The TRIP line and the CLOSE line are not active together, and no CLOSE pulse runs while a trip is awaited. -/
def PulsesApart (s : State) : Prop :=
  ¬ (s.act.trip = true ∧ s.act.close = true) ∧ (s.act.supervision = .tripWait → s.act.close = false)

/-- With the mechanism-fault latch set both coil lines are inactive and nothing can start a pulse. -/
def LatchHolds (s : State) : Prop :=
  s.act.latch = true → s.act.trip = false ∧ s.act.close = false ∧ s.act.supervision = .none ∧ s.act.heldTrip = false

/-- Every window holds 32 samples, and W is the exact sum of their squares, in each channel. -/
def WindowExact (w : List Int) (sum : Nat) : Prop := w.length = 32 ∧ sum = (w.map square).sum

/-- The windows and running sums of the seven channels (R14). -/
def WindowsExact (s : State) : Prop :=
  WindowExact s.mag.windows.ia s.mag.sums.ia ∧ WindowExact s.mag.windows.ib s.mag.sums.ib ∧
  WindowExact s.mag.windows.ic s.mag.sums.ic ∧ WindowExact s.mag.windows.iN s.mag.sums.iN ∧
  WindowExact s.mag.windows.va s.mag.sums.va ∧ WindowExact s.mag.windows.vb s.mag.sums.vb ∧
  WindowExact s.mag.windows.vc s.mag.sums.vc

/-- One accumulator in its ranges. -/
def Accumulator.inRange (a : Accumulator) : Prop := a.value ≤ fullScale ∧ a.count ≤ 65535

/-- The accumulators and counters of the Overcurrent Unit in their ranges. -/
def ElementsInRange (s : State) : Prop :=
  s.oc.accs.a.inRange ∧ s.oc.accs.b.inRange ∧ s.oc.accs.c.inRange ∧ s.oc.accs.n.inRange ∧
  s.oc.highSetPhase ≤ 255 ∧ s.oc.highSetGround ≤ 255

/-- Six slots, and no two records share a crew code (R88). -/
def TagTableSound (s : State) : Prop :=
  s.tags.slots.length = 6 ∧ (s.tags.records.map TagRecord.crew).Nodup

/-- The queue holds at most 32 records, and their classes do not rise from its front to its end (R136, R138). -/
def QueueSound (s : State) : Prop :=
  s.reports.records.length ≤ 32 ∧ s.reports.records.Pairwise (fun a b => b.cls ≤ a.cls)

/-- The ring holds at most sixteen records, which have the consecutive numbers below the next one, oldest first (R152). -/
def FaultRingSound (s : State) : Prop :=
  s.faults.ring.length ≤ 16 ∧
  s.faults.ring.map FaultRecord.number =
    (List.range s.faults.ring.length).map fun k => s.faults.nextNumber - BitVec.ofNat 16 (s.faults.ring.length - k)

/-- Q lies between 0 and Qmax of the active BATTERY table. -/
def ChargeBounded (s : State) : Prop := s.battery.q ≤ qMax s.batteryTable

/-- Fifteen active tables; each writable one passes the validation of R156. -/
def TablesValid (s : State) : Prop :=
  s.store.tables.length = 15 ∧ ∀ id, 1 ≤ id → id ≤ 14 → imageValid id (s.store.tables.getD id []) = true

/-- The staging buffer of a load or of a pending commit fits its table; one that is pending passes the validation. -/
def BufferSound (s : State) : Prop :=
  (s.store.buffer.state = .loading ∨ s.store.buffer.state = .pending →
    1 ≤ s.store.buffer.table ∧ s.store.buffer.table ≤ 14 ∧ s.store.buffer.image.length = s.store.buffer.length ∧
    lengthFits s.store.buffer.table s.store.buffer.length = true) ∧
  (s.store.buffer.state = .pending → firstInvalid s.store.buffer.table s.store.buffer.image = none)

/-- While the array is free no write waits for it; a tag write is in flight exactly when the Tag Table says so; and no
tag write is asked for before the restore is complete. -/
def ArbiterSound (s : State) : Prop :=
  (s.store.inFlight = none → s.arbiterIdle = true) ∧
  (s.tags.writeState = .inFlight ↔ ∃ image, s.store.inFlight = some (.tag image)) ∧
  (s.store.restoreTimer.isSome = true → s.supply.restoreMark = false ∧ s.tags.writeState = .idle)

/-- No write is waiting that the arbiter could grant. -/
abbrev NothingToGrant (s : State) : Prop := s.store.inFlight.isSome = true ∨ s.arbiterIdle = true

end Sys2Proof.Machine
end

