-- ==== Sys2Proof/Certificates/Slice0/Obligations.lean ====
section
/-! DEFINITION. The statements for the provers, each from rules of spec/ or, where its docstring says so, of a choice of the
model. -/

open Sys2Proof Sys2Proof.Machine

/-! ## The queue and the base -/

/-- The model's own convention (log 1, log 3): a step takes the command at the front of the queue and runs it with the queue's
rest. With an empty queue it is one tick of the base: the first command that is due is queued, and a free value is used; if
nothing is due, the base goes on by half a millisecond, and nothing else changes but what the transmitter sends and the count of
frames that an operated restart waits for. -/
def Obligations.StepTakesFrontOrTicks : Prop :=
  (∀ (s : State) (i : Instr) (rest : List Instr), s.pending = i :: rest → step s = exec i (s.setPending rest)) ∧
  (∀ s : State, s.pending = [] →
      (s.due = [] → ∃ t, step s = .next t ∧ t.now = s.now + 1 ∧ t.pending = [] ∧ t.nextSecond = s.nextSecond ∧
        t.free = s.free ∧ SamePath s t ∧ SameDrive s t ∧ SamePower s t ∧ SameLogs s t ∧ SameArrays s t ∧
        t.cmd = { s.cmd with restartAfter := t.cmd.restartAfter } ∧
        t.links = { s.links with tx := t.links.tx, txProgress := t.links.txProgress }) ∧
      (∀ i rest, s.due = i :: rest → step s = .next ((s.setPending [i]).setFree (s.free + 1))))

/-- Every command has an effect in every state, and none touches the queue of the commands that wait; an expiry of a timer that
does not run changes nothing. Both are the model's own convention (log 2). -/
def Obligations.EveryCommandCompletes : Prop :=
  (∀ (i : Instr) (s : State), ∃ t, exec i s = .next t ∧ t.pending = s.pending) ∧
  (∀ (i : Instr) (s : State), timerOf s i = some none → exec i s = .next s)

/-! ## The sample path (spec/01) -/

/-- R2, R1, R14, R12, R10: a SAMPLE frame in ABSENT or STALE starts a new run whatever its number. R3: so does one in FILLING or
VALID that is 4 to 127 numbers late. -/
def Obligations.SampleFrameStartsRun : Prop :=
  ∀ (f : SampleFrame) (s : State),
    (s.sample.stream = .absent ∨ s.sample.stream = .stale ∨ (s.sample.stream = .filling ∨ s.sample.stream = .valid) ∧
      ∃ e, s.sample.expected = some e ∧ 4 ≤ seqDelta f.seq e ∧ seqDelta f.seq e ≤ 127) → s.nothingPending →
    ∃ t, exec (.sampleFrame f) s = .next t ∧
      t.sample.stream = .filling ∧ t.sample.run = 1 ∧ t.sample.phase = s.sample.phase ∧
      t.sample.expected = some (f.seq + 1) ∧ t.sample.last = frameSamples f ∧
      t.sample.lastStatus = some (sampleStatus f.status) ∧ t.sample.absence = startAt s.now 5 ∧ t.sample.sensorLoss = none ∧
      t.sample.view = nextView s.sample.view (rawPosition (sampleStatus f.status)) ∧
      t.mag.windows = (frameSamples f).map (fun x => x :: List.replicate 31 0) ∧ t.mag.sums = (frameSamples f).map square ∧
      t.mag.clip = (sampleStatus f.status).clip ∧ t.mag.mags = s.mag.mags ∧ t.mag.evalCount = s.mag.evalCount ∧
      t.supply = s.supply ∧ t.cmd = s.cmd ∧ SameClock s t

/-- R5, R15, R12: the 32nd instant of a run, and each eighth one in VALID, is an evaluation instant: the magnitudes are the
roots of the mean squares, the count rises by one and the clip marks are cleared. R20, R41: the Overcurrent Unit evaluates the
new magnitudes once the restore is complete (said here for a switch that reads closed throughout, which records nothing). R45:
the stream's change to VALID takes the sequence out of INIT where the view has settled; that it does so before the outputs of that
instant's evaluation are taken is log 52's choice. -/
def Obligations.EvaluationInstant : Prop :=
  ∀ (f : SampleFrame) (s : State),
    (s.sample.stream = .filling ∧ s.sample.run = 31 ∨ s.sample.stream = .valid ∧ s.sample.phase = 7) →
    s.sample.expected = some f.seq → s.nothingPending →
    ∃ t, exec (.sampleFrame f) s = .next t ∧
      t.sample.stream = .valid ∧ t.sample.phase = 0 ∧ t.sample.expected = some (f.seq + 1) ∧
      t.mag.windows = Channels.zip pushWindow s.mag.windows (frameSamples f) ∧
      t.mag.sums = Channels.zip3 pushSum s.mag.sums s.mag.windows (frameSamples f) ∧
      t.mag.mags = (Channels.zip3 pushSum s.mag.sums s.mag.windows (frameSamples f)).map magnitude ∧
      t.mag.evalCount = s.mag.evalCount + 1 ∧ t.mag.clip = .all false ∧
      (s.sample.stream = .valid → s.sample.view = .closed → rawPosition (sampleStatus f.status) = some .closed →
        t.oc = if s.supply.restoreMark then s.oc.stepped (s.evalInput t.mag.mags.currents) else s.oc) ∧
      (s.sample.stream = .filling → s.seq.state = .init → s.supply.restoreMark = true → s.seq.pendingGroup = none →
        s.act.supervision = .none →
        (s.sample.view = .closed → rawPosition (sampleStatus f.status) = some .closed →
          t.seq.state ≠ .init ∧ t.seq.recorded = some .closed) ∧
        (s.sample.view = .opened → rawPosition (sampleStatus f.status) = some .opened →
          LockedOut .restart s t ∧ t.seq.recorded = some .opened)) ∧
      t.supply = s.supply ∧ t.cmd = s.cmd ∧ SameClock s t

/-- R3, R4, R5: a frame after a gap of one to three in FILLING or VALID: the last sample fills the missing instants, then the frame
is accepted. Each instant counts in the run, or in the phase; the one that brings the run to 32 makes the stream VALID, and that one
or the one that brings the phase to 8 is an evaluation instant, be it a fill or the frame (R15, and R20 for a switch that reads
closed throughout). -/
def Obligations.ShortGapIsFilled : Prop :=
  ∀ (f : SampleFrame) (s : State) (e : Byte) (d : Nat), (s.sample.stream = .filling ∨ s.sample.stream = .valid) →
    s.sample.expected = some e → seqDelta f.seq e = d → 1 ≤ d → d ≤ 3 → s.nothingPending →
    let instants := List.replicate d s.sample.last ++ [frameSamples f]
    let after (k : Nat) := s.mag.after (instants.take k)
    ∃ t, exec (.sampleFrame f) s = .next t ∧
      t.sample.expected = some (f.seq + 1) ∧ t.sample.last = frameSamples f ∧ t.sample.absence = startAt s.now 5 ∧
      t.sample.view = nextView s.sample.view (rawPosition (sampleStatus f.status)) ∧
      t.mag.windows = (after (d + 1)).1 ∧ t.mag.sums = (after (d + 1)).2 ∧
      (s.sample.stream = .valid → s.sample.phase + d + 1 < 8 →
        t.sample.stream = .valid ∧ t.sample.phase = s.sample.phase + d + 1 ∧ t.mag.mags = s.mag.mags ∧ t.mag.evalCount = s.mag.evalCount) ∧
      (s.sample.stream = .filling → s.sample.run + d + 1 < 32 →
        t.sample.stream = .filling ∧ t.sample.run = s.sample.run + d + 1 ∧ t.sample.phase = s.sample.phase ∧ t.mag.mags = s.mag.mags ∧
        t.mag.evalCount = s.mag.evalCount) ∧
      (∀ k, 1 ≤ k → k ≤ d + 1 →
        (s.sample.stream = .valid ∧ s.sample.phase + k = 8 ∨ s.sample.stream = .filling ∧ s.sample.run + k = 32) →
        t.sample.stream = .valid ∧ t.sample.phase = d + 1 - k ∧ t.mag.mags = (after k).2.map magnitude ∧
        t.mag.evalCount = s.mag.evalCount + 1 ∧
        (s.sample.stream = .valid → s.sample.view = .closed → rawPosition (sampleStatus f.status) = some .closed →
          t.oc = if s.supply.restoreMark then s.oc.stepped (s.evalInput t.mag.mags.currents) else s.oc)) ∧
      t.supply = s.supply ∧ t.cmd = s.cmd ∧ SameClock s t

/-- Position views that change at an in-order frame in VALID, short of the next evaluation instant, with nothing pending and no
test running. R60: an external open. R61, R33, R46: an external close. R45: the passage out of INIT. R64: MECH_FAIL left for
LOCKOUT. R50: the open confirms of STARTUP, MANUAL and SENSOR trips. R79, R54, R56: the close confirm. -/
def Obligations.ViewChangesTaken : Prop :=
  ∀ (f : SampleFrame) (s : State), s.sample.stream = .valid → s.sample.phase + 1 < 8 → s.sample.expected = some f.seq →
    s.nothingPending → s.seq.pendingGroup = none → s.battery.testState = .idle → NothingToGrant s →
    let raw := rawPosition (sampleStatus f.status)
    let rest (t : State) : Prop :=
      t.sample.stream = .valid ∧ t.mag.mags = s.mag.mags ∧ t.mag.evalCount = s.mag.evalCount ∧ SamePower s t ∧ SameArrays s t ∧
      t.cmd = s.cmd ∧ t.links = s.links ∧ SameClock s t
    let lockoutReport (reason : LockoutReason) : ReportQueue :=
      (s.reports.enter 6 s.cmd.seconds (.lockout reason s.seq.s s.governing s.seq.state .opened)).1
    (raw = some .opened → s.sample.view ≠ .opened → s.act.trip = false → s.act.close = false → s.act.supervision = .none →
      ((s.seq.state = .idle ∨ s.seq.state = .timing ∨ s.seq.state = .reclaim) →
        ∃ t, exec (.sampleFrame f) s = .next t ∧ t.sample.view = .opened ∧ LockedOut .external s t ∧ RecordedOpen s t ∧
          t.act = s.act ∧ t.faults.openRecord = none ∧
          (s.faults.openRecord = none → t.faults = s.faults ∧ t.reports = lockoutReport .external) ∧
          (∀ o, s.faults.openRecord = some o →
            t.faults.ring = keepRecord s.faults.ring (o.close s.faults.nextNumber .opened s.cmd.seconds)) ∧ rest t) ∧
      (s.seq.state = .init → s.supply.restoreMark = true →
        ∃ t, exec (.sampleFrame f) s = .next t ∧ t.sample.view = .opened ∧ LockedOut .restart s t ∧ RecordedOpen s t ∧
          t.act = s.act ∧ t.faults = s.faults ∧ t.reports = lockoutReport .restart ∧ rest t) ∧
      (s.seq.state = .mechFail →
        ∃ t, exec (.sampleFrame f) s = .next t ∧ t.sample.view = .opened ∧ LockedOut .mech s t ∧ RecordedOpen s t ∧
          t.act = s.act ∧ t.faults = s.faults ∧ t.reports = lockoutReport .mech ∧ rest t)) ∧
    (raw = some .opened → s.sample.view ≠ .opened → s.seq.state = .tripping → s.act.supervision = .tripWait →
      let confirmed (reason : LockoutReason) : Prop :=
        ∃ t, exec (.sampleFrame f) s = .next t ∧ t.sample.view = .opened ∧ LockedOut reason s t ∧ RecordedOpen s t ∧
          t.act = { s.act with confirm := .stopped, supervision := .none, retry := false } ∧ rest t
      (s.seq.tripKind = .startup → confirmed .restart) ∧ (s.seq.tripKind = .manual → confirmed .manual) ∧
      (s.seq.tripKind = .sensor → confirmed .sensor)) ∧
    (raw = some .closed → s.sample.view ≠ .closed → s.act.trip = false → s.act.close = false → s.act.supervision = .none →
      ((s.seq.state = .lockout ∨ s.seq.state = .dead) →
        ∃ t, exec (.sampleFrame f) s = .next t ∧ t.sample.view = .closed ∧ EnteredIdle s t ∧ ClosedByHand s t ∧
          t.act = s.act ∧ t.reports = s.reports ∧ rest t) ∧
      (s.seq.state = .init → s.supply.restoreMark = true →
        ∃ t, exec (.sampleFrame f) s = .next t ∧ t.sample.view = .closed ∧ EnteredIdle s t ∧ t.seq.recorded = some .closed ∧
          t.oc = s.oc ∧ t.act = s.act ∧ t.reports = s.reports ∧ rest t)) ∧
    (raw = some .closed → s.sample.view ≠ .closed → s.seq.state = .closing → s.act.supervision = .closeWait →
      s.act.heldTrip = false →
      ∃ t, exec (.sampleFrame f) s = .next t ∧ t.sample.view = .closed ∧
        t.act = { s.act with confirm := .stopped, supervision := .none, close := false, closeTimer := none } ∧
        (s.seq.closeKind = .reclose →
          t.seq.state = .reclaim ∧ t.seq.reclaimCause = .reclose ∧ t.seq.s = s.seq.s ∧ t.seq.latched = s.seq.latched ∧
          t.seq.recorded = some .closed ∧ t.oc = s.oc ∧
          (s.oc.active = false → t.seq.reclaim = startAt s.now (sec (reclaimTime s.governingTable)) ∧ t.faults = s.faults) ∧
          (s.oc.active = true → t.seq.reclaim = none ∧ t.faults.openRecord.isSome = true)) ∧
        (s.seq.closeKind = .manual → EnteredIdle s t ∧ ClosedByHand s t) ∧ t.reports = s.reports ∧ rest t)

/-- R6, R8, R83: the absence timer's expiry makes the stream STALE, holds what the rule holds, starts the sensor-loss timer at
the Unit table's length and enters a class 6 SENSOR report. R11, R86: the disagree timer's expiry makes the view UNKNOWN and
enters a class 7 MECH report; no block but the Sample Interface changes its state. -/
def Obligations.AbsenceAndDisagreeExpire : Prop :=
  (∀ (s : State) (c : Countdown), s.sample.absence = some c → NothingToGrant s →
      ∃ t, exec .absenceTimerExpiry s = .next t ∧
        t.sample = { s.sample with
          stream := .stale, absence := none, disagree := none,
          sensorLoss := startAt (max s.now c.due) (msec (100 * sensorLossTime s.unit)) } ∧
        t.mag = s.mag ∧ t.oc = s.oc ∧ t.seq = s.seq ∧
        t.act = { s.act with confirm := s.act.confirm.suspend (max s.now c.due) } ∧
        t.reports = (s.reports.enter 6 s.cmd.seconds
          (.sensor .streamStale s.sample.lastAccepted s.sample.view s.sample.stream 0)).1 ∧
        t.faults = s.faults ∧ SamePower s t ∧ SameArrays s t ∧ MovedTo c.due s t) ∧
  (∀ (s : State) (c : Countdown), s.sample.disagree = some c → NothingToGrant s →
      ∃ t, exec .disagreeTimerExpiry s = .next t ∧ t.sample = { s.sample with view := .unknown, disagree := none } ∧
        t.mag = s.mag ∧ t.oc = s.oc ∧ SameDrive s t ∧
        t.reports = (s.reports.enter 7 s.cmd.seconds (.mech .positionUnknown s.seq.state s.seq.s .unknown)).1 ∧
        t.faults = s.faults ∧ SamePower s t ∧ SameArrays s t ∧ MovedTo c.due s t)

/-- R7, R8, R63, R84: the sensor-loss timer expires in STALE with no confirm awaited. With the action HOLD, or outside
IDLE, TIMING and RECLAIM, only the report follows; with the action TRIP in those states a trip of kind SENSOR starts, where
no latch and no pulse stands against it. -/
def Obligations.SensorLossActs : Prop :=
  ∀ (s : State) (c : Countdown), s.sample.sensorLoss = some c → s.act.supervision = .none →
    ((sensorLossTrips s.unit = false ∨
        s.seq.state ≠ .idle ∧ s.seq.state ≠ .timing ∧ s.seq.state ≠ .reclaim) → NothingToGrant s →
      ∃ t, exec .sensorLossTimerExpiry s = .next t ∧ t.sample = { s.sample with sensorLoss := none } ∧
        t.mag = s.mag ∧ t.oc = s.oc ∧ SameDrive s t ∧
        t.reports = (s.reports.enter 6 s.cmd.seconds
          (.sensor .sensorLoss s.sample.lastAccepted s.sample.view .stale (sensorLossTime s.unit))).1 ∧
        t.faults = s.faults ∧ SamePower s t ∧ SameArrays s t ∧ MovedTo c.due s t) ∧
    (sensorLossTrips s.unit = true → (s.seq.state = .idle ∨ s.seq.state = .timing ∨ s.seq.state = .reclaim) →
      s.sample.stream = .stale → s.act.latch = false → s.act.trip = false → s.act.close = false → s.nothingPending → NothingToGrant s →
      ∃ t, exec .sensorLossTimerExpiry s = .next t ∧ t.sample.stream = .stale ∧ t.sample.sensorLoss = none ∧
        t.mag = s.mag ∧ t.oc = s.oc ∧ t.seq.state = .tripping ∧ t.seq.tripKind = .sensor ∧ t.seq.s = s.seq.s ∧
        t.seq.latched = some s.governing ∧ t.seq.reclaim = none ∧
        t.act.trip = true ∧ t.act.supervision = .tripWait ∧
        t.act.tripTimer = startAt (max s.now c.due) (msec (tripPulseWidth s.unit)) ∧
        t.act.confirm = .suspended (msec (tripConfirmLimit s.unit)) 0 ∧ t.act.close = false ∧
        t.faults = s.faults ∧ t.supply = s.supply ∧ t.tags = s.tags ∧ MovedTo c.due s t)

/-- R15: the magnitude of a running sum of 32 squares is the largest integer whose square does not exceed the truncated
mean square. -/
def Obligations.MagnitudeIsFloorRoot : Prop :=
  ∀ sum : Nat, sum / 32 < 2 ^ 30 →
    magnitude sum * magnitude sum ≤ sum / 32 ∧ sum / 32 < (magnitude sum + 1) * (magnitude sum + 1)

/-- R14, R25, R30, R117, R119, R120: from every state, reachable or not, in which each holds, a step keeps W the exact sum of
the squares of its window's 32 samples; keeps accumulators, evaluation counts and high-set counters in their ranges; and
keeps Q from passing the Qmax of the active BATTERY table. -/
def Obligations.RangesKept : Prop :=
  (∀ s t : State, WindowsExact s → step s = .next t → WindowsExact t) ∧
  (∀ s t : State, ElementsInRange s → step s = .next t → ElementsInRange t) ∧
  (∀ s t : State, ChargeBounded s → step s = .next t → ChargeBounded t)

/-- R175, R44, R140, R16, R17, R128: the whole second: the counts, the METERING frame of a stream that is not VALID, and the try of
a scheduled test with the new count. That the METERING frame is handed before a CHARGER frame of the test is log 25's order. -/
def Obligations.WholeSecondCounts : Prop :=
  ∀ s : State, NothingToGrant s →
    let sent := (s.advanceTo s.nextSecond).links
    ∃ t, exec .wholeSecond s = .next t ∧ t.now = max s.now s.nextSecond ∧ t.nextSecond = s.nextSecond + 2000 ∧
      t.cmd.seconds = s.cmd.seconds + 1 ∧ t.cmd.slot = s.cmd.slot ∧ t.cmd.selectTimer = s.cmd.selectTimer ∧
      t.cmd.restartMark = s.cmd.restartMark ∧ t.cmd.deferredClose = s.cmd.deferredClose ∧
      t.seq = { s.seq with openClock := if s.seq.openClockRuns then min 65535 (s.seq.openClock + 1) else s.seq.openClock } ∧
      t.reports = (if s.supply.restoreMark then
          { s.reports with budget := min (airtimeCeiling s.unit : Int) (s.reports.budget + refillRate s.unit) }
        else s.reports) ∧
      t.mag = { s.mag with wholeSecond := decide (s.sample.stream = .valid ∨ s.supply.power = .cutoff) } ∧
      (∃ charger : List OutFrame,
        t.links.tx = sent.tx ++
          (if s.sample.stream ≠ .valid ∧ s.supply.power ≠ .cutoff ∧ sent.waitingBytes < 1024 then [s.meteringFrame] else []) ++ charger ∧
        (t.battery.testState = s.battery.testState → charger = [])) ∧
      ScheduledTry s t (s.cmd.seconds + 1) (max s.now s.nextSecond) ∧
      t.sample = s.sample ∧ t.oc = s.oc ∧ t.act = s.act ∧ t.supply = s.supply ∧ t.faults = s.faults ∧ SameArrays s t ∧
      t.free = s.free ∧ t.pending = s.pending

/-! ## The overcurrent elements (spec/02) -/

/-- R22: the multiple of pickup in sixteenths. R23: the pickup state after an evaluation, for each multiple of pickup, from
DROPPED and from PICKED. R25, R27: what an evaluation adds, holds or resets. R21, R30, R32, R35: the unit after an evaluation:
each accumulator stepped at its own multiple, the high-set counters, the hot-line over flag and the activity. -/
def Obligations.ElementsAfterEvaluation : Prop :=
  (∀ irms peff : Nat, 0 < peff →
      multiple irms peff ≤ 640 ∧ (16 * irms < 640 * peff →
        multiple irms peff * peff ≤ 16 * irms ∧ 16 * irms < (multiple irms peff + 1) * peff) ∧
      (640 * peff ≤ 16 * irms → multiple irms peff = 640)) ∧
  (∀ (a : Accumulator) (curve : Table) (m : Nat),
      (16 ≤ m → (a.step curve m).picked = true) ∧ (m ≤ 14 → (a.step curve m).picked = false) ∧
      (m = 15 → (a.step curve m).picked = a.picked)) ∧
  (∀ (a : Accumulator) (curve : Table) (m : Nat),
      (16 ≤ m → (a.step curve m).value = min 16777216 (a.value + rateAt (curvePoints curve) m) ∧
        (a.step curve m).count = min 65535 (a.count + 1)) ∧
      (m = 15 → a.picked = true → a.step curve m = a) ∧
      ((m ≤ 14 ∨ m = 15 ∧ a.picked = false) →
        (a.step curve m).value = (if curveDecays curve then a.value - resetRate curve else 0) ∧ (a.step curve m).count = 0)) ∧
  (∀ (u : OvercurrentUnit) (i : EvalInput),
      let cl8 := if u.coldOpen then coldLoadMultiplier i.group else 8
      let pp := phasePickup i.group * cl8 / 8
      (u.stepped i).accs =
        ⟨u.accs.a.step i.phaseCurve (multiple i.mags.a pp), u.accs.b.step i.phaseCurve (multiple i.mags.b pp),
         u.accs.c.step i.phaseCurve (multiple i.mags.c pp), u.accs.n.step i.groundCurve (multiple i.mags.n (groundPickup i.group * cl8 / 8))⟩ ∧
      (u.stepped i).highSetPhase =
        (if phaseHighSet i.group ≠ 0 ∧
            (phaseHighSet i.group ≤ i.mags.a ∨ phaseHighSet i.group ≤ i.mags.b ∨ phaseHighSet i.group ≤ i.mags.c) then
          min 255 (u.highSetPhase + 1) else 0) ∧
      (u.stepped i).highSetGround =
        (if groundHighSet i.group ≠ 0 ∧ groundHighSet i.group ≤ i.mags.n then min 255 (u.highSetGround + 1) else 0) ∧
      ((u.stepped i).hotLineOver = true ↔ i.hotLine = true ∧
        (hotLinePhase i.group ≤ i.mags.a ∨ hotLinePhase i.group ≤ i.mags.b ∨ hotLinePhase i.group ≤ i.mags.c ∨
          hotLineGround i.group ≤ i.mags.n)) ∧
      ((u.stepped i).active = false ↔
        (u.stepped i).accs.a.picked = false ∧ (u.stepped i).accs.b.picked = false ∧ (u.stepped i).accs.c.picked = false ∧
          (u.stepped i).accs.n.picked = false ∧ (u.stepped i).highSetPhase = 0 ∧ (u.stepped i).highSetGround = 0 ∧
          (u.stepped i).hotLineOver = false) ∧
      (u.stepped i).coldOpen = u.coldOpen ∧ (u.stepped i).coldTimer = u.coldTimer)

/-- R24, R156: on a valid CURVE image the rate is the last rate at and beyond the last breakpoint, and between two breakpoints
the truncated straight line; and it never falls as the multiple rises. -/
def Obligations.CurveRates : Prop :=
  (∀ t : Table, imageValid 7 t = true →
      (∀ m, pointMultiple t (pointCount t - 1) ≤ m → rateAt (curvePoints t) m = pointRate t (pointCount t - 1)) ∧
      (∀ m k, k + 1 < pointCount t → pointMultiple t k ≤ m → m < pointMultiple t (k + 1) →
        rateAt (curvePoints t) m = pointRate t k +
          (pointRate t (k + 1) - pointRate t k) * (m - pointMultiple t k) / (pointMultiple t (k + 1) - pointMultiple t k))) ∧
  (∀ (t : Table) (m n : Nat), imageValid 7 t = true → 16 ≤ m → m ≤ n → rateAt (curvePoints t) m ≤ rateAt (curvePoints t) n)

/-- R25, R26: from a cleared accumulator, after n evaluations at one multiple of 16 or more, the value is n times the rate
up to full scale, and the element operates exactly when that reaches full scale and the minimum response is over. -/
def Obligations.ConstantCurrentOperateTime : Prop :=
  ∀ (curve : Table) (m n : Nat), 16 ≤ m → 0 < n →
    let a := (fun x : Accumulator => x.step curve m)^[n] clearAcc
    a.value = min 16777216 (n * rateAt (curvePoints curve) m) ∧ a.picked = true ∧ a.count = min 65535 n ∧
    (a.met curve = true ↔ 16777216 ≤ n * rateAt (curvePoints curve) m ∧ minimumResponse curve ≤ min 65535 n)

/-- R34: the cold-load window closes at the expiry of its timer. R53, R58: the energy wait ends in LOCKOUT with reason ENERGY,
with its LOCKOUT report. R56, R46, R68: the reclaim timer's expiry with the elements QUIET leads to IDLE with s 0, and after a
reclose to a class 3 RECLOSE_OK report. R67, R161, R164: both entries apply a pending group and a PENDING commit first, and the
LOCKOUT and RECLOSE_OK reports carry the group of the sequence that has ended. -/
def Obligations.SequenceTimersEnd : Prop :=
  (∀ (s : State) (c : Countdown), s.oc.coldTimer = some c → NothingToGrant s →
      ∃ t, exec .coldLoadTimerExpiry s = .next t ∧ t.oc = { s.oc with coldOpen := false, coldTimer := none } ∧
        t.sample = s.sample ∧ t.mag = s.mag ∧ SameDrive s t ∧ SamePower s t ∧ SameLogs s t ∧ SameArrays s t ∧ MovedTo c.due s t) ∧
  (∀ (s : State) (c : Countdown), s.seq.energyWait = some c → s.seq.state = .dead → NothingToGrant s →
      ∃ t, exec .energyWaitTimerExpiry s = .next t ∧
        t.seq = { s.seq with
          state := .lockout, reason := some .energy, latched := none, dead := none, energyWait := none, reclaim := none, pendingGroup := none } ∧
        PendingTaken s t ∧
        t.reports = { (s.afterGroupReport.enter 6 s.cmd.seconds (.lockout .energy s.seq.s s.governing .dead s.sample.view)).1 with
          budget := t.reports.budget } ∧
        (s.nothingPending → s.seq.pendingGroup = none → t.store = s.store) ∧
        t.oc = s.oc ∧ t.act = s.act ∧ SamePower s t ∧ t.faults = s.faults ∧ t.tags = s.tags ∧ MovedTo c.due s t) ∧
  (∀ (s : State) (c : Countdown), s.seq.reclaim = some c → s.seq.state = .reclaim → s.oc.active = false → NothingToGrant s →
      ∃ t, exec .reclaimTimerExpiry s = .next t ∧
        t.seq = { s.seq with
          state := .idle, s := 0, latched := none, dead := none, energyWait := none, reclaim := none, pendingGroup := none } ∧
        PendingTaken s t ∧
        (s.seq.reclaimCause = .reclose → s.seq.pendingGroup = none →
          t.reports = { (s.reports.enter 3 s.cmd.seconds (.recloseOk s.seq.s s.governing (reclaimTime s.governingTable))).1 with
            budget := t.reports.budget }) ∧
        (∀ g, s.seq.reclaimCause = .reclose → s.seq.pendingGroup = some g →
          t.reports = { ((s.reports.enter 3 s.cmd.seconds (.recloseOk s.seq.s s.governing (reclaimTime s.governingTable))).1.enter 4
            s.cmd.seconds (.settings (.groupApplied g s.store.activeGroup))).1 with budget := t.reports.budget }) ∧
        (s.seq.reclaimCause ≠ .reclose → t.reports = { s.afterGroupReport with budget := t.reports.budget }) ∧
        (s.nothingPending → s.seq.pendingGroup = none → t.store = s.store) ∧
        t.oc = s.oc ∧ t.act = s.act ∧ SamePower s t ∧ t.faults = s.faults ∧ t.tags = s.tags ∧ MovedTo c.due s t)

/-! ## The reclose sequence (spec/03) -/

/-- R47, R57, R49, R70, R71: an evaluation in IDLE, TIMING or RECLAIM that meets an element starts a PROTECTION trip, with s
raised by one, where no latch, pulse or confirm stands against it; one that meets none and changes no activity leaves the sequence
and the actuator as they are. R46, R56, R147: a pickup leads from IDLE to TIMING and stops the reclaim timer. R48, R57: an all-dropped
event makes the coordination advance that is due, or else ends TIMING in IDLE and restarts the reclaim timer. R50, R51, R58, R150: the
open confirm of a PROTECTION trip, from an in-order frame with a clean OPEN
reading short of the next evaluation instant. -/
def Obligations.ProtectionTripsAndConfirms : Prop :=
  (∀ (f : SampleFrame) (s : State), s.sample.stream = .valid → s.sample.phase = 7 → s.sample.expected = some f.seq →
      s.sample.view = .closed → rawPosition (sampleStatus f.status) = some .closed → s.supply.restoreMark = true →
      s.nothingPending → NothingToGrant s →
      let mags := (Channels.zip3 pushSum s.mag.sums s.mag.windows (frameSamples f)).map magnitude
      let o := s.oc.evaluate (s.evalInput mags.currents)
      (o.elements.any = true → (s.seq.state = .idle ∨ s.seq.state = .timing ∨ s.seq.state = .reclaim) →
        s.seq.s < opsToLockout s.governingTable → s.act.latch = false → s.act.trip = false → s.act.close = false →
        s.act.supervision = .none →
        ∃ t, exec (.sampleFrame f) s = .next t ∧ t.oc = o.unit ∧ t.seq.state = .tripping ∧ t.seq.tripKind = .protection ∧
          t.seq.s = s.seq.s + 1 ∧ t.seq.latched = some s.governing ∧ t.seq.reclaim = none ∧ t.act.trip = true ∧
          t.act.tripTimer = startAt s.now (msec (tripPulseWidth s.unit)) ∧ t.act.supervision = .tripWait ∧
          t.act.retry = false ∧ t.act.confirm = .running ⟨msec (tripConfirmLimit s.unit), s.now + msec (tripConfirmLimit s.unit)⟩ ∧
          t.act.close = false ∧ t.supply = s.supply ∧ t.tags = s.tags ∧ t.cmd = s.cmd ∧ SameClock s t) ∧
      (o.elements.any = false → o.unit.active = s.oc.active →
        ∃ t, exec (.sampleFrame f) s = .next t ∧ t.oc = o.unit ∧ SameDrive s t ∧ SamePower s t ∧ t.reports = s.reports ∧
          t.tags = s.tags ∧ t.cmd = s.cmd ∧ SameClock s t) ∧
      (o.elements.any = false → s.oc.active = false → o.unit.active = true → s.battery.testState = .idle →
        ∃ t, exec (.sampleFrame f) s = .next t ∧ t.oc = o.unit ∧ t.act = s.act ∧
          (s.seq.state = .idle → t.seq = { s.seq with state := .timing, latched := some s.governing }) ∧
          (s.seq.state = .reclaim → t.seq = { s.seq with reclaim := none }) ∧
          (s.seq.state ≠ .idle → s.seq.state ≠ .reclaim → t.seq = s.seq) ∧
          ((s.seq.state = .idle ∨ s.seq.state = .timing ∨ s.seq.state = .reclaim) → t.faults.openRecord.isSome = true) ∧
          SamePower s t ∧ t.reports = s.reports ∧ t.tags = s.tags ∧ t.cmd = s.cmd ∧ SameClock s t) ∧
      (o.elements.any = false → s.oc.active = true → o.unit.active = false → s.seq.pendingGroup = none →
        let advances := entryCoordinating s.governingTable (s.seq.s + 1) = true ∧ s.seq.s + 1 < s.effectiveOps
        ∃ t, exec (.sampleFrame f) s = .next t ∧ t.oc = o.unit ∧ t.act = s.act ∧
          ((s.seq.state = .timing ∨ s.seq.state = .reclaim) → advances →
            t.seq = { s.seq with
              state := .reclaim, s := s.seq.s + 1, reclaimCause := .advance, reclaim := startAt s.now (sec (reclaimTime s.governingTable)) } ∧
            t.faults.openRecord = none) ∧
          (s.seq.state = .timing → ¬ advances →
            t.seq = { s.seq with state := .idle, s := 0, latched := none, dead := none, energyWait := none, reclaim := none } ∧
            t.reports = s.reports) ∧
          (s.seq.state = .reclaim → ¬ advances →
            t.seq = { s.seq with reclaim := startAt s.now (sec (reclaimTime s.governingTable)) } ∧ t.reports = s.reports) ∧
          (s.seq.state ≠ .timing → s.seq.state ≠ .reclaim → t.seq = s.seq ∧ t.reports = s.reports) ∧
          SamePower s t ∧ t.tags = s.tags ∧ t.cmd = s.cmd ∧ SameClock s t)) ∧
  (∀ (f : SampleFrame) (s : State), s.sample.stream = .valid → s.sample.phase + 1 < 8 → s.sample.expected = some f.seq →
      rawPosition (sampleStatus f.status) = some .opened → s.sample.view ≠ .opened → s.seq.state = .tripping →
      s.seq.tripKind = .protection → s.act.supervision = .tripWait → s.nothingPending → NothingToGrant s →
      ∃ t, exec (.sampleFrame f) s = .next t ∧ t.sample.view = .opened ∧ t.seq.recorded = some .opened ∧
        t.oc = clearedOvercurrent ∧ t.act.supervision = .none ∧ t.act.confirm = .stopped ∧ t.act.trip = s.act.trip ∧
        t.faults.openRecord = none ∧ t.seq.s = s.seq.s ∧
        (s.tags.isEmpty = false → t.seq.state = .lockout ∧ t.seq.reason = some .tag ∧ t.seq.latched = none) ∧
        (s.tags.isEmpty = true → s.seq.s < opsToLockout s.governingTable →
          t.seq.state = .dead ∧ t.seq.dead = startAt s.now (msec (10 * deadTime s.governingTable s.seq.s)) ∧
          t.seq.latched = s.seq.latched) ∧
        (s.tags.isEmpty = true → opsToLockout s.governingTable ≤ s.seq.s →
          t.seq.state = .lockout ∧ t.seq.reason = some .operations ∧ t.seq.latched = none) ∧
        t.supply = s.supply ∧ t.tags = s.tags ∧ t.cmd = s.cmd ∧ SameClock s t)

/-- R52, R53, R76, R78: the dead timer's expiry with no pulse active: by the first failing item of close permission. -/
def Obligations.DeadTimerRecloses : Prop :=
  ∀ (s : State) (c : Countdown), s.seq.dead = some c → s.seq.state = .dead → s.act.trip = false → s.nothingPending →
    s.seq.pendingGroup = none → NothingToGrant s →
    ∃ t, exec .deadTimerExpiry s = .next t ∧ t.seq.dead = none ∧
      (s.permission = none →
        t.seq.state = .closing ∧ t.seq.closeKind = .reclose ∧ t.seq.s = s.seq.s ∧ t.seq.tripRequested = false ∧
        t.act.close = true ∧ t.act.closeTimer = startAt (max s.now c.due) (msec (closePulseWidth s.unit)) ∧
        t.act.supervision = .closeWait ∧ t.act.trip = false ∧ t.reports = s.reports) ∧
      (s.permission = some .tag → t.seq.state = .lockout ∧ t.seq.reason = some .tag ∧ t.act = s.act) ∧
      (s.permission = some .position → t.seq.state = .lockout ∧ t.seq.reason = some .position ∧ t.act = s.act) ∧
      (s.permission = some .mechanism → t.seq.state = (if s.sample.stream = .valid then .lockout else .mechFail) ∧ t.act = s.act) ∧
      (s.permission = some .power → t.seq.state = .lockout ∧ t.seq.reason = some .power ∧ t.act = s.act) ∧
      (s.permission = some .stream → t.seq.state = .lockout ∧ t.seq.reason = some .stream ∧ t.act = s.act) ∧
      (s.permission = some .tripEnergy ∨ s.permission = some .closeEnergy →
        (s.seq.energyWait = none → closeEnergyWait s.unit = 0 →
          t.seq.state = .lockout ∧ t.seq.reason = some .energy ∧ t.act = s.act) ∧
        (s.seq.energyWait = none → closeEnergyWait s.unit ≠ 0 →
          t.seq.state = .dead ∧ t.seq.energyWait = startAt (max s.now c.due) (sec (closeEnergyWait s.unit)) ∧ t.act = s.act)) ∧
      t.mag = s.mag ∧ t.supply = s.supply ∧ t.battery = s.battery ∧ t.tags = s.tags ∧ MovedTo c.due s t

/-- R164, R67, R66: GROUP_SELECT at rest makes the group active, which asks for a state-record write where it changes;
while a sequence is under way the group is pending. The refusals, in their order (R164, R167), change nothing but the links and
the slot of the holder; that BUSY comes ahead of every other check is log 31's reading. -/
def Obligations.GroupSelectTakesGroup : Prop :=
  (∀ (r : Req) (group : Byte) (s : State), NothingToGrant s →
    let refused (c : ResultCode) : Prop :=
      ∃ t, exec (.groupSelect r group) s = .next t ∧ Handed (responseFrame r.id 9 c []) s t ∧ OnlyLinksAndCommand s t
    (s.supply.restoreMark = false → refused .busy) ∧
    (s.supply.restoreMark = true → 4 ≤ group.toNat → refused .outOfRange) ∧
    (s.supply.restoreMark = true → group.toNat < 4 → s.remoteRefused r = true → refused .remoteDisabled)) ∧
  ∀ (r : Req) (g : Fin 4) (s : State), s.supply.restoreMark = true → s.remoteRefused r = false →
    ∃ t, exec (.groupSelect r (BitVec.ofNat 8 g)) s = .next t ∧
      (s.sequenceRests = true →
        t.store.activeGroup = g ∧ t.seq = s.seq ∧ Handed (responseFrame r.id 9 .ok []) s t ∧
        (g ≠ s.store.activeGroup → t.store.recordWaiting.isSome = true ∨ t.store.inFlight.isSome = true)) ∧
      (s.sequenceRests = false →
        t.seq = { s.seq with pendingGroup := some g } ∧ t.store.activeGroup = s.store.activeGroup ∧
        Handed (responseFrame r.id 9 .pending []) s t) ∧
      t.store.tables = s.store.tables ∧ t.store.nv = s.store.nv ∧ SamePath s t ∧ t.act = s.act ∧ SamePower s t ∧
      SameLogs s t ∧ SameClock s t

/-! ## The actuator and close permission (spec/04) -/

/-- R76: the seven items of close permission, and the order in which the first failing one is answered; and the partial check
of items 1 to 3, which answers as the full one does where one of them fails. -/
def Obligations.PermissionOrder : Prop :=
  ∀ s : State,
    let item1 := s.tags.isEmpty = true
    let item2 := s.sample.view = .opened
    let item3 := s.act.latch = false
    let item4 := s.supply.power = .normal ∨ s.supply.power = .carry
    let item5 := s.supply.freshness = .fresh
    let item6 := tripReadyLevel s.unit ≤ s.supply.meas.tripCap
    let item7 := closeReadyLevel s.unit ≤ s.supply.meas.closeCap
    (s.permission = none ↔ item1 ∧ item2 ∧ item3 ∧ item4 ∧ item5 ∧ item6 ∧ item7) ∧
    (¬ item1 → s.permission = some .tag) ∧
    (item1 → ¬ item2 → s.permission = some .position) ∧
    (item1 → item2 → ¬ item3 → s.permission = some .mechanism) ∧
    (item1 → item2 → item3 → ¬ item4 → s.permission = some .power) ∧
    (item1 → item2 → item3 → item4 → ¬ item5 → s.permission = some .stream) ∧
    (item1 → item2 → item3 → item4 → item5 → ¬ item6 → s.permission = some .tripEnergy) ∧
    (item1 → item2 → item3 → item4 → item5 → item6 → ¬ item7 → s.permission = some .closeEnergy) ∧
    (s.partialPermission = none ↔ item1 ∧ item2 ∧ item3) ∧
    (¬ (item1 ∧ item2 ∧ item3) → s.partialPermission = s.permission)

/-- R72, R79, R81: a pulse ends at its width: its line falls. A trip held during a CLOSE pulse starts then. R77, R58: a close
that was deferred behind a trip pulse is answered at the end of that pulse: a manual close by permission, with the response to
its OPERATE; R52: a reclose. -/
def Obligations.PulsesEnd : Prop :=
  (∀ (s : State) (c : Countdown),
      (s.act.tripTimer = some c → s.act.deferred = none → NothingToGrant s →
        ∃ t, exec .tripPulseTimerExpiry s = .next t ∧ t.act = { s.act with trip := false, tripTimer := none } ∧
          t.mag = s.mag ∧ t.oc = s.oc ∧ t.seq = s.seq ∧ SamePower s t ∧ SameLogs s t ∧ SameArrays s t ∧ MovedTo c.due s t) ∧
      (s.act.closeTimer = some c → s.act.heldTrip = false → NothingToGrant s →
        ∃ t, exec .closePulseTimerExpiry s = .next t ∧ t.act = { s.act with close := false, closeTimer := none } ∧
          t.mag = s.mag ∧ t.oc = s.oc ∧ t.seq = s.seq ∧ SamePower s t ∧ SameLogs s t ∧ SameArrays s t ∧ MovedTo c.due s t) ∧
      (s.act.closeTimer = some c → s.act.heldTrip = true → NothingToGrant s →
        ∃ t, exec .closePulseTimerExpiry s = .next t ∧ t.act.close = false ∧ t.act.trip = true ∧ t.act.heldTrip = false ∧
          t.act.tripTimer = startAt (max s.now c.due) (msec (tripPulseWidth s.unit)) ∧ t.supply = s.supply ∧ t.tags = s.tags ∧
          MovedTo c.due s t)) ∧
  (∀ (s : State) (c : Countdown), s.act.tripTimer = some c → s.act.deferred = some .reclose → s.permission = none → NothingToGrant s →
      ∃ t, exec .tripPulseTimerExpiry s = .next t ∧ t.act.trip = false ∧ t.act.deferred = none ∧ t.act.close = true ∧
        t.act.supervision = .closeWait ∧ t.seq.state = .closing ∧ t.seq.closeKind = .reclose ∧ t.mag = s.mag ∧ t.oc = s.oc ∧
        SamePower s t ∧ SameLogs s t ∧ t.tags = s.tags ∧ MovedTo c.due s t) ∧
  (∀ (s : State) (c : Countdown) (r : Req), s.act.tripTimer = some c → s.act.deferred = some .manual → s.cmd.deferredClose = some r →
      NothingToGrant s →
      let answered (code : ResultCode) (t : State) : Prop :=
        t.links.tx = (s.advanceTo c.due).links.tx ++ [responseFrame r.id 11 code []] ∧ t.cmd.deferredClose = none ∧
        t.cmd.slot = s.cmd.slot ∧ t.cmd.seconds = s.cmd.seconds ∧ t.mag = s.mag ∧ t.oc = s.oc ∧ SamePower s t ∧ SameLogs s t ∧
        SameArrays s t ∧ MovedTo c.due s t
      (s.permission = none →
        ∃ t, exec .tripPulseTimerExpiry s = .next t ∧ t.act.trip = false ∧ t.act.deferred = none ∧ t.act.close = true ∧
          t.act.closeTimer = startAt (max s.now c.due) (msec (closePulseWidth s.unit)) ∧ t.act.supervision = .closeWait ∧
          t.seq.state = .closing ∧ t.seq.closeKind = .manual ∧ t.seq.s = 0 ∧ answered .ok t) ∧
      (∀ item, s.permission = some item →
        ∃ t, exec .tripPulseTimerExpiry s = .next t ∧ t.act = { s.act with trip := false, tripTimer := none, deferred := none } ∧
          t.seq = s.seq ∧ answered (permissionCode item) t))

/-- R74, R75, R64: at the trip confirm limit a second pulse starts; at the limit after it the mechanism has failed. R80: at the
close confirm limit the mechanism has failed. -/
def Obligations.ConfirmLimits : Prop :=
  (∀ (s : State) (c : Countdown), s.act.confirm = .running c → s.act.supervision = .tripWait →
      (s.act.retry = false → s.sample.stream ≠ .stale → NothingToGrant s →
        ∃ t, exec .tripConfirmLimit s = .next t ∧
          t.act = { s.act with
            retry := true, trip := true, tripTimer := startAt (max s.now c.due) (msec (tripPulseWidth s.unit)),
            confirm := .running ⟨msec (tripConfirmLimit s.unit), max s.now c.due + msec (tripConfirmLimit s.unit)⟩ } ∧
          t.mag = s.mag ∧ t.oc = s.oc ∧ t.seq = s.seq ∧ SamePower s t ∧ SameLogs s t ∧ SameArrays s t ∧ MovedTo c.due s t) ∧
      (s.act.retry = true → s.settled .opened = false → s.seq.state ≠ .idle → NothingToGrant s →
        ∃ t, exec .tripConfirmLimit s = .next t ∧ t.act.latch = true ∧ t.act.trip = false ∧ t.act.close = false ∧
          t.act.supervision = .none ∧ t.act.confirm = .stopped ∧ t.act.heldTrip = false ∧ t.seq.state = .mechFail ∧
          t.faults.openRecord = none ∧ t.supply = s.supply ∧ t.tags = s.tags ∧ MovedTo c.due s t)) ∧
  (∀ (s : State) (c : Countdown), s.act.confirm = .running c → s.act.supervision = .closeWait →
      s.settled .opened = false → s.seq.state ≠ .idle → NothingToGrant s →
      ∃ t, exec .closeConfirmLimit s = .next t ∧ t.act.latch = true ∧ t.act.trip = false ∧ t.act.close = false ∧
        t.act.supervision = .none ∧ t.act.confirm = .stopped ∧ t.act.heldTrip = false ∧ t.seq.state = .mechFail ∧
        t.faults.openRecord = none ∧ t.supply = s.supply ∧ t.tags = s.tags ∧ MovedTo c.due s t)

/-- R70, R78, R81: no step makes both coil lines active together. R75, R80, R85: once the mechanism-fault latch is set, no step
makes a coil line active. -/
def Obligations.CoilSafetyKept : Prop :=
  (∀ s t : State, PulsesApart s → step s = .next t → PulsesApart t) ∧
  (∀ s t : State, LatchHolds s → step s = .next t → LatchHolds t)

/-- R76, R82, R89: while a tag is in the table no command starts a CLOSE pulse. -/
def Obligations.TagStopsEveryClose : Prop :=
  ∀ (i : Instr) (s t : State), s.tags.isEmpty = false → s.act.close = false → exec i s = .next t → t.act.close = false

/-! ## Crew lockout (spec/05) -/

/-- R94, R95, R90: a TAG_PLACE that passes its checks enters the record in the lowest free slot, PLACING, at the time of the
counter, and a tag write is asked for; no answer is handed yet, at most CHARGER frames where the entry ends a close pulse (R82). In
DEAD the sequence goes to LOCKOUT (R65); elsewhere, with CLOSE inactive, no other block changes its state. The refusals, in
their order (R94, R98, R167), leave everything but the links and the slot of the holder as it is. That BUSY comes ahead of every
other check is log 31's reading, and the body of a refusal, the crew code with FFh and FFh for slot and state, is log 32's reading. -/
def Obligations.TagPlaceAnswers : Prop :=
  (∀ (r : Req) (crew : Word) (kind : Byte) (k : TagKind) (i : Nat) (s : State), s.supply.restoreMark = true →
      tagKindOf kind = some k → crew ≠ 0 → s.remoteRefused r = false → s.tags.find crew = none → s.tags.freeSlot = some i →
      ∃ t rec, exec (.tagPlace r crew kind) s = .next t ∧ t.tags.at i = some rec ∧ rec.crew = crew ∧ rec.kind = k ∧
        rec.origin = r.origin ∧ rec.placed = s.cmd.seconds ∧ rec.state = .placing ∧ rec.request = some r ∧
        rec.stage ≠ .none ∧ t.tags.count = s.tags.count + 1 ∧ t.tags.writeState ≠ .idle ∧ t.act.close = false ∧
        (s.seq.state = .dead → t.seq.state = .lockout ∧ t.seq.reason = some .tag) ∧
        (∃ charger, t.links = { s.links with tx := s.links.tx ++ charger } ∧ ∀ x ∈ charger, x.kind = kindCharger) ∧
        (s.act.close = false → t.links = s.links) ∧ t.cmd.deferredClose = s.cmd.deferredClose ∧ t.cmd.seconds = s.cmd.seconds ∧
        (s.act.close = false → s.seq.state ≠ .dead → SamePath s t ∧ SameDrive s t ∧ SamePower s t ∧ SameLogs s t) ∧
        t.supply = s.supply ∧ SameClock s t) ∧
  (∀ (r : Req) (crew : Word) (kind : Byte) (s : State), NothingToGrant s →
      let refused (c : ResultCode) : Prop :=
        ∃ t, exec (.tagPlace r crew kind) s = .next t ∧ OnlyLinksAndCommand s t ∧
          Handed (responseFrame r.id 12 c [hiByte crew, loByte crew, 0xFF, 0xFF]) s t
      (s.supply.restoreMark = false → refused .busy) ∧
      (s.supply.restoreMark = true → (tagKindOf kind = none ∨ crew = 0) → refused .outOfRange) ∧
      (s.supply.restoreMark = true → tagKindOf kind ≠ none → crew ≠ 0 → s.remoteRefused r = true → refused .remoteDisabled) ∧
      (s.supply.restoreMark = true → tagKindOf kind ≠ none → crew ≠ 0 → s.remoteRefused r = false →
        s.tags.find crew ≠ none → refused .tagExists) ∧
      (s.supply.restoreMark = true → tagKindOf kind ≠ none → crew ≠ 0 → s.remoteRefused r = false →
        s.tags.find crew = none → s.tags.freeSlot = none → refused .tagFull))

/-- R96, R97, R90: a TAG_REMOVE that passes its checks makes the record REMOVING and asks for a tag write; the record stays
in the table and no answer is handed yet. The refusals, in their order (R96, R98, R167), leave everything but the links and the
slot of the holder as it is. That BUSY comes ahead of every other check is log 31's reading, and the body of a refusal, the crew
code with FFh and FFh for slot and state, is log 32's reading. -/
def Obligations.TagRemoveBegins : Prop :=
  (∀ (r : Req) (crew : Word) (i : Nat) (rec : TagRecord) (s : State), s.supply.restoreMark = true →
    s.tags.find crew = some i → s.tags.at i = some rec → rec.state = .held → ¬ (rec.origin = .panel ∧ r.origin = .radio) →
    s.remoteRefused r = false →
    ∃ t rec', exec (.tagRemove r crew) s = .next t ∧ t.tags.at i = some rec' ∧ rec'.crew = rec.crew ∧ rec'.kind = rec.kind ∧
      rec'.state = .removing ∧ rec'.request = some r ∧ rec'.stage ≠ .none ∧ t.tags.count = s.tags.count ∧
      t.tags.writeState ≠ .idle ∧ t.links = s.links ∧ SamePath s t ∧ SameDrive s t ∧ SamePower s t ∧ SameLogs s t ∧ SameClock s t) ∧
  (∀ (r : Req) (crew : Word) (s : State), NothingToGrant s →
      let refused (c : ResultCode) : Prop :=
        ∃ t, exec (.tagRemove r crew) s = .next t ∧ OnlyLinksAndCommand s t ∧
          Handed (responseFrame r.id 13 c [hiByte crew, loByte crew, 0xFF, 0xFF]) s t
      (s.supply.restoreMark = false → refused .busy) ∧
      (s.supply.restoreMark = true → s.tags.find crew = none → refused .tagUnknown) ∧
      (∀ i rec, s.supply.restoreMark = true → s.tags.find crew = some i → s.tags.at i = some rec →
        (rec.state ≠ .held → refused .tagBusy) ∧
        (rec.state = .held → rec.origin = .panel → r.origin = .radio → refused .tagOrigin) ∧
        (rec.state = .held → ¬ (rec.origin = .panel ∧ r.origin = .radio) → s.remoteRefused r = true → refused .remoteDisabled)))

/-- R92, R93: the end of a tag write concludes every record that it carried, in slot order: a verified write makes a PLACING record
HELD and frees the slot of a REMOVING one; a failed write makes both HELD. Each pending request is answered OK or NV_FAULT (R98), and
each record gives its TAG report (R100). The table is durable as the verify says; that the reports show the new flag is log 43's
reading, and the codes of the record state in an answer are log 32's. Records that wait lead to the next tag write, which the free
array is granted at once (R92, R166); else the write state is IDLE. -/
def Obligations.TagWriteConcludes : Prop :=
  ∀ (verified : Bool) (image : List TagImageRecord) (c : Countdown) (s : State), TagTableSound s →
    s.store.inFlight = some (.tag image) → s.store.writeTimer = some c →
    let answers : List OutFrame := (s.tags.slots.mapIdx (tagAnswer verified)).filterMap id
    let bodies : List ReportBody := (s.tags.slots.mapIdx (s.tags.conclusionReport verified)).filterMap id
    let sent := (s.advanceTo c.due).links
    ∃ t, exec (.tagWriteComplete verified) s = .next t ∧ t.tags.durable = verified ∧
      (∀ i rec, s.tags.at i = some rec → rec.stage = .writing → t.tags.at i = concludedRecord verified rec) ∧
      (∀ i rec, s.tags.at i = some rec → rec.stage = .none → t.tags.at i = some rec) ∧
      (∀ i rec, s.tags.at i = some rec → rec.stage = .waiting → t.tags.at i = some { rec with stage := .writing }) ∧
      (∀ i, s.tags.at i = none → t.tags.at i = none) ∧
      (s.supply.stage ≠ .draining → t.links = { sent with tx := sent.tx ++ answers }) ∧ (∀ x ∈ answers, x ∈ t.links.tx) ∧
      t.reports = bodies.foldl (fun q body => (q.enter 6 s.cmd.seconds body).1) s.reports ∧
      ((∀ r ∈ s.tags.records, r.stage ≠ .waiting) → t.tags.writeState = .idle ∧ t.store.inFlight ≠ some (.tag image)) ∧
      ((∃ r ∈ s.tags.records, r.stage = .waiting) →
        t.tags.writeState = .inFlight ∧ t.store.inFlight = some (.tag (tagImage t.tags.slots)) ∧
        t.store.writeTimer = startAt (max s.now c.due) (msec 25)) ∧
      (verified = true → t.store.nv = { s.store.nv with tags := .good image }) ∧
      (verified = false → t.store.nv.tables = s.store.nv.tables ∧ t.store.nv.record = s.store.nv.record) ∧
      t.store.tables = s.store.tables ∧ t.store.buffer = s.store.buffer ∧
      SamePath s t ∧ SameDrive s t ∧ t.faults = s.faults ∧ t.now = max s.now c.due ∧ t.pending = s.pending

/-- From every state in which each holds, a step keeps: six slots in the Tag Table and no two records with one crew code (R88);
at most 32 reports, with classes that do not rise from front to end (R136, R138); at most sixteen fault records, with the
consecutive numbers below the next one (R150, R152). -/
def Obligations.TablesAndQueuesStaySound : Prop :=
  (∀ s t : State, TagTableSound s → step s = .next t → TagTableSound t) ∧
  (∀ s t : State, QueueSound s → step s = .next t → QueueSound t) ∧
  (∀ s t : State, FaultRingSound s → step s = .next t → FaultRingSound t)

/-! ## Supply and power states (spec/06) -/

/-- R103, R104, R105: an accepted CABINET frame gives the measurements, the flags and the freshness. R117, R118, R119: charge is
integrated over a gap of 1 to 10 frames at the previous current and then at the frame's own. R106: supply presence and
qualification. R107, R108, R109, R110, R113: the power state that follows, with health and SoC as the frame leaves them, and the
cutoff timer. R114: the POWER report of a change, where neither a test nor an energy wait runs. R121, R123 to R126, R130, R132: the
temperature state, the charge state and a running test. R53: the re-check of a reclose in energy wait. By inference of the model:
exhaustion in CARRY comes before a low SoC (log 34), a frame makes one transition of the charge state, from the state it finds
(log 24), and the empty recalibration does not take an exhaustion back, nor does the frame that enters FLOAT start its timer
(log 36). -/
def Obligations.CabinetFrameTaken : Prop :=
  ∀ (f : CabinetFrame) (s : State) (gap : Gap), s.cabinetGap f = some gap → s.nothingPending →
    let present := supplyPresentLevel s.unit ≤ f.supply.toNat
    let lowVoltage := f.battery.toNat ≤ cutoffVoltage s.batteryTable
    let qmax := qMax s.batteryTable
    let restored := s.supply.restoreMark = true
    let starts := s.supply.power = .start ∧ restored
    let onBattery := s.supply.power = .carry ∨ s.supply.power = .conserve
    let exhausted := (s.takeMeasurements f).exhaustedBy gap = true
    ∃ t, exec (.cabinetFrame f) s = .next t ∧ t.supply.meas = frameMeasurements f ∧
      t.supply.remote = f.flags.getLsbD 0 ∧ t.supply.chargerFault = f.flags.getLsbD 1 ∧ t.supply.lastSeq = some f.seq ∧
      t.supply.freshness = .fresh ∧ t.supply.freshTimer = startAt s.now (sec 1) ∧ t.supply.present = decide present ∧
      (restored →
        t.battery.q = (if lowVoltage then 0 else coulombStep qmax
          (match gap, s.battery.prevCurrent with
            | some k, some i => if k ≤ 10 then (fun q => coulombStep qmax q i)^[k] s.battery.q else s.battery.q
            | _, _ => s.battery.q) f.current.toInt) ∧
        t.battery.prevCurrent = some f.current.toInt) ∧
      (s.supply.restoreMark = false → s.supply.power = .start → t.supply.power = .start ∧ t.battery = s.battery) ∧
      (gap = some 0 →
        (exhausted ↔ restored ∧ f.current.toInt < 0 ∧ 0 < s.battery.q ∧ coulombStep qmax s.battery.q f.current.toInt = 0)) ∧
      (present → ¬ starts →
        (s.supply.qualification = .unqualified →
          t.supply.qualification = .qualifying ∧ t.supply.qualifyTimer = startAt s.now (sec (supplyQualifyTime s.unit))) ∧
        (s.supply.qualification ≠ .unqualified →
          t.supply.qualification = s.supply.qualification ∧ t.supply.qualifyTimer = s.supply.qualifyTimer)) ∧
      (present → starts → t.supply.qualification = .qualified ∧ t.supply.qualifyTimer = none) ∧
      (¬ present → t.supply.qualification = .unqualified ∧ t.supply.qualifyTimer = none) ∧
      let low := s.battery.health = .failed ∨ t.soc ≤ conserveLevel s.batteryTable
      t.supply.power =
        (match s.supply.power with
          | .start => if ¬ restored then .start else if present then .normal else if low then .conserve else .carry
          | .normal => if present then .normal else if low then .conserve else .carry
          | .carry => if exhausted ∧ ¬ present then .cutoff else if low then .conserve else .carry
          | .conserve => if exhausted ∧ ¬ present then .cutoff else .conserve
          | .cutoff => if present then .carry else .cutoff) ∧
      t.supply.cutoffTimer =
        (if onBattery ∧ t.supply.power = s.supply.power ∧ ¬ present ∧ lowVoltage then
          (if s.supply.cutoffTimer.isSome then s.supply.cutoffTimer else startAt s.now (sec 10))
        else if starts ∧ ¬ present ∧ lowVoltage then startAt s.now (sec 10) else none) ∧
      (s.supply.power = .cutoff → present → t.supply.stage = .none ∧ t.supply.finalTimer = none) ∧
      (onBattery → exhausted → ¬ present →
        t.supply.stage ≠ .none ∧ t.battery.charge = .off ∧ (t.store.recordWaiting.isSome = true ∨ t.store.inFlight.isSome = true)) ∧
      (s.battery.testState = .idle → s.seq.energyWait = none → NothingToGrant s →
        (t.supply.power = s.supply.power → t.reports = s.reports) ∧
        (t.supply.power ≠ s.supply.power →
          t.reports = (s.reports.enter (match t.supply.power with | .conserve => 5 | .cutoff => 7 | _ => 4) s.cmd.seconds
            (.power t.supply.power s.supply.power
              (if t.supply.power = .cutoff then .exhausted
               else if t.supply.power = .conserve ∧ s.battery.health = .failed then .healthFailed
               else if s.supply.power = .normal then .supplyLost
               else if s.supply.power = .cutoff then .supplyReturned
               else if t.supply.power = .conserve then .socLow
               else .startDone)
              f.supply.toNat f.battery.toNat t.soc s.battery.health)).1)) ∧
      (restored → TemperatureTaken f s t ∧ ChargeNoticed f s t ∧
        (s.supply.power = .normal → present → s.battery.testState = .idle → ChargeTaken f s t) ∧
        (s.supply.power = .normal → present → s.battery.testState = .running → s.battery.charge = .test → TestTaken f s t)) ∧
      RecloseRechecked s t ∧ (NothingToGrant s → t.tags = s.tags) ∧
      t.cmd = s.cmd ∧ t.mag = s.mag ∧ SameClock s t

/-- R105, R126, R132: the freshness timer's expiry makes the cabinet stream STALE, undoes the qualification, stops the
cutoff timer, and puts charging to REST; a running test is aborted with cause STREAM_STALE. -/
def Obligations.FreshnessLost : Prop :=
  ∀ (s : State) (c : Countdown), s.supply.freshTimer = some c → s.nothingPending → NothingToGrant s →
    ∃ t, exec .freshnessTimerExpiry s = .next t ∧
      t.supply = { s.supply with
        freshness := .stale, freshTimer := none, qualification := .unqualified, qualifyTimer := none, cutoffTimer := none } ∧
      (s.battery.testState = .idle →
        t.battery.charge = (if s.battery.charge = .off then .off else .rest) ∧ t.reports = s.reports) ∧
      (s.battery.testState = .running →
        t.battery.charge = .rest ∧ t.battery.testState = .idle ∧ t.battery.lastResult = .aborted ∧
        t.battery.lastTime = some s.cmd.seconds ∧ t.battery.testTimer = none ∧ t.battery.retryTimer = none ∧
        t.reports = (s.reports.enter 2 s.cmd.seconds (.battery (s.abortReport .streamStale))).1) ∧
      t.battery.q = s.battery.q ∧ SamePath s t ∧ SameDrive s t ∧ t.faults = s.faults ∧ SameArrays s t ∧ MovedTo c.due s t

/-- R106, R108, R114: the supply-qualify timer's expiry makes the supply QUALIFIED; CARRY and CONSERVE become NORMAL with a
class 4 POWER report. -/
def Obligations.SupplyQualifies : Prop :=
  ∀ (s : State) (c : Countdown), s.supply.qualifyTimer = some c → NothingToGrant s →
    ∃ t, exec .supplyQualifyTimerExpiry s = .next t ∧
      ((s.supply.power = .carry ∨ s.supply.power = .conserve) →
        t.supply = { s.supply with power := .normal, qualification := .qualified, qualifyTimer := none, cutoffTimer := none } ∧
        t.reports = (s.reports.enter 4 s.cmd.seconds (.power .normal s.supply.power .supplyQualified s.supply.meas.supply
          s.supply.meas.battery s.soc s.battery.health)).1) ∧
      (s.supply.power ≠ .carry → s.supply.power ≠ .conserve →
        t.supply = { s.supply with qualification := .qualified, qualifyTimer := none } ∧ t.battery = s.battery ∧
        t.reports = s.reports) ∧
      t.battery.q = s.battery.q ∧ SamePath s t ∧ SameDrive s t ∧ t.faults = s.faults ∧ SameArrays s t ∧ MovedTo c.due s t

/-- R109, R111, R114: the cutoff timer's expiry in CARRY or CONSERVE enters CUTOFF: charging is off, a state record is asked for,
the class 7 POWER report is queued as the final report, and draining begins. R112, R127: the final-report timer's expiry in
DRAINING with the arbiter idle disconnects the battery. -/
def Obligations.CutoffThenDisconnect : Prop :=
  (∀ (s : State) (c : Countdown), s.supply.cutoffTimer = some c → (s.supply.power = .carry ∨ s.supply.power = .conserve) →
      s.battery.testState = .idle →
      let body : ReportBody := .power .cutoff s.supply.power .batteryLow s.supply.meas.supply s.supply.meas.battery s.soc s.battery.health
      ∃ t, exec .cutoffTimerExpiry s = .next t ∧ t.supply.power = .cutoff ∧ t.supply.stage = .draining ∧
        t.supply.cutoffTimer = none ∧ t.supply.finalTimer = startAt (max s.now c.due) (sec 60) ∧ t.supply.finalSent = false ∧
        t.supply.finalReport = (s.reports.enter 7 s.cmd.seconds body).2 ∧
        t.reports = (s.reports.enter 7 s.cmd.seconds body).1 ∧ t.battery.charge = .off ∧ t.battery.q = s.battery.q ∧
        (t.store.recordWaiting.isSome = true ∨ t.store.inFlight.isSome = true) ∧ t.store.tables = s.store.tables ∧
        SamePath s t ∧ SameDrive s t ∧ t.faults = s.faults ∧ MovedTo c.due s t) ∧
  (∀ (s : State) (c : Countdown), s.supply.finalTimer = some c → s.arbiterIdle = true →
      ∃ t, exec .finalReportTimerExpiry s = .next t ∧ t.supply.finalTimer = none ∧ t.supply.power = s.supply.power ∧
        (s.supply.stage = .draining →
          t.supply.stage = .disconnected ∧ t.battery.disconnect = true ∧ t.battery.sent = ⟨.disconnect, 0, 0⟩) ∧
        (s.supply.stage ≠ .draining → t.supply.stage = s.supply.stage ∧ t.battery = s.battery) ∧
        SamePath s t ∧ SameDrive s t ∧ SameLogs s t ∧ SameArrays s t ∧ MovedTo c.due s t)

/-! ## Battery care (spec/07) -/

/-- R117: one step of charge: 243/2560 of a charging current rounded down, a tenth of a discharging one rounded
up, within 0 and Qmax. -/
def Obligations.CoulombStepRounds : Prop :=
  ∀ (qmax q : Nat) (i : Int), q ≤ qmax →
    coulombStep qmax q i ≤ qmax ∧
    (0 < i → (coulombStep qmax q i : Int) = min (qmax : Int) (q + i * 243 / 2560)) ∧
    (i < 0 → (coulombStep qmax q i : Int) = max 0 (q + i / 10)) ∧
    (i = 0 → coulombStep qmax q i = q)

/-- R121: the hold timer's expiry makes the temperature state FAULT, at 25.0 °C, and limits charging to FLOAT. R119, R124, R125,
R127: the ends of the absorb, rebulk, float-full and charger repeat timers. -/
def Obligations.ChargeTimersEnd : Prop :=
  (∀ (s : State) (c : Countdown), s.battery.holdTimer = some c → NothingToGrant s →
      ∃ t, exec .holdTimerExpiry s = .next t ∧ t.battery.tempState = .fault ∧ t.battery.workingTemp = 250 ∧
        t.battery.holdTimer = none ∧ t.battery.rebulkTimer = none ∧
        t.battery.charge = (if s.battery.charge = .bulk ∨ s.battery.charge = .absorb then .float else s.battery.charge) ∧
        t.battery.q = s.battery.q ∧ SamePath s t ∧ SameDrive s t ∧ t.supply = s.supply ∧ SameLogs s t ∧ SameArrays s t ∧
        MovedTo c.due s t) ∧
  (∀ (s : State) (c : Countdown), NothingToGrant s →
      let rest (t : State) : Prop := SamePath s t ∧ SameDrive s t ∧ t.supply = s.supply ∧ SameLogs s t ∧ SameArrays s t ∧ MovedTo c.due s t
      (s.battery.absorbTimer = some c → s.battery.charge = .absorb →
        ∃ t, exec .absorbTimerExpiry s = .next t ∧ t.battery.charge = .float ∧ t.battery.absorbTimer = none ∧
          t.battery.q = s.battery.q ∧ rest t) ∧
      (s.battery.rebulkTimer = some c → s.battery.charge = .float → s.battery.tempState ≠ .fault →
        ∃ t, exec .rebulkTimerExpiry s = .next t ∧ t.battery.charge = .bulk ∧ t.battery.rebulkTimer = none ∧
          t.battery.floatFullTimer = none ∧ t.battery.q = s.battery.q ∧ rest t) ∧
      (s.battery.floatFullTimer = some c →
        ∃ t, exec .floatFullTimerExpiry s = .next t ∧
          t.battery = { s.battery with q := qMax s.batteryTable, floatFullTimer := startAt (max s.now c.due) (sec 3600) } ∧ rest t) ∧
      (s.battery.repeatTimer = some c →
        ∃ t, exec .chargerRepeatTimerExpiry s = .next t ∧
          t.battery = { s.battery with sent := s.chargerContent, repeatTimer := startAt (max s.now c.due) (sec 1) } ∧
          t.links.tx.getLast? = some s.chargerContent.frame ∧ rest t))

/-- R131, R132: a test whose mean load current is above 0 is judged by the lowest voltage: health, fail count, last result
and time, and the report's class; otherwise it ends ABORTED with cause NO_LOAD. -/
def Obligations.BatteryTestConcludes : Prop :=
  ∀ (s : State) (c : Countdown), s.battery.testTimer = some c → s.battery.testState = .running → s.nothingPending → NothingToGrant s →
    ∃ t, exec .testDurationTimerExpiry s = .next t ∧ t.battery.testState = .idle ∧ t.battery.testTimer = none ∧
      t.battery.retryTimer = none ∧ t.battery.lastTime = some s.cmd.seconds ∧
      (s.battery.load ≤ 0 →
        t.battery.lastResult = .aborted ∧ t.battery.health = s.battery.health ∧ t.battery.failCount = s.battery.failCount ∧
        t.reports = (s.reports.enter 2 s.cmd.seconds (.battery (s.abortReport .noLoad))).1) ∧
      (0 < s.battery.load → s.testPasses = true →
        t.battery.lastResult = .pass ∧ t.battery.health = .good ∧ t.battery.failCount = 0 ∧
        t.reports = (s.reports.enter 2 s.cmd.seconds (.battery (s.completeReport .pass .good 0))).1) ∧
      (0 < s.battery.load → s.testPasses = false →
        t.battery.lastResult = .fail ∧ t.battery.failCount = min 255 (s.battery.failCount + 1) ∧
        t.battery.health = (if s.battery.health = .good then .weak else .failed) ∧
        t.reports = (s.reports.enter (if s.battery.health = .weak then 5 else 2) s.cmd.seconds
          (.battery (s.completeReport .fail t.battery.health t.battery.failCount))).1) ∧
      (0 < s.battery.load → t.battery.charge = (if s.battery.tempState = .fault then .float else .bulk)) ∧
      t.battery.q = s.battery.q ∧ SamePath s t ∧ SameDrive s t ∧ t.supply = s.supply ∧ t.faults = s.faults ∧ SameArrays s t ∧
      MovedTo c.due s t

/-- R128, R129: the retry timer's expiry tries a test that is due: it starts where all preconditions hold, else the retry timer
runs another 600 s. BATTERY_TEST is refused by the remote flag, refused where a precondition fails, else started and answered
OK; that the response follows the CHARGER frame of the started test is log 28's order. -/
def Obligations.BatteryTestStarts : Prop :=
  (∀ (s : State) (c : Countdown), s.battery.retryTimer = some c → s.battery.testState = .idle → NothingToGrant s →
      ∃ t, exec .scheduleRetryTimerExpiry s = .next t ∧
        (s.testDue = false → t.battery = { s.battery with retryTimer := none }) ∧
        (s.testDue = true → s.testReady = false →
          t.battery = { s.battery with retryTimer := startAt (max s.now c.due) (sec 600) }) ∧
        (s.testDue = true → s.testReady = true →
          t.battery.testState = .running ∧ t.battery.testOrigin = .scheduled ∧ t.battery.charge = .test ∧
          t.battery.vRest = some s.supply.meas.battery ∧ t.battery.vMin = none ∧ t.battery.frameCount = 0 ∧
          t.battery.testTimer = startAt (max s.now c.due) (sec (testDuration s.batteryTable)) ∧
          (s.battery.disconnect = false → t.battery.sent = ⟨.testLoad, 0, 0⟩)) ∧
        SamePath s t ∧ SameDrive s t ∧ t.supply = s.supply ∧ SameLogs s t ∧ SameArrays s t ∧ MovedTo c.due s t) ∧
  (∀ (r : Req) (s : State), NothingToGrant s →
      ∃ t, exec (.batteryTest r) s = .next t ∧
        (s.remoteRefused r = true → t.battery = s.battery ∧ Handed (responseFrame r.id 15 .remoteDisabled []) s t) ∧
        (s.remoteRefused r = false → s.testReady = false →
          t.battery = s.battery ∧ Handed (responseFrame r.id 15 .refusedState []) s t) ∧
        (s.remoteRefused r = false → s.testReady = true →
          t.battery.testState = .running ∧ t.battery.testOrigin = .requested ∧ t.battery.charge = .test ∧
          t.battery.vRest = some s.supply.meas.battery ∧ t.battery.vMin = none ∧ t.battery.dischargeSum = 0 ∧
          t.battery.testTimer = startAt s.now (sec (testDuration s.batteryTable)) ∧
          t.links.tx.getLast? = some (responseFrame r.id 15 .ok [])) ∧
        SamePath s t ∧ SameDrive s t ∧ t.supply = s.supply ∧ SameLogs s t ∧ SameArrays s t ∧ SameClock s t)

/-! ## Reports and the fault log (spec/08) -/

/-- R138: a report that is no STATUS report enters a full queue: the victim is a QUEUED record of the lowest class below
its own, and the oldest of that class; without a victim it is dropped itself, and takes no number. -/
def Obligations.FullQueueEvicts : Prop :=
  ∀ (q : ReportQueue) (cls : Nat) (created : Long) (body : ReportBody), q.records.length = 32 → body.isStatus = false →
    ((∃ x ∈ q.records, x.state = .queued ∧ x.cls < cls) →
      ∃ before v after, q.records = before ++ v :: after ∧ v.state = .queued ∧ v.cls < cls ∧
        (∀ x ∈ q.records, x.state = .queued → v.cls ≤ x.cls) ∧
        (∀ x ∈ before, ¬ (x.state = .queued ∧ x.cls = v.cls)) ∧
        (q.enter cls created body).1 = { q with
          records := place (newRecord q.nextNumber cls created body) (before ++ after), nextNumber := q.nextNumber + 1,
          dropped := min 255 (q.dropped + 1) } ∧
        (q.enter cls created body).2 = some q.nextNumber) ∧
    ((∀ x ∈ q.records, x.state = .queued → cls ≤ x.cls) →
      q.enter cls created body = ({ q with dropped := min 255 (q.dropped + 1) }, none))

/-- R137: the status-interval timer's expiry restarts it and enters a class 1 STATUS report; one that is in the queue
already takes the new body and time in its place and keeps its number. -/
def Obligations.StatusReportEntered : Prop :=
  ∀ (s : State) (c : Countdown), s.reports.statusTimer = some c → NothingToGrant s →
    ∃ t, exec .statusIntervalTimerExpiry s = .next t ∧
      t.reports.statusTimer = startAt (max s.now c.due) (sec (statusInterval s.unit)) ∧
      ((∃ x ∈ s.reports.records, x.body.isStatus = true) →
        t.reports.records = s.reports.records.map (fun x =>
          if x.body.isStatus then { x with body := s.statusBody, created := s.cmd.seconds } else x) ∧
        t.reports.nextNumber = s.reports.nextNumber) ∧
      ((∀ x ∈ s.reports.records, x.body.isStatus = false) → s.reports.records.length < 32 →
        t.reports.records = place (newRecord s.reports.nextNumber 1 s.cmd.seconds s.statusBody) s.reports.records ∧
        t.reports.nextNumber = s.reports.nextNumber + 1) ∧
      t.reports.budget = s.reports.budget ∧ t.faults = s.faults ∧
      SamePath s t ∧ SameDrive s t ∧ SamePower s t ∧ SameArrays s t ∧ MovedTo c.due s t

/-- R142, R143: a REPORT_POLL that the budget allows sends the first sendable record: RESPONSE and REPORT frame one after the
other, the cost taken from B, and the record removed or SENT with its ack timer. With no sendable record, with one that
the budget does not allow, or before the restore-complete event (R140), it is answered NONE and changes no record. R143, R112: a poll
in DRAINING that sends the final report tells the Supply Monitor, which with the arbiter idle has the battery disconnected. -/
def Obligations.PollAnswers : Prop :=
  (∀ (r : Req) (s : State) (before : List Report) (x : Report) (after : List Report),
      s.reports.records = before ++ x :: after → (∀ y ∈ before, s.sendable y = false) → s.sendable x = true →
      s.supply.restoreMark = true → budgetAllows s.reports.budget (airtimeCeiling s.unit) x.cls (s.cost x) = true →
      NothingToGrant s →
      ∃ t, exec (.reportPoll r) s = .next t ∧
        ((s.supply.stage ≠ .draining ∨ s.supply.finalReport ≠ some x.number) →
          SamePower s t ∧
          t.links = { s.links with tx := s.links.tx ++ [responseFrame r.id 16 .ok (encWord x.number), (s.toSend x).frame] }) ∧
        (s.supply.stage = .draining → s.supply.finalReport = some x.number →
          (s.arbiterIdle = false → t.supply = { s.supply with finalSent := true } ∧ t.battery = s.battery) ∧
          (s.arbiterIdle = true →
            t.supply = { s.supply with finalSent := true, stage := .disconnected, finalTimer := none } ∧
            t.battery.disconnect = true ∧ t.battery.sent = ⟨.disconnect, 0, 0⟩ ∧ t.battery.q = s.battery.q) ∧
          ∃ charger : List OutFrame, t.links = { s.links with
            tx := s.links.tx ++ [responseFrame r.id 16 .ok (encWord x.number), (s.toSend x).frame] ++ charger }) ∧
        t.reports.budget = s.reports.budget - s.cost x ∧
        (x.needsAck = false → t.reports.records = before ++ after) ∧
        (x.needsAck = true → t.reports.records = before ++ { x with
          state := .sent, sends := x.sends + 1, eligible := none, ack := startAt s.now (sec (ackTimeout s.unit)) } :: after) ∧
        t.reports.dropped = (if x.body.isStatus then 0 else s.reports.dropped) ∧ t.reports.nextNumber = s.reports.nextNumber ∧
        SamePath s t ∧ SameDrive s t ∧ t.faults = s.faults ∧ SameArrays s t ∧ SameClock s t ∧ t.cmd = s.cmd) ∧
  (∀ (r : Req) (s : State),
      ((∀ y ∈ s.reports.records, s.sendable y = false) ∨ s.supply.restoreMark = false ∨
        ∃ before x after, s.reports.records = before ++ x :: after ∧ (∀ y ∈ before, s.sendable y = false) ∧ s.sendable x = true ∧
          budgetAllows s.reports.budget (airtimeCeiling s.unit) x.cls (s.cost x) = false) → NothingToGrant s →
      ∃ t, exec (.reportPoll r) s = .next t ∧ Handed (responseFrame r.id 16 .none s.noneBody) s t ∧ OnlyLinksAndCommand s t ∧
        t.cmd = s.cmd)

/-- R144: REPORT_ACK removes the first record with its number, whatever its state, and is answered OK; without one it is
answered UNKNOWN_REPORT and nothing changes. -/
def Obligations.AckRemovesFirst : Prop :=
  ∀ (r : Req) (n : Word) (s : State), NothingToGrant s →
    (∀ before x after, s.reports.records = before ++ x :: after → x.number = n → (∀ y ∈ before, y.number ≠ n) →
      ∃ t, exec (.reportAck r n) s = .next t ∧ t.reports = { s.reports with records := before ++ after } ∧
        Handed (responseFrame r.id 17 .ok []) s t ∧ t.faults = s.faults ∧ SamePath s t ∧ SameDrive s t ∧ SamePower s t ∧
        SameArrays s t ∧ SameClock s t ∧ t.cmd = s.cmd) ∧
    ((∀ y ∈ s.reports.records, y.number ≠ n) →
      ∃ t, exec (.reportAck r n) s = .next t ∧ Handed (responseFrame r.id 17 .unknownReport []) s t ∧
        OnlyLinksAndCommand s t ∧ t.cmd = s.cmd)

/-- R145: the ack timer of a SENT record expires: it is QUEUED again, to be eligible after its sends times the ack timeout,
or after its fourth send it is removed and counted as dropped. Of several SENT records with one number (R136) the one whose
timer is due first expires, wherever it stands; that those due at one moment expire in queue order is the model's choice
(log 38). -/
def Obligations.AckTimeoutRequeues : Prop :=
  ∀ (s : State) (c : Countdown) (before : List Report) (x : Report) (after : List Report),
    s.reports.records = before ++ x :: after → x.state = .sent → x.ack = some c →
    (∀ y ∈ before, y.number = x.number → y.state = .sent → ∀ d, y.ack = some d → c.due < d.due) →
    (∀ y ∈ after, y.number = x.number → y.state = .sent → ∀ d, y.ack = some d → c.due ≤ d.due) →
    NothingToGrant s →
    ∃ t, exec (.ackTimerExpiry x.number) s = .next t ∧
      (x.sends < 4 → t.reports = { s.reports with records := before ++ { x with
        state := .queued, eligible := some (max s.now c.due + sec (ackTimeout s.unit * x.sends)), ack := none } :: after }) ∧
      (4 ≤ x.sends → t.reports = { s.reports with records := before ++ after, dropped := min 255 (s.reports.dropped + 1) }) ∧
      t.faults = s.faults ∧ SamePath s t ∧ SameDrive s t ∧ SamePower s t ∧ SameArrays s t ∧ MovedTo c.due s t

/-- R153: FAULT_READ is answered from the ring of kept records, and changes no state of the Fault Log. -/
def Obligations.FaultReadAnswers : Prop :=
  ∀ (r : Req) (n : Word) (s : State), NothingToGrant s →
    (∀ before x after, s.faults.ring = before ++ x :: after → x.number = n → (∀ y ∈ before, y.number ≠ n) →
      ∃ t, exec (.faultRead r n) s = .next t ∧ Handed (responseFrame r.id 18 .ok (encFault x)) s t ∧ OnlyLinksAndCommand s t) ∧
    ((∀ y ∈ s.faults.ring, y.number ≠ n) →
      ∃ t, exec (.faultRead r n) s = .next t ∧ Handed (responseFrame r.id 18 .unknownRecord []) s t ∧ OnlyLinksAndCommand s t)

/-! ## Settings tables (spec/09) -/

/-- R157, R158, R159: unlocking a table, claiming the staging buffer for it, and writing words into it, where the checks of
each request pass; every one is answered OK. The refusals, in the order of these rules and of R167 and R172, change nothing but the
links and the slot of the holder. That BUSY before the restore comes ahead of every other check is log 31's reading, and the
BAD_REQUEST of a TABLE_DATA command with more than 48 words log 33's. -/
def Obligations.TableLoadRequests : Prop :=
  ∀ (r : Req) (s : State), NothingToGrant s →
    let b := s.store.buffer
    let rest (t : State) : Prop := SamePath s t ∧ SameDrive s t ∧ SamePower s t ∧ SameLogs s t ∧ t.tags = s.tags ∧ SameClock s t
    let refused (i : Instr) (kind : Byte) (c : ResultCode) : Prop :=
      ∃ t, exec i s = .next t ∧ Handed (responseFrame r.id kind c []) s t ∧ OnlyLinksAndCommand s t
    (s.supply.restoreMark = true → s.remoteRefused r = false →
      (∀ id : Byte, 1 ≤ id.toNat → id.toNat ≤ 14 →
        ∃ t, exec (.tableUnlock r id) s = .next t ∧ t.store = { s.store with locks := s.store.locks.set id.toNat false } ∧
          Handed (responseFrame r.id 3 .ok []) s t ∧ rest t) ∧
      (∀ id len : Byte, 1 ≤ id.toNat → id.toNat ≤ 14 → b.state = .empty → s.store.locked id.toNat = false →
        lengthFits id.toNat len.toNat = true →
        ∃ t, exec (.tableBegin r id len) s = .next t ∧
          t.store = { s.store with buffer :=
            { state := .loading, table := id.toNat, length := len.toNat, origin := r.origin,
              image := List.replicate len.toNat 0, mask := List.replicate len.toNat false,
              timer := startAt s.now (sec 120), request := none } } ∧
          Handed (responseFrame r.id 4 .ok []) s t ∧ rest t) ∧
      (∀ (o : Byte) (ws : List Word), b.state = .loading → b.origin = r.origin → ws ≠ [] →
        ws.length ≤ 48 → o.toNat + ws.length ≤ b.length →
        ∃ t, exec (.tableData r o ws) s = .next t ∧
          t.store = { s.store with buffer := { b with
            image := writeFrom b.image o.toNat ws, mask := writeFrom b.mask o.toNat (ws.map fun _ => true),
            timer := startAt s.now (sec 120) } } ∧
          Handed (responseFrame r.id 5 .ok []) s t ∧ rest t)) ∧
    (∀ id : Byte,
      (s.supply.restoreMark = false → refused (.tableUnlock r id) 3 .busy) ∧
      (s.supply.restoreMark = true → 14 < id.toNat → refused (.tableUnlock r id) 3 .outOfRange) ∧
      (s.supply.restoreMark = true → id = 0 → refused (.tableUnlock r id) 3 .locked) ∧
      (s.supply.restoreMark = true → 1 ≤ id.toNat → id.toNat ≤ 14 → s.remoteRefused r = true →
        refused (.tableUnlock r id) 3 .remoteDisabled)) ∧
    (∀ id len : Byte,
      (s.supply.restoreMark = false → refused (.tableBegin r id len) 4 .busy) ∧
      (s.supply.restoreMark = true → 14 < id.toNat → refused (.tableBegin r id len) 4 .outOfRange) ∧
      (s.supply.restoreMark = true → id.toNat ≤ 14 →
        (s.remoteRefused r = true → refused (.tableBegin r id len) 4 .remoteDisabled) ∧
        (s.remoteRefused r = false → b.state ≠ .empty → refused (.tableBegin r id len) 4 .busy) ∧
        (s.remoteRefused r = false → b.state = .empty → (id = 0 ∨ s.store.locked id.toNat = true) →
          refused (.tableBegin r id len) 4 .locked) ∧
        (s.remoteRefused r = false → b.state = .empty → id ≠ 0 → s.store.locked id.toNat = false →
          lengthFits id.toNat len.toNat = false → refused (.tableBegin r id len) 4 .outOfRange))) ∧
    (∀ (o : Byte) (ws : List Word),
      (48 < ws.length → refused (.tableData r o ws) 5 .badRequest) ∧
      (ws.length ≤ 48 → s.supply.restoreMark = false → refused (.tableData r o ws) 5 .busy) ∧
      (ws.length ≤ 48 → s.supply.restoreMark = true →
        (s.remoteRefused r = true → refused (.tableData r o ws) 5 .remoteDisabled) ∧
        (s.remoteRefused r = false → (b.state ≠ .loading ∨ b.origin ≠ r.origin) → refused (.tableData r o ws) 5 .busy) ∧
        (s.remoteRefused r = false → b.state = .loading → b.origin = r.origin → (ws = [] ∨ b.length < o.toNat + ws.length) →
          refused (.tableData r o ws) 5 .outOfRange)))

/-- R160, R156, R161: the outcomes of a TABLE_COMMIT that passes its checks: INCOMPLETE and INVALID give the load up and set
the lock; a UNIT, GROUP or CURVE image is applied at a rest of the sequence, and a BATTERY image while no test runs, with no answer
until its write completes, and is PENDING otherwise. An applied UNIT table caps the airtime budget (R140) and restarts a live stream
whose nominal frequency it changes (R9); an applied BATTERY table caps Q (R120), stops the retry timer at an interval of 0 (R128)
and sends a changed CHARGER content (R127). The refusals change nothing but the links and the slot of the holder; that BUSY before
the restore comes ahead of REMOTE_DISABLED is log 31's reading. -/
def Obligations.TableCommitOutcomes : Prop :=
  ∀ (r : Req) (s : State), NothingToGrant s →
    let b := s.store.buffer
    let locks := s.store.locks.set b.table true
    let applies := if b.table = 2 then s.battery.testState = .idle else s.sequenceRests = true
    let kept (t : State) : Prop := SameDrive s t ∧ t.oc = s.oc ∧ t.supply = s.supply ∧ t.faults = s.faults ∧ t.tags = s.tags ∧ SameClock s t
    let rest (t : State) : Prop := SamePath s t ∧ SameDrive s t ∧ SamePower s t ∧ SameLogs s t ∧ t.tags = s.tags ∧ SameClock s t
    let refused (c : ResultCode) : Prop :=
      ∃ t, exec (.tableCommit r) s = .next t ∧ Handed (responseFrame r.id 6 c []) s t ∧ OnlyLinksAndCommand s t
    (s.supply.restoreMark = false → refused .busy) ∧
    (s.supply.restoreMark = true → s.remoteRefused r = true → refused .remoteDisabled) ∧
    (s.supply.restoreMark = true → s.remoteRefused r = false → (b.state ≠ .loading ∨ b.origin ≠ r.origin) → refused .busy) ∧
    (s.supply.restoreMark = true → s.remoteRefused r = false → b.state = .loading → b.origin = r.origin →
      (∀ i, b.unwritten = some i →
        ∃ t, exec (.tableCommit r) s = .next t ∧ t.store = { s.store with buffer := emptyBuffer, locks := locks } ∧
          Handed (responseFrame r.id 6 .incomplete (enc1 i)) s t ∧ rest t) ∧
      (∀ i, b.unwritten = none → firstInvalid b.table b.image = some i →
        ∃ t, exec (.tableCommit r) s = .next t ∧ t.store = { s.store with buffer := emptyBuffer, locks := locks } ∧
          Handed (responseFrame r.id 6 .invalid (enc1 i)) s t ∧ rest t) ∧
      (b.unwritten = none → firstInvalid b.table b.image = none → applies →
        ∃ t, exec (.tableCommit r) s = .next t ∧ t.store.tables = s.store.tables.set b.table b.image ∧ t.store.locks = locks ∧
          t.store.buffer = { b with state := .writing, timer := none, request := some r } ∧
          (t.store.tableWaiting = true ∨ t.store.inFlight = some (.table b.table b.image)) ∧ t.store.nv = s.store.nv ∧ kept t ∧
          (b.table ≠ 1 → b.table ≠ 2 → rest t ∧ t.links = s.links) ∧
          (b.table = 1 → t.battery = s.battery ∧ t.links = s.links ∧
            t.reports = { s.reports with budget := min s.reports.budget (airtimeCeiling t.unit : Int) } ∧
            (if nominalFrequency t.unit ≠ nominalFrequency s.unit ∧ s.streamLive = true then
              t.sample = { s.sample with stream := .filling, run := 0 } ∧ t.mag = s.mag.cleared
             else t.sample = s.sample ∧ t.mag = s.mag)) ∧
          (b.table = 2 → SamePath s t ∧ t.reports = s.reports ∧
            t.battery = { s.battery with
              q := min s.battery.q (qMax t.batteryTable),
              retryTimer := if testInterval t.batteryTable = 0 then none else s.battery.retryTimer,
              sent := t.chargerContent,
              repeatTimer := if t.chargerContent = s.battery.sent then s.battery.repeatTimer else startAt s.now (sec 1) } ∧
            (t.chargerContent = s.battery.sent → t.links = s.links) ∧
            (t.chargerContent ≠ s.battery.sent → Handed t.chargerContent.frame s t))) ∧
      (b.unwritten = none → firstInvalid b.table b.image = none → ¬ applies →
        ∃ t, exec (.tableCommit r) s = .next t ∧
          t.store = { s.store with buffer := { b with state := .pending, timer := none }, locks := locks } ∧
          Handed (responseFrame r.id 6 .pending []) s t ∧ rest t))

/-- R162: TABLE_ABORT: with the buffer EMPTY every lock is set; the loader ends its load or its pending commit; a buffer of
the other origin, or one that is WRITING, is BUSY, as every TABLE_ABORT is before the restore (R167). That the abort of a PENDING
commit sets a lock which TABLE_UNLOCK cleared meanwhile is log 50's choice. -/
def Obligations.TableAbortOutcomes : Prop :=
  ∀ (r : Req) (s : State), NothingToGrant s →
    ∃ t, exec (.tableAbort r) s = .next t ∧
      (s.supply.restoreMark = false → t.store = s.store ∧ Handed (responseFrame r.id 7 .busy []) s t) ∧
      (s.supply.restoreMark = true →
        (s.store.buffer.state = .empty →
          t.store = { s.store with locks := s.store.locks.map fun _ => true } ∧ Handed (responseFrame r.id 7 .ok []) s t) ∧
        ((s.store.buffer.state = .loading ∨ s.store.buffer.state = .pending) → s.store.buffer.origin = r.origin →
          t.store = { s.store with buffer := emptyBuffer, locks := s.store.locks.set s.store.buffer.table true } ∧
          Handed (responseFrame r.id 7 .ok []) s t) ∧
        ((s.store.buffer.state = .writing ∨ s.store.buffer.state ≠ .empty ∧ s.store.buffer.origin ≠ r.origin) →
          t.store = s.store ∧ Handed (responseFrame r.id 7 .busy []) s t)) ∧
      SamePath s t ∧ SameDrive s t ∧ SamePower s t ∧ SameLogs s t ∧ t.tags = s.tags ∧ SameClock s t

/-- R163: TABLE_READ answers the words of the active copy from the offset on, continuing from word 0 past its end; an id,
an offset or a count that is out of range is answered OUT_OF_RANGE. Nothing else changes. -/
def Obligations.TableReadWraps : Prop :=
  ∀ (r : Req) (id o n : Byte) (s : State), s.supply.restoreMark = true → n.toNat ≤ 48 → NothingToGrant s →
    ∃ t, exec (.tableRead r id o n) s = .next t ∧
      (id.toNat ≤ 14 → o.toNat < (s.table id.toNat).length → n ≠ 0 →
        ∃ words : List Word, words.length = n.toNat ∧
          (∀ k (h : k < words.length), words[k] = wordAt (s.table id.toNat) ((o.toNat + k) % (s.table id.toNat).length)) ∧
          Handed (responseFrame r.id 8 .ok (n :: words.flatMap encWord)) s t) ∧
      ((14 < id.toNat ∨ (s.table id.toNat).length ≤ o.toNat ∨ n = 0) → Handed (responseFrame r.id 8 .outOfRange []) s t) ∧
      OnlyLinksAndCommand s t

/-- R159, R169: the loading timer's expiry gives the load up, sets the lock and enters a class 4 LOAD_TIMEOUT report with the
number of words written, which is taken as the number of marked words (log 37). R165: the state-record
timer's expiry restarts it at 600 s and asks for a state-record write, which
is granted at once where the array is free, with the values of that moment. -/
def Obligations.StoreTimersEnd : Prop :=
  (∀ (s : State) (c : Countdown), s.store.buffer.timer = some c → NothingToGrant s →
      ∃ t, exec .loadingTimerExpiry s = .next t ∧
        t.store = { s.store with buffer := emptyBuffer, locks := s.store.locks.set s.store.buffer.table true } ∧
        t.reports = (s.reports.enter 4 s.cmd.seconds (.settings
          (.loadTimeout s.store.buffer.table s.store.buffer.origin (s.store.buffer.mask.countP id)))).1 ∧
        t.faults = s.faults ∧ t.tags = s.tags ∧ SamePath s t ∧ SameDrive s t ∧ SamePower s t ∧ MovedTo c.due s t) ∧
  (∀ (s : State) (c : Countdown), s.store.recordTimer = some c →
      (s.arbiterIdle = true →
        ∃ t, exec .stateRecordTimerExpiry s = .next t ∧ t.store.recordTimer = startAt (max s.now c.due) (sec 600) ∧
          t.store.inFlight = some (.record s.stateRecord ⟨false, true, false⟩) ∧ t.store.recordWaiting = none ∧
          t.store.writeTimer = startAt (max s.now c.due) (msec 25) ∧ t.store.tables = s.store.tables ∧ t.tags = s.tags ∧
          SamePath s t ∧ SameDrive s t ∧ SamePower s t ∧ SameLogs s t ∧ MovedTo c.due s t) ∧
      (s.store.inFlight.isSome = true →
        ∃ t, exec .stateRecordTimerExpiry s = .next t ∧ t.store.recordTimer = startAt (max s.now c.due) (sec 600) ∧
          t.store.inFlight = s.store.inFlight ∧ t.store.recordWaiting.isSome = true ∧ t.store.writeTimer = s.store.writeTimer ∧
          SamePath s t ∧ SameDrive s t ∧ SamePower s t ∧ SameLogs s t ∧ MovedTo c.due s t))

/-- R165, R161, R169: the ends of the state-record write and of the table write: a verified write holds its image in the
array; a mismatch is reported, or answered NV_FAULT, and after a failed table write the array does not hold that image,
whatever else it holds (R161). The staging buffer is EMPTY after a table write. -/
def Obligations.WritesComplete : Prop :=
  ∀ (s : State) (c : Countdown) (verified : Bool), s.store.writeTimer = some c →
    (∀ rec causes, s.store.inFlight = some (.record rec causes) →
      ∃ t, exec (.stateRecordWriteComplete verified) s = .next t ∧
        (verified = true → t.store.nv = { s.store.nv with record := .good rec } ∧ t.reports = s.reports) ∧
        (verified = false → t.store.nv.tables = s.store.nv.tables ∧ t.store.nv.tags = s.store.nv.tags ∧
          t.reports = (s.reports.enter 4 s.cmd.seconds (.settings (.stateWriteFailed causes))).1) ∧
        t.store.tables = s.store.tables ∧ t.faults = s.faults ∧ SamePath s t ∧ SameDrive s t ∧ t.now = max s.now c.due) ∧
    (∀ id image, s.store.inFlight = some (.table id image) →
      ∃ t, exec (.tableWriteComplete verified) s = .next t ∧ t.store.buffer = emptyBuffer ∧
        (verified = true → t.store.nv = { s.store.nv with tables := s.store.nv.tables.set id (.good image) }) ∧
        (verified = false → ∃ left, left ≠ .good image ∧
          t.store.nv = { s.store.nv with tables := s.store.nv.tables.set id left }) ∧
        (s.store.buffer.request = none →
          t.reports = (s.reports.enter 4 s.cmd.seconds
            (.settings (.commitApplied s.store.buffer.table s.store.buffer.origin verified))).1) ∧
        (∀ r, s.store.buffer.request = some r → t.reports = s.reports ∧
          (responseFrame r.id 6 (if verified then .ok else .nvFault) []) ∈ t.links.tx) ∧
        t.store.tables = s.store.tables ∧ t.faults = s.faults ∧ SamePath s t ∧ SameDrive s t ∧ t.now = max s.now c.due)

/-- R155, R156, R160, R168: at every step each active writable table passes the validation of R156. -/
def Obligations.ActiveTablesStayValid : Prop :=
  ∀ s t : State, TablesValid s → BufferSound s → step s = .next t → TablesValid t ∧ BufferSound t

/-- R166, R90: at every step no write waits while the array is free, and a tag write is in flight exactly when the Tag
Table says so. -/
def Obligations.ArbiterStaysSound : Prop :=
  ∀ s t : State, ArbiterSound s → step s = .next t → ArbiterSound t

/-! ## Requests and responses (spec/10) -/

/-- R176, R177: a SELECT that passes its checks takes the slot for 10 s; the select timer's expiry clears it. The refusals, in the
order of R176, take no slot: after the cancellation of R177, which ends a selection of the request's own origin. -/
def Obligations.SelectHoldsSlot : Prop :=
  ∀ (r : Req) (tg : Target) (token : Word) (s : State), NothingToGrant s →
    (s.remoteRefused r = false → (∀ sel, s.cmd.slot = some sel → sel.origin = r.origin) →
      (tg = .close → s.partialPermission = none) →
      ∃ t, exec (.select r (BitVec.ofNat 8 tg.ctorIdx) token) s = .next t ∧
        t.cmd = { s.cmd with slot := some ⟨r.origin, tg, token⟩, selectTimer := startAt s.now (sec 10) } ∧
        Handed (responseFrame r.id 10 .ok (enc1 tg.ctorIdx)) s t ∧ OnlyLinksAndCommand s t) ∧
    (∀ c, s.cmd.selectTimer = some c →
      ∃ t, exec .selectTimerExpiry s = .next t ∧ t.cmd.slot = none ∧ t.cmd.selectTimer = none ∧ t.cmd.seconds = s.cmd.seconds ∧
        SamePath s t ∧ SameDrive s t ∧ SamePower s t ∧ SameLogs s t ∧ SameArrays s t ∧ MovedTo c.due s t) ∧
    (let refused (target : Byte) (c : ResultCode) : Prop :=
        ∃ t, exec (.select r target token) s = .next t ∧ Handed (responseFrame r.id 10 c []) s t ∧ OnlyLinksAndCommand s t ∧
          ((∃ sel, s.cmd.slot = some sel ∧ sel.origin = r.origin) → t.cmd = { s.cmd with slot := none, selectTimer := none }) ∧
          ((∀ sel, s.cmd.slot = some sel → sel.origin ≠ r.origin) → t.cmd = s.cmd)
     (∀ target : Byte, 3 ≤ target.toNat → refused target .outOfRange) ∧
     (s.remoteRefused r = true → refused (BitVec.ofNat 8 tg.ctorIdx) .remoteDisabled) ∧
     (s.remoteRefused r = false → (∃ sel, s.cmd.slot = some sel ∧ sel.origin ≠ r.origin) →
        refused (BitVec.ofNat 8 tg.ctorIdx) .selectHeld) ∧
     (∀ item, s.remoteRefused r = false → (∀ sel, s.cmd.slot = some sel → sel.origin = r.origin) →
        s.partialPermission = some item → refused 1 (permissionCode item)))

/-- R178, R62, R55: an OPERATE that matches an OPEN selection, in every state of the sequence. In INIT, IDLE, TIMING or RECLAIM, with
no latch and no pulse and the switch not read open, a MANUAL trip starts with s as it was; in CLOSING the trip is asked for, and held
behind an active CLOSE line; in TRIPPING the kind becomes MANUAL; DEAD ends in LOCKOUT; in LOCKOUT nothing is tripped; MECH_FAIL
answers REFUSED_MECH. That the response follows a CHARGER frame of a test aborted by leaving IDLE is log 28's order. -/
def Obligations.OperateOpenTrips : Prop :=
  ∀ (r : Req) (token : Word) (s : State), s.remoteRefused r = false → s.cmd.slot = some ⟨r.origin, .opened, token⟩ →
    NothingToGrant s →
    let taken (t : State) : Prop := t.cmd = { s.cmd with slot := none, selectTimer := none } ∧ t.mag = s.mag ∧ t.supply = s.supply ∧
      t.tags = s.tags ∧ SameClock s t
    (s.seq.state = .lockout →
      ∃ t, exec (.operateOpen r token) s = .next t ∧ taken t ∧ Handed (responseFrame r.id 11 .ok []) s t ∧ OnlyLinksAndCommand s t) ∧
    (s.seq.state = .mechFail →
      ∃ t, exec (.operateOpen r token) s = .next t ∧ taken t ∧ Handed (responseFrame r.id 11 .refusedMech []) s t ∧
        OnlyLinksAndCommand s t) ∧
    (s.seq.state = .tripping →
      ∃ t, exec (.operateOpen r token) s = .next t ∧ taken t ∧ t.seq = { s.seq with tripKind := .manual } ∧ t.act = s.act ∧
        Handed (responseFrame r.id 11 .ok []) s t ∧ SamePath s t ∧ SamePower s t ∧ SameLogs s t ∧ SameArrays s t) ∧
    (s.seq.state = .dead → s.seq.pendingGroup = none → s.nothingPending →
      ∃ t, exec (.operateOpen r token) s = .next t ∧ taken t ∧
        t.seq = { s.seq with state := .lockout, reason := some .manual, latched := none, dead := none, energyWait := none, reclaim := none } ∧
        t.reports = (s.reports.enter 6 s.cmd.seconds (.lockout .manual s.seq.s s.governing .dead s.sample.view)).1 ∧
        t.act = s.act ∧ Handed (responseFrame r.id 11 .ok []) s t ∧ SamePath s t ∧ SamePower s t ∧ t.faults = s.faults ∧ SameArrays s t) ∧
    (s.seq.state = .closing →
      (s.seq.tripRequested = true →
        ∃ t, exec (.operateOpen r token) s = .next t ∧ taken t ∧ t.seq = { s.seq with tripKind := .manual } ∧ t.act = s.act ∧
          Handed (responseFrame r.id 11 .ok []) s t ∧ SamePath s t ∧ SamePower s t ∧ SameLogs s t ∧ SameArrays s t) ∧
      (s.seq.tripRequested = false → s.act.latch = false → s.act.close = true →
        ∃ t, exec (.operateOpen r token) s = .next t ∧ taken t ∧
          t.seq = { s.seq with tripRequested := true, tripKind := .manual, latched := some s.governing } ∧
          t.act = { s.act with heldTrip := true } ∧ Handed (responseFrame r.id 11 .ok []) s t ∧ SamePath s t ∧ SamePower s t ∧
          SameLogs s t ∧ SameArrays s t) ∧
      (s.seq.tripRequested = false → s.act.latch = false → s.act.close = false → s.act.trip = false →
        s.act.supervision = .closeWait → (s.sample.view ≠ .opened ∨ s.streamLive = false) →
        ∃ t, exec (.operateOpen r token) s = .next t ∧ taken t ∧ t.seq.state = .tripping ∧ t.seq.tripKind = .manual ∧
          t.seq.s = s.seq.s ∧ t.seq.latched = some s.governing ∧ t.act.trip = true ∧
          t.act.tripTimer = startAt s.now (msec (tripPulseWidth s.unit)) ∧ t.act.supervision = .tripWait ∧ t.act.retry = false ∧
          t.act.close = false ∧ Handed (responseFrame r.id 11 .ok []) s t ∧ t.oc = s.oc ∧ SameLogs s t ∧ SamePower s t ∧
          SameArrays s t)) ∧
    ((s.seq.state = .init ∨ s.seq.state = .idle ∨ s.seq.state = .timing ∨ s.seq.state = .reclaim) → s.act.latch = false →
      s.act.trip = false → s.act.close = false → s.act.supervision = .none → s.sample.view ≠ .opened → s.nothingPending →
      ∃ t, exec (.operateOpen r token) s = .next t ∧ taken t ∧
        t.seq.state = .tripping ∧ t.seq.tripKind = .manual ∧ t.seq.s = s.seq.s ∧ t.seq.latched = some s.governing ∧
        t.act.trip = true ∧ t.act.tripTimer = startAt s.now (msec (tripPulseWidth s.unit)) ∧
        t.act.supervision = .tripWait ∧ t.act.retry = false ∧ t.act.close = false ∧
        t.links.tx.getLast? = some (responseFrame r.id 11 .ok []) ∧ t.oc = s.oc ∧ t.faults = s.faults)

/-- R178, R58, R77: an OPERATE that matches a CLOSE selection: outside LOCKOUT it is REFUSED_STATE; in LOCKOUT with no
pulse it is answered by close permission, and with all seven items a MANUAL close starts with s 0; during a TRIP pulse the
close and its answer wait. -/
def Obligations.OperateCloseCloses : Prop :=
  ∀ (r : Req) (token : Word) (s : State), s.remoteRefused r = false → s.cmd.slot = some ⟨r.origin, .close, token⟩ →
    NothingToGrant s →
    (s.seq.state ≠ .lockout →
      ∃ t, exec (.operateClose r token) s = .next t ∧ t.cmd = { s.cmd with slot := none, selectTimer := none } ∧
        Handed (responseFrame r.id 11 .refusedState []) s t ∧ OnlyLinksAndCommand s t) ∧
    (s.seq.state = .lockout → s.act.deferred = none → s.act.trip = false →
      (s.permission = none →
        ∃ t, exec (.operateClose r token) s = .next t ∧ t.cmd = { s.cmd with slot := none, selectTimer := none } ∧
          t.seq.state = .closing ∧ t.seq.closeKind = .manual ∧ t.seq.s = 0 ∧ t.act.close = true ∧
          t.act.closeTimer = startAt s.now (msec (closePulseWidth s.unit)) ∧ t.act.supervision = .closeWait ∧
          t.act.trip = false ∧ Handed (responseFrame r.id 11 .ok []) s t ∧ t.mag = s.mag ∧ t.oc = s.oc ∧ SamePower s t ∧
          SameLogs s t ∧ SameArrays s t ∧ SameClock s t) ∧
      (∀ item, s.permission = some item →
        ∃ t, exec (.operateClose r token) s = .next t ∧ t.cmd = { s.cmd with slot := none, selectTimer := none } ∧
          Handed (responseFrame r.id 11 (permissionCode item) []) s t ∧ OnlyLinksAndCommand s t)) ∧
    (s.seq.state = .lockout → s.act.deferred = none → s.act.trip = true →
      ∃ t, exec (.operateClose r token) s = .next t ∧ t.act = { s.act with deferred := some .manual } ∧
        t.cmd = { s.cmd with slot := none, selectTimer := none, deferredClose := some r } ∧ t.links = s.links ∧
        SamePath s t ∧ t.seq = s.seq ∧ SamePower s t ∧ SameLogs s t ∧ SameArrays s t ∧ SameClock s t)

/-- R178: an OPERATE that matches a RESTART selection is answered OK and sets the restart mark; with the arbiter idle the reset
waits for the frames then held, the response the last of them; one that matches nothing
is answered NO_SELECT, or REMOTE_DISABLED, and ends a selection of its own origin. -/
def Obligations.OperateRestartOrNothing : Prop :=
  ∀ (r : Req) (token : Word) (s : State), NothingToGrant s →
    (s.remoteRefused r = false → s.cmd.slot = some ⟨r.origin, .restart, token⟩ →
      ∃ t, exec (.operateRestart r token) s = .next t ∧ t.cmd.restartMark = true ∧ t.cmd.slot = none ∧
        t.cmd.selectTimer = none ∧ t.cmd.seconds = s.cmd.seconds ∧ Handed (responseFrame r.id 11 .ok []) s t ∧
        (s.cmd.restartMark = false → s.arbiterIdle = true → t.cmd.restartAfter = some t.links.tx.length) ∧
        OnlyLinksAndCommand s t) ∧
    ((∀ sel, s.cmd.slot = some sel → sel.origin = r.origin → sel.token ≠ token) →
      ∃ t, exec (.operateNoSelect r token) s = .next t ∧
        Handed (responseFrame r.id 11 (if s.remoteRefused r then .remoteDisabled else .noSelect) []) s t ∧
        (∀ sel, s.cmd.slot = some sel → sel.origin = r.origin → t.cmd.slot = none ∧ t.cmd.selectTimer = none) ∧
        ((s.cmd.slot = none ∨ ∃ sel, s.cmd.slot = some sel ∧ sel.origin ≠ r.origin) → t.cmd = s.cmd) ∧
        OnlyLinksAndCommand s t)

/-- R174, R99, R177: STATUS_READ and TAG_LIST answer OK and change nothing but the slot of the holder, which STATUS_READ leaves
too. A tag list holds two bytes and ten more for each tag. R175, R128: TIME_SET sets the seconds counter, tries a scheduled test with it, and is
answered OK; that the response follows the CHARGER frame of a started test is log 28's order. -/
def Obligations.ReadAndTimeRequests : Prop :=
  (∀ (r : Req) (s : State), NothingToGrant s →
      (∃ t, exec (.statusRead r) s = .next t ∧ Handed (responseFrame r.id 1 .ok s.statusReadBody) s t ∧
        s.statusReadBody.length = 95 ∧ OnlyLinksAndCommand s t ∧ t.cmd = s.cmd) ∧
      (∃ t, exec (.tagList r) s = .next t ∧ Handed (responseFrame r.id 14 .ok s.tags.listBody) s t ∧
        s.tags.listBody.length = 2 + 10 * s.tags.count ∧ OnlyLinksAndCommand s t)) ∧
  (∀ (r : Req) (v : Long) (s : State), NothingToGrant s →
      ∃ t, exec (.timeSet r v) s = .next t ∧ t.cmd.seconds = v ∧ t.cmd.restartMark = s.cmd.restartMark ∧
        t.links.tx.getLast? = some (responseFrame r.id 2 .ok []) ∧ SamePath s t ∧ SameDrive s t ∧ t.supply = s.supply ∧
        SameLogs s t ∧ SameArrays s t ∧ SameClock s t ∧ ScheduledTry s t v s.now ∧
        (testInterval s.batteryTable = 0 → t.battery = s.battery ∧ Handed (responseFrame r.id 2 .ok []) s t))

/-- R171, R181: a BAD_REQUEST is answered with its own kind code and an empty body; a frame that fails the envelope checks
raises the count of its link, up to 65,535, and has no other effect. R3, R103: a late or duplicate SAMPLE frame, and a CABINET frame
whose number does not follow the last one on a fresh stream, are discarded. -/
def Obligations.MalformedInputsCounted : Prop :=
  (∀ (r : Req) (kind : Byte) (body : List Byte) (s : State), NothingToGrant s →
    ∃ t, exec (.badRequest r kind body) s = .next t ∧
      Handed { kind := 0x33, payload := [r.id, kind, 3] } s t ∧ OnlyLinksAndCommand s t) ∧
  (∀ s : State,
    exec (.discardedFrame .sensor) s =
      .next (s.setLinks { s.links with sensorDiscards := min 65535 (s.links.sensorDiscards + 1) }) ∧
    exec (.discardedFrame .cabinet) s =
      .next (s.setLinks { s.links with cabinetDiscards := min 65535 (s.links.cabinetDiscards + 1) })) ∧
  (∀ (f : SampleFrame) (s : State) (e : Byte), (s.sample.stream = .filling ∨ s.sample.stream = .valid) →
      s.sample.expected = some e → 128 ≤ seqDelta f.seq e → NothingToGrant s → exec (.sampleFrame f) s = .next s) ∧
  (∀ (f : CabinetFrame) (s : State) (l : Byte), s.supply.lastSeq = some l → s.supply.freshness = .fresh →
      (f.seq = l ∨ 128 ≤ seqDelta f.seq l) → NothingToGrant s → exec (.cabinetFrame f) s = .next s)

/-! ## Resets and the restore (spec/06, spec/09, spec/10) -/

/-- R87, R154: both resets clear the Actuator Control and the Fault Log. -/
def Obligations.ResetsClearActuatorAndLog : Prop :=
  ∀ (i : Instr) (s : State), (i = .powerOn ∨ i = .restart ∧ s.restartReady = true) →
    ∃ t, exec i s = .next t ∧
      t.act.trip = false ∧ t.act.close = false ∧ t.act.tripTimer = none ∧ t.act.closeTimer = none ∧ t.act.supervision = .none ∧
      t.act.retry = false ∧ t.act.confirm = .stopped ∧ t.act.heldTrip = false ∧ t.act.deferred = none ∧ t.act.latch = false ∧
      t.faults.ring = [] ∧ t.faults.openRecord = none ∧ t.faults.nextNumber = 0 ∧
      (∀ x ∈ t.reports.records, ∀ f, x.body ≠ .fault f)

/-- R167, R139, R120, R166, R179, R115, R69, R19: what the two resets leave, and in what they differ: the seconds counter, Q
held aside, the START report, and the image of a write that a loss of power cut off. R178: a RESTART resets once the
arbiter is idle and the frames held at its OPERATE have left. Two clauses are the model's choice (log 26): a RESTART that is not
operated or comes earlier changes nothing, and a Q that is held aside already stays aside at a second RESTART. -/
def Obligations.ResetsDiffer : Prop :=
  ∀ s : State,
    (∃ t, exec .powerOn s = .next t ∧ t.cmd.seconds = 0 ∧ t.battery.heldQ = none ∧
      t.reports.records = [newRecord 0 4 0 (.start .powerOn)] ∧ t.store.nv = s.store.nv.interrupted s.store.inFlight ∧
      t.store.tables = romTables ∧ t.supply.power = .start ∧ t.seq.state = .init ∧ t.sample.stream = .absent ∧
      t.sample.view = .unknown ∧ t.cmd.slot = none ∧ t.links.tx = []) ∧
    (s.cmd.restartMark = true → s.arbiterIdle = true → s.cmd.restartAfter = some 0 →
      ∃ t, exec .restart s = .next t ∧ t.cmd.seconds = s.cmd.seconds ∧ t.battery.heldQ = some (s.battery.heldQ.getD s.battery.q) ∧
        t.reports.records = [newRecord 0 4 s.cmd.seconds (.start .restart)] ∧ t.store.nv = s.store.nv ∧
        t.store.tables = romTables ∧ t.supply.power = .start ∧ t.seq.state = .init ∧ t.sample.stream = .absent ∧
        t.sample.view = .unknown ∧ t.cmd.slot = none ∧ t.cmd.restartMark = false ∧ t.links.tx = []) ∧
    ((s.cmd.restartMark = false ∨ s.arbiterIdle = false ∨ s.cmd.restartAfter ≠ some 0) → exec .restart s = .next s)

/-- R167, R168, R140, R165: the restore-complete event: each table takes its image where that is valid, else its ROM
default; B stands at the ceiling; the status-interval and state-record timers start; the restore mark is set. R133, R168, R120: the
state record, with Q held aside ahead of the record's, or its defaults. R101, R102: the tag table rebuilt from its image, or empty
and not durable. R168, R102: the reports of what was replaced, in their order, where the restore ends neither START nor INIT. R110:
START ends where a frame has been accepted; that its presence is the one set at the last frame is log 47's choice. -/
def Obligations.RestorePutsImages : Prop :=
  ∀ (s : State) (c : Countdown), s.store.restoreTimer = some c → s.store.tables.length = 15 → s.nothingPending →
    ∃ t, exec .restoreComplete s = .next t ∧ t.supply.restoreMark = true ∧ t.store.restoreTimer = none ∧
      (∀ id, 1 ≤ id → id ≤ 14 → t.table id =
        match s.store.nv.tables.getD id .missing with
        | .good image => if imageValid id image then image else romTable id
        | _ => romTable id) ∧
      t.reports.budget = airtimeCeiling t.unit ∧
      t.reports.statusTimer = startAt (max s.now c.due) (sec (statusInterval t.unit)) ∧
      t.store.recordTimer = startAt (max s.now c.due) (sec 600) ∧ t.store.nv = s.store.nv ∧
      (s.seq.pendingGroup = none → s.battery.testState = .idle →
        (∀ r, s.store.nv.record = .good r → r.group.toNat < 4 → r.health.toNat < 3 → r.lastResult.toNat < 4 →
          (t.store.activeGroup : Nat) = r.group.toNat ∧ t.battery.health.ctorIdx = r.health.toNat ∧
          t.battery.lastResult.ctorIdx = r.lastResult.toNat ∧ t.battery.lastTime = r.lastTime ∧
          t.battery.failCount = r.failCount.toNat ∧
          t.battery.q = min (qMax t.batteryTable) (s.battery.heldQ.getD r.q.toNat) ∧ t.battery.heldQ = none) ∧
        ((∀ r, s.store.nv.record = .good r → ¬ (r.group.toNat < 4 ∧ r.health.toNat < 3 ∧ r.lastResult.toNat < 4)) →
          t.store.activeGroup = 0 ∧ t.battery.health = .good ∧ t.battery.lastResult = .none ∧ t.battery.lastTime = none ∧
          t.battery.failCount = 0 ∧
          t.battery.q = min (qMax t.batteryTable) (s.battery.heldQ.getD (qMax t.batteryTable / 2)) ∧ t.battery.heldQ = none)) ∧
      (let tagsFit (image : List TagImageRecord) : Prop :=
          image.length ≤ 6 ∧ (∀ x ∈ image, x.crew ≠ 0 ∧ x.kind.toNat ≤ 1) ∧ (image.map TagImageRecord.crew).Nodup
       (∀ image, s.store.nv.tags = .good image → tagsFit image →
          t.tags.durable = true ∧ t.tags.writeState = .idle ∧ t.tags.slots.length = 6 ∧ t.tags.count = image.length ∧
          ∀ i (h : i < image.length), t.tags.at i = some
            { crew := image[i].crew, kind := if image[i].kind = 0 then .hotLine else .closeBlock, origin := image[i].origin,
              placed := image[i].placed, state := .held, stage := .none, request := none }) ∧
       ((∀ image, s.store.nv.tags = .good image → ¬ tagsFit image) →
          t.tags = { slots := List.replicate 6 none, writeState := .idle, durable := false })) ∧
      (s.seq.state = .init → s.sample.stream ≠ .valid → s.act.close = false →
        s.supply.lastSeq = none → s.seq.pendingGroup = none →
        t.reports = { (restoreReports s.store.nv).foldl (fun q x => (q.enter x.1 s.cmd.seconds x.2).1) s.reports with
          budget := t.reports.budget, statusTimer := t.reports.statusTimer } ∧
        t.supply = { s.supply with restoreMark := true } ∧ t.seq = s.seq) ∧
      (s.supply.power = .start → s.supply.lastSeq.isSome = true → s.battery.testState = .idle → s.seq.pendingGroup = none →
        t.supply.power = (if s.supply.present then .normal
          else if t.battery.health = .failed ∨ t.soc ≤ conserveLevel t.batteryTable then .conserve else .carry) ∧
        t.supply.qualification = (if s.supply.present then .qualified else .unqualified)) ∧
      MovedTo c.due s t

/-- R115, R87, R101, R146, R154, R170: the reset state meets every invariant that the other statements carry over a step. -/
def Obligations.ResetMeetsInvariants : Prop :=
  WindowsExact State.reset ∧ ElementsInRange State.reset ∧ PulsesApart State.reset ∧ LatchHolds State.reset ∧
  TagTableSound State.reset ∧ QueueSound State.reset ∧ FaultRingSound State.reset ∧ ChargeBounded State.reset ∧
  TablesValid State.reset ∧ BufferSound State.reset ∧ ArbiterSound State.reset

/-! ## The links (spec/11) -/

/-- R180, R181, R171: the bytes of a REQUEST frame, sent with delimiter, stuffing and CRC, are received as the request they
spell; an OPERATE arrives as one request, whichever of the four rows it turns out to be (R178): it is received as the row without a match,
which is log 28's reading. The bytes of a SAMPLE frame
and of a CABINET frame are received as that frame. -/
def Obligations.InboundFramesRoundTrip : Prop :=
  (∀ (i : Instr) (payload : List Byte), WellFormed i = true → requestPayload i = some payload →
      Receiver.feedAll .cabinet .hunting (OutFrame.wire ⟨0x22, payload⟩) = (.hunting, [i.asReceived])) ∧
  ((∀ f : SampleFrame, Receiver.feedAll .sensor .hunting (OutFrame.wire ⟨0x11, samplePayload f⟩) = (.hunting, [.sampleFrame f])) ∧
    (∀ f : CabinetFrame, Receiver.feedAll .cabinet .hunting (OutFrame.wire ⟨0x21, cabinetPayload f⟩) = (.hunting, [.cabinetFrame f])))
end

