-- ==== Sys2Proof/Laws/State.lean ====
section
/-! SUPPORT. One lemma per field and per update of the state: what writing one part leaves in
every part. Each is true by `rfl`; the brackets keep the kernel from unfolding the written part when a lemma is used. -/

namespace Sys2Proof.Machine

variable (s : State)

@[simp] theorem State.setNow_now (x : Nat) : (s.setNow x).now = x := (rfl)
@[simp] theorem State.setNow_nextSecond (x : Nat) : (s.setNow x).nextSecond = s.nextSecond := (rfl)
@[simp] theorem State.setNow_sample (x : Nat) : (s.setNow x).sample = s.sample := (rfl)
@[simp] theorem State.setNow_mag (x : Nat) : (s.setNow x).mag = s.mag := (rfl)
@[simp] theorem State.setNow_oc (x : Nat) : (s.setNow x).oc = s.oc := (rfl)
@[simp] theorem State.setNow_seq (x : Nat) : (s.setNow x).seq = s.seq := (rfl)
@[simp] theorem State.setNow_act (x : Nat) : (s.setNow x).act = s.act := (rfl)
@[simp] theorem State.setNow_tags (x : Nat) : (s.setNow x).tags = s.tags := (rfl)
@[simp] theorem State.setNow_supply (x : Nat) : (s.setNow x).supply = s.supply := (rfl)
@[simp] theorem State.setNow_battery (x : Nat) : (s.setNow x).battery = s.battery := (rfl)
@[simp] theorem State.setNow_reports (x : Nat) : (s.setNow x).reports = s.reports := (rfl)
@[simp] theorem State.setNow_faults (x : Nat) : (s.setNow x).faults = s.faults := (rfl)
@[simp] theorem State.setNow_store (x : Nat) : (s.setNow x).store = s.store := (rfl)
@[simp] theorem State.setNow_cmd (x : Nat) : (s.setNow x).cmd = s.cmd := (rfl)
@[simp] theorem State.setNow_links (x : Nat) : (s.setNow x).links = s.links := (rfl)
@[simp] theorem State.setNow_free (x : Nat) : (s.setNow x).free = s.free := (rfl)
@[simp] theorem State.setNow_pending (x : Nat) : (s.setNow x).pending = s.pending := (rfl)

@[simp] theorem State.setNextSecond_now (x : Nat) : (s.setNextSecond x).now = s.now := (rfl)
@[simp] theorem State.setNextSecond_nextSecond (x : Nat) : (s.setNextSecond x).nextSecond = x := (rfl)
@[simp] theorem State.setNextSecond_sample (x : Nat) : (s.setNextSecond x).sample = s.sample := (rfl)
@[simp] theorem State.setNextSecond_mag (x : Nat) : (s.setNextSecond x).mag = s.mag := (rfl)
@[simp] theorem State.setNextSecond_oc (x : Nat) : (s.setNextSecond x).oc = s.oc := (rfl)
@[simp] theorem State.setNextSecond_seq (x : Nat) : (s.setNextSecond x).seq = s.seq := (rfl)
@[simp] theorem State.setNextSecond_act (x : Nat) : (s.setNextSecond x).act = s.act := (rfl)
@[simp] theorem State.setNextSecond_tags (x : Nat) : (s.setNextSecond x).tags = s.tags := (rfl)
@[simp] theorem State.setNextSecond_supply (x : Nat) : (s.setNextSecond x).supply = s.supply := (rfl)
@[simp] theorem State.setNextSecond_battery (x : Nat) : (s.setNextSecond x).battery = s.battery := (rfl)
@[simp] theorem State.setNextSecond_reports (x : Nat) : (s.setNextSecond x).reports = s.reports := (rfl)
@[simp] theorem State.setNextSecond_faults (x : Nat) : (s.setNextSecond x).faults = s.faults := (rfl)
@[simp] theorem State.setNextSecond_store (x : Nat) : (s.setNextSecond x).store = s.store := (rfl)
@[simp] theorem State.setNextSecond_cmd (x : Nat) : (s.setNextSecond x).cmd = s.cmd := (rfl)
@[simp] theorem State.setNextSecond_links (x : Nat) : (s.setNextSecond x).links = s.links := (rfl)
@[simp] theorem State.setNextSecond_free (x : Nat) : (s.setNextSecond x).free = s.free := (rfl)
@[simp] theorem State.setNextSecond_pending (x : Nat) : (s.setNextSecond x).pending = s.pending := (rfl)

@[simp] theorem State.setSample_now (x : SampleInterface) : (s.setSample x).now = s.now := (rfl)
@[simp] theorem State.setSample_nextSecond (x : SampleInterface) : (s.setSample x).nextSecond = s.nextSecond := (rfl)
@[simp] theorem State.setSample_sample (x : SampleInterface) : (s.setSample x).sample = x := (rfl)
@[simp] theorem State.setSample_mag (x : SampleInterface) : (s.setSample x).mag = s.mag := (rfl)
@[simp] theorem State.setSample_oc (x : SampleInterface) : (s.setSample x).oc = s.oc := (rfl)
@[simp] theorem State.setSample_seq (x : SampleInterface) : (s.setSample x).seq = s.seq := (rfl)
@[simp] theorem State.setSample_act (x : SampleInterface) : (s.setSample x).act = s.act := (rfl)
@[simp] theorem State.setSample_tags (x : SampleInterface) : (s.setSample x).tags = s.tags := (rfl)
@[simp] theorem State.setSample_supply (x : SampleInterface) : (s.setSample x).supply = s.supply := (rfl)
@[simp] theorem State.setSample_battery (x : SampleInterface) : (s.setSample x).battery = s.battery := (rfl)
@[simp] theorem State.setSample_reports (x : SampleInterface) : (s.setSample x).reports = s.reports := (rfl)
@[simp] theorem State.setSample_faults (x : SampleInterface) : (s.setSample x).faults = s.faults := (rfl)
@[simp] theorem State.setSample_store (x : SampleInterface) : (s.setSample x).store = s.store := (rfl)
@[simp] theorem State.setSample_cmd (x : SampleInterface) : (s.setSample x).cmd = s.cmd := (rfl)
@[simp] theorem State.setSample_links (x : SampleInterface) : (s.setSample x).links = s.links := (rfl)
@[simp] theorem State.setSample_free (x : SampleInterface) : (s.setSample x).free = s.free := (rfl)
@[simp] theorem State.setSample_pending (x : SampleInterface) : (s.setSample x).pending = s.pending := (rfl)

@[simp] theorem State.setMag_now (x : MagnitudeUnit) : (s.setMag x).now = s.now := (rfl)
@[simp] theorem State.setMag_nextSecond (x : MagnitudeUnit) : (s.setMag x).nextSecond = s.nextSecond := (rfl)
@[simp] theorem State.setMag_sample (x : MagnitudeUnit) : (s.setMag x).sample = s.sample := (rfl)
@[simp] theorem State.setMag_mag (x : MagnitudeUnit) : (s.setMag x).mag = x := (rfl)
@[simp] theorem State.setMag_oc (x : MagnitudeUnit) : (s.setMag x).oc = s.oc := (rfl)
@[simp] theorem State.setMag_seq (x : MagnitudeUnit) : (s.setMag x).seq = s.seq := (rfl)
@[simp] theorem State.setMag_act (x : MagnitudeUnit) : (s.setMag x).act = s.act := (rfl)
@[simp] theorem State.setMag_tags (x : MagnitudeUnit) : (s.setMag x).tags = s.tags := (rfl)
@[simp] theorem State.setMag_supply (x : MagnitudeUnit) : (s.setMag x).supply = s.supply := (rfl)
@[simp] theorem State.setMag_battery (x : MagnitudeUnit) : (s.setMag x).battery = s.battery := (rfl)
@[simp] theorem State.setMag_reports (x : MagnitudeUnit) : (s.setMag x).reports = s.reports := (rfl)
@[simp] theorem State.setMag_faults (x : MagnitudeUnit) : (s.setMag x).faults = s.faults := (rfl)
@[simp] theorem State.setMag_store (x : MagnitudeUnit) : (s.setMag x).store = s.store := (rfl)
@[simp] theorem State.setMag_cmd (x : MagnitudeUnit) : (s.setMag x).cmd = s.cmd := (rfl)
@[simp] theorem State.setMag_links (x : MagnitudeUnit) : (s.setMag x).links = s.links := (rfl)
@[simp] theorem State.setMag_free (x : MagnitudeUnit) : (s.setMag x).free = s.free := (rfl)
@[simp] theorem State.setMag_pending (x : MagnitudeUnit) : (s.setMag x).pending = s.pending := (rfl)

@[simp] theorem State.setOc_now (x : OvercurrentUnit) : (s.setOc x).now = s.now := (rfl)
@[simp] theorem State.setOc_nextSecond (x : OvercurrentUnit) : (s.setOc x).nextSecond = s.nextSecond := (rfl)
@[simp] theorem State.setOc_sample (x : OvercurrentUnit) : (s.setOc x).sample = s.sample := (rfl)
@[simp] theorem State.setOc_mag (x : OvercurrentUnit) : (s.setOc x).mag = s.mag := (rfl)
@[simp] theorem State.setOc_oc (x : OvercurrentUnit) : (s.setOc x).oc = x := (rfl)
@[simp] theorem State.setOc_seq (x : OvercurrentUnit) : (s.setOc x).seq = s.seq := (rfl)
@[simp] theorem State.setOc_act (x : OvercurrentUnit) : (s.setOc x).act = s.act := (rfl)
@[simp] theorem State.setOc_tags (x : OvercurrentUnit) : (s.setOc x).tags = s.tags := (rfl)
@[simp] theorem State.setOc_supply (x : OvercurrentUnit) : (s.setOc x).supply = s.supply := (rfl)
@[simp] theorem State.setOc_battery (x : OvercurrentUnit) : (s.setOc x).battery = s.battery := (rfl)
@[simp] theorem State.setOc_reports (x : OvercurrentUnit) : (s.setOc x).reports = s.reports := (rfl)
@[simp] theorem State.setOc_faults (x : OvercurrentUnit) : (s.setOc x).faults = s.faults := (rfl)
@[simp] theorem State.setOc_store (x : OvercurrentUnit) : (s.setOc x).store = s.store := (rfl)
@[simp] theorem State.setOc_cmd (x : OvercurrentUnit) : (s.setOc x).cmd = s.cmd := (rfl)
@[simp] theorem State.setOc_links (x : OvercurrentUnit) : (s.setOc x).links = s.links := (rfl)
@[simp] theorem State.setOc_free (x : OvercurrentUnit) : (s.setOc x).free = s.free := (rfl)
@[simp] theorem State.setOc_pending (x : OvercurrentUnit) : (s.setOc x).pending = s.pending := (rfl)

@[simp] theorem State.setSeq_now (x : SequenceController) : (s.setSeq x).now = s.now := (rfl)
@[simp] theorem State.setSeq_nextSecond (x : SequenceController) : (s.setSeq x).nextSecond = s.nextSecond := (rfl)
@[simp] theorem State.setSeq_sample (x : SequenceController) : (s.setSeq x).sample = s.sample := (rfl)
@[simp] theorem State.setSeq_mag (x : SequenceController) : (s.setSeq x).mag = s.mag := (rfl)
@[simp] theorem State.setSeq_oc (x : SequenceController) : (s.setSeq x).oc = s.oc := (rfl)
@[simp] theorem State.setSeq_seq (x : SequenceController) : (s.setSeq x).seq = x := (rfl)
@[simp] theorem State.setSeq_act (x : SequenceController) : (s.setSeq x).act = s.act := (rfl)
@[simp] theorem State.setSeq_tags (x : SequenceController) : (s.setSeq x).tags = s.tags := (rfl)
@[simp] theorem State.setSeq_supply (x : SequenceController) : (s.setSeq x).supply = s.supply := (rfl)
@[simp] theorem State.setSeq_battery (x : SequenceController) : (s.setSeq x).battery = s.battery := (rfl)
@[simp] theorem State.setSeq_reports (x : SequenceController) : (s.setSeq x).reports = s.reports := (rfl)
@[simp] theorem State.setSeq_faults (x : SequenceController) : (s.setSeq x).faults = s.faults := (rfl)
@[simp] theorem State.setSeq_store (x : SequenceController) : (s.setSeq x).store = s.store := (rfl)
@[simp] theorem State.setSeq_cmd (x : SequenceController) : (s.setSeq x).cmd = s.cmd := (rfl)
@[simp] theorem State.setSeq_links (x : SequenceController) : (s.setSeq x).links = s.links := (rfl)
@[simp] theorem State.setSeq_free (x : SequenceController) : (s.setSeq x).free = s.free := (rfl)
@[simp] theorem State.setSeq_pending (x : SequenceController) : (s.setSeq x).pending = s.pending := (rfl)

@[simp] theorem State.setAct_now (x : ActuatorControl) : (s.setAct x).now = s.now := (rfl)
@[simp] theorem State.setAct_nextSecond (x : ActuatorControl) : (s.setAct x).nextSecond = s.nextSecond := (rfl)
@[simp] theorem State.setAct_sample (x : ActuatorControl) : (s.setAct x).sample = s.sample := (rfl)
@[simp] theorem State.setAct_mag (x : ActuatorControl) : (s.setAct x).mag = s.mag := (rfl)
@[simp] theorem State.setAct_oc (x : ActuatorControl) : (s.setAct x).oc = s.oc := (rfl)
@[simp] theorem State.setAct_seq (x : ActuatorControl) : (s.setAct x).seq = s.seq := (rfl)
@[simp] theorem State.setAct_act (x : ActuatorControl) : (s.setAct x).act = x := (rfl)
@[simp] theorem State.setAct_tags (x : ActuatorControl) : (s.setAct x).tags = s.tags := (rfl)
@[simp] theorem State.setAct_supply (x : ActuatorControl) : (s.setAct x).supply = s.supply := (rfl)
@[simp] theorem State.setAct_battery (x : ActuatorControl) : (s.setAct x).battery = s.battery := (rfl)
@[simp] theorem State.setAct_reports (x : ActuatorControl) : (s.setAct x).reports = s.reports := (rfl)
@[simp] theorem State.setAct_faults (x : ActuatorControl) : (s.setAct x).faults = s.faults := (rfl)
@[simp] theorem State.setAct_store (x : ActuatorControl) : (s.setAct x).store = s.store := (rfl)
@[simp] theorem State.setAct_cmd (x : ActuatorControl) : (s.setAct x).cmd = s.cmd := (rfl)
@[simp] theorem State.setAct_links (x : ActuatorControl) : (s.setAct x).links = s.links := (rfl)
@[simp] theorem State.setAct_free (x : ActuatorControl) : (s.setAct x).free = s.free := (rfl)
@[simp] theorem State.setAct_pending (x : ActuatorControl) : (s.setAct x).pending = s.pending := (rfl)

@[simp] theorem State.setTags_now (x : TagTable) : (s.setTags x).now = s.now := (rfl)
@[simp] theorem State.setTags_nextSecond (x : TagTable) : (s.setTags x).nextSecond = s.nextSecond := (rfl)
@[simp] theorem State.setTags_sample (x : TagTable) : (s.setTags x).sample = s.sample := (rfl)
@[simp] theorem State.setTags_mag (x : TagTable) : (s.setTags x).mag = s.mag := (rfl)
@[simp] theorem State.setTags_oc (x : TagTable) : (s.setTags x).oc = s.oc := (rfl)
@[simp] theorem State.setTags_seq (x : TagTable) : (s.setTags x).seq = s.seq := (rfl)
@[simp] theorem State.setTags_act (x : TagTable) : (s.setTags x).act = s.act := (rfl)
@[simp] theorem State.setTags_tags (x : TagTable) : (s.setTags x).tags = x := (rfl)
@[simp] theorem State.setTags_supply (x : TagTable) : (s.setTags x).supply = s.supply := (rfl)
@[simp] theorem State.setTags_battery (x : TagTable) : (s.setTags x).battery = s.battery := (rfl)
@[simp] theorem State.setTags_reports (x : TagTable) : (s.setTags x).reports = s.reports := (rfl)
@[simp] theorem State.setTags_faults (x : TagTable) : (s.setTags x).faults = s.faults := (rfl)
@[simp] theorem State.setTags_store (x : TagTable) : (s.setTags x).store = s.store := (rfl)
@[simp] theorem State.setTags_cmd (x : TagTable) : (s.setTags x).cmd = s.cmd := (rfl)
@[simp] theorem State.setTags_links (x : TagTable) : (s.setTags x).links = s.links := (rfl)
@[simp] theorem State.setTags_free (x : TagTable) : (s.setTags x).free = s.free := (rfl)
@[simp] theorem State.setTags_pending (x : TagTable) : (s.setTags x).pending = s.pending := (rfl)

@[simp] theorem State.setSupply_now (x : SupplyMonitor) : (s.setSupply x).now = s.now := (rfl)
@[simp] theorem State.setSupply_nextSecond (x : SupplyMonitor) : (s.setSupply x).nextSecond = s.nextSecond := (rfl)
@[simp] theorem State.setSupply_sample (x : SupplyMonitor) : (s.setSupply x).sample = s.sample := (rfl)
@[simp] theorem State.setSupply_mag (x : SupplyMonitor) : (s.setSupply x).mag = s.mag := (rfl)
@[simp] theorem State.setSupply_oc (x : SupplyMonitor) : (s.setSupply x).oc = s.oc := (rfl)
@[simp] theorem State.setSupply_seq (x : SupplyMonitor) : (s.setSupply x).seq = s.seq := (rfl)
@[simp] theorem State.setSupply_act (x : SupplyMonitor) : (s.setSupply x).act = s.act := (rfl)
@[simp] theorem State.setSupply_tags (x : SupplyMonitor) : (s.setSupply x).tags = s.tags := (rfl)
@[simp] theorem State.setSupply_supply (x : SupplyMonitor) : (s.setSupply x).supply = x := (rfl)
@[simp] theorem State.setSupply_battery (x : SupplyMonitor) : (s.setSupply x).battery = s.battery := (rfl)
@[simp] theorem State.setSupply_reports (x : SupplyMonitor) : (s.setSupply x).reports = s.reports := (rfl)
@[simp] theorem State.setSupply_faults (x : SupplyMonitor) : (s.setSupply x).faults = s.faults := (rfl)
@[simp] theorem State.setSupply_store (x : SupplyMonitor) : (s.setSupply x).store = s.store := (rfl)
@[simp] theorem State.setSupply_cmd (x : SupplyMonitor) : (s.setSupply x).cmd = s.cmd := (rfl)
@[simp] theorem State.setSupply_links (x : SupplyMonitor) : (s.setSupply x).links = s.links := (rfl)
@[simp] theorem State.setSupply_free (x : SupplyMonitor) : (s.setSupply x).free = s.free := (rfl)
@[simp] theorem State.setSupply_pending (x : SupplyMonitor) : (s.setSupply x).pending = s.pending := (rfl)

@[simp] theorem State.setBattery_now (x : BatteryUnit) : (s.setBattery x).now = s.now := (rfl)
@[simp] theorem State.setBattery_nextSecond (x : BatteryUnit) : (s.setBattery x).nextSecond = s.nextSecond := (rfl)
@[simp] theorem State.setBattery_sample (x : BatteryUnit) : (s.setBattery x).sample = s.sample := (rfl)
@[simp] theorem State.setBattery_mag (x : BatteryUnit) : (s.setBattery x).mag = s.mag := (rfl)
@[simp] theorem State.setBattery_oc (x : BatteryUnit) : (s.setBattery x).oc = s.oc := (rfl)
@[simp] theorem State.setBattery_seq (x : BatteryUnit) : (s.setBattery x).seq = s.seq := (rfl)
@[simp] theorem State.setBattery_act (x : BatteryUnit) : (s.setBattery x).act = s.act := (rfl)
@[simp] theorem State.setBattery_tags (x : BatteryUnit) : (s.setBattery x).tags = s.tags := (rfl)
@[simp] theorem State.setBattery_supply (x : BatteryUnit) : (s.setBattery x).supply = s.supply := (rfl)
@[simp] theorem State.setBattery_battery (x : BatteryUnit) : (s.setBattery x).battery = x := (rfl)
@[simp] theorem State.setBattery_reports (x : BatteryUnit) : (s.setBattery x).reports = s.reports := (rfl)
@[simp] theorem State.setBattery_faults (x : BatteryUnit) : (s.setBattery x).faults = s.faults := (rfl)
@[simp] theorem State.setBattery_store (x : BatteryUnit) : (s.setBattery x).store = s.store := (rfl)
@[simp] theorem State.setBattery_cmd (x : BatteryUnit) : (s.setBattery x).cmd = s.cmd := (rfl)
@[simp] theorem State.setBattery_links (x : BatteryUnit) : (s.setBattery x).links = s.links := (rfl)
@[simp] theorem State.setBattery_free (x : BatteryUnit) : (s.setBattery x).free = s.free := (rfl)
@[simp] theorem State.setBattery_pending (x : BatteryUnit) : (s.setBattery x).pending = s.pending := (rfl)

@[simp] theorem State.setReports_now (x : ReportQueue) : (s.setReports x).now = s.now := (rfl)
@[simp] theorem State.setReports_nextSecond (x : ReportQueue) : (s.setReports x).nextSecond = s.nextSecond := (rfl)
@[simp] theorem State.setReports_sample (x : ReportQueue) : (s.setReports x).sample = s.sample := (rfl)
@[simp] theorem State.setReports_mag (x : ReportQueue) : (s.setReports x).mag = s.mag := (rfl)
@[simp] theorem State.setReports_oc (x : ReportQueue) : (s.setReports x).oc = s.oc := (rfl)
@[simp] theorem State.setReports_seq (x : ReportQueue) : (s.setReports x).seq = s.seq := (rfl)
@[simp] theorem State.setReports_act (x : ReportQueue) : (s.setReports x).act = s.act := (rfl)
@[simp] theorem State.setReports_tags (x : ReportQueue) : (s.setReports x).tags = s.tags := (rfl)
@[simp] theorem State.setReports_supply (x : ReportQueue) : (s.setReports x).supply = s.supply := (rfl)
@[simp] theorem State.setReports_battery (x : ReportQueue) : (s.setReports x).battery = s.battery := (rfl)
@[simp] theorem State.setReports_reports (x : ReportQueue) : (s.setReports x).reports = x := (rfl)
@[simp] theorem State.setReports_faults (x : ReportQueue) : (s.setReports x).faults = s.faults := (rfl)
@[simp] theorem State.setReports_store (x : ReportQueue) : (s.setReports x).store = s.store := (rfl)
@[simp] theorem State.setReports_cmd (x : ReportQueue) : (s.setReports x).cmd = s.cmd := (rfl)
@[simp] theorem State.setReports_links (x : ReportQueue) : (s.setReports x).links = s.links := (rfl)
@[simp] theorem State.setReports_free (x : ReportQueue) : (s.setReports x).free = s.free := (rfl)
@[simp] theorem State.setReports_pending (x : ReportQueue) : (s.setReports x).pending = s.pending := (rfl)

@[simp] theorem State.setFaults_now (x : FaultLog) : (s.setFaults x).now = s.now := (rfl)
@[simp] theorem State.setFaults_nextSecond (x : FaultLog) : (s.setFaults x).nextSecond = s.nextSecond := (rfl)
@[simp] theorem State.setFaults_sample (x : FaultLog) : (s.setFaults x).sample = s.sample := (rfl)
@[simp] theorem State.setFaults_mag (x : FaultLog) : (s.setFaults x).mag = s.mag := (rfl)
@[simp] theorem State.setFaults_oc (x : FaultLog) : (s.setFaults x).oc = s.oc := (rfl)
@[simp] theorem State.setFaults_seq (x : FaultLog) : (s.setFaults x).seq = s.seq := (rfl)
@[simp] theorem State.setFaults_act (x : FaultLog) : (s.setFaults x).act = s.act := (rfl)
@[simp] theorem State.setFaults_tags (x : FaultLog) : (s.setFaults x).tags = s.tags := (rfl)
@[simp] theorem State.setFaults_supply (x : FaultLog) : (s.setFaults x).supply = s.supply := (rfl)
@[simp] theorem State.setFaults_battery (x : FaultLog) : (s.setFaults x).battery = s.battery := (rfl)
@[simp] theorem State.setFaults_reports (x : FaultLog) : (s.setFaults x).reports = s.reports := (rfl)
@[simp] theorem State.setFaults_faults (x : FaultLog) : (s.setFaults x).faults = x := (rfl)
@[simp] theorem State.setFaults_store (x : FaultLog) : (s.setFaults x).store = s.store := (rfl)
@[simp] theorem State.setFaults_cmd (x : FaultLog) : (s.setFaults x).cmd = s.cmd := (rfl)
@[simp] theorem State.setFaults_links (x : FaultLog) : (s.setFaults x).links = s.links := (rfl)
@[simp] theorem State.setFaults_free (x : FaultLog) : (s.setFaults x).free = s.free := (rfl)
@[simp] theorem State.setFaults_pending (x : FaultLog) : (s.setFaults x).pending = s.pending := (rfl)

@[simp] theorem State.setStore_now (x : TableStore) : (s.setStore x).now = s.now := (rfl)
@[simp] theorem State.setStore_nextSecond (x : TableStore) : (s.setStore x).nextSecond = s.nextSecond := (rfl)
@[simp] theorem State.setStore_sample (x : TableStore) : (s.setStore x).sample = s.sample := (rfl)
@[simp] theorem State.setStore_mag (x : TableStore) : (s.setStore x).mag = s.mag := (rfl)
@[simp] theorem State.setStore_oc (x : TableStore) : (s.setStore x).oc = s.oc := (rfl)
@[simp] theorem State.setStore_seq (x : TableStore) : (s.setStore x).seq = s.seq := (rfl)
@[simp] theorem State.setStore_act (x : TableStore) : (s.setStore x).act = s.act := (rfl)
@[simp] theorem State.setStore_tags (x : TableStore) : (s.setStore x).tags = s.tags := (rfl)
@[simp] theorem State.setStore_supply (x : TableStore) : (s.setStore x).supply = s.supply := (rfl)
@[simp] theorem State.setStore_battery (x : TableStore) : (s.setStore x).battery = s.battery := (rfl)
@[simp] theorem State.setStore_reports (x : TableStore) : (s.setStore x).reports = s.reports := (rfl)
@[simp] theorem State.setStore_faults (x : TableStore) : (s.setStore x).faults = s.faults := (rfl)
@[simp] theorem State.setStore_store (x : TableStore) : (s.setStore x).store = x := (rfl)
@[simp] theorem State.setStore_cmd (x : TableStore) : (s.setStore x).cmd = s.cmd := (rfl)
@[simp] theorem State.setStore_links (x : TableStore) : (s.setStore x).links = s.links := (rfl)
@[simp] theorem State.setStore_free (x : TableStore) : (s.setStore x).free = s.free := (rfl)
@[simp] theorem State.setStore_pending (x : TableStore) : (s.setStore x).pending = s.pending := (rfl)

@[simp] theorem State.setCmd_now (x : CommandUnit) : (s.setCmd x).now = s.now := (rfl)
@[simp] theorem State.setCmd_nextSecond (x : CommandUnit) : (s.setCmd x).nextSecond = s.nextSecond := (rfl)
@[simp] theorem State.setCmd_sample (x : CommandUnit) : (s.setCmd x).sample = s.sample := (rfl)
@[simp] theorem State.setCmd_mag (x : CommandUnit) : (s.setCmd x).mag = s.mag := (rfl)
@[simp] theorem State.setCmd_oc (x : CommandUnit) : (s.setCmd x).oc = s.oc := (rfl)
@[simp] theorem State.setCmd_seq (x : CommandUnit) : (s.setCmd x).seq = s.seq := (rfl)
@[simp] theorem State.setCmd_act (x : CommandUnit) : (s.setCmd x).act = s.act := (rfl)
@[simp] theorem State.setCmd_tags (x : CommandUnit) : (s.setCmd x).tags = s.tags := (rfl)
@[simp] theorem State.setCmd_supply (x : CommandUnit) : (s.setCmd x).supply = s.supply := (rfl)
@[simp] theorem State.setCmd_battery (x : CommandUnit) : (s.setCmd x).battery = s.battery := (rfl)
@[simp] theorem State.setCmd_reports (x : CommandUnit) : (s.setCmd x).reports = s.reports := (rfl)
@[simp] theorem State.setCmd_faults (x : CommandUnit) : (s.setCmd x).faults = s.faults := (rfl)
@[simp] theorem State.setCmd_store (x : CommandUnit) : (s.setCmd x).store = s.store := (rfl)
@[simp] theorem State.setCmd_cmd (x : CommandUnit) : (s.setCmd x).cmd = x := (rfl)
@[simp] theorem State.setCmd_links (x : CommandUnit) : (s.setCmd x).links = s.links := (rfl)
@[simp] theorem State.setCmd_free (x : CommandUnit) : (s.setCmd x).free = s.free := (rfl)
@[simp] theorem State.setCmd_pending (x : CommandUnit) : (s.setCmd x).pending = s.pending := (rfl)

@[simp] theorem State.setLinks_now (x : Links) : (s.setLinks x).now = s.now := (rfl)
@[simp] theorem State.setLinks_nextSecond (x : Links) : (s.setLinks x).nextSecond = s.nextSecond := (rfl)
@[simp] theorem State.setLinks_sample (x : Links) : (s.setLinks x).sample = s.sample := (rfl)
@[simp] theorem State.setLinks_mag (x : Links) : (s.setLinks x).mag = s.mag := (rfl)
@[simp] theorem State.setLinks_oc (x : Links) : (s.setLinks x).oc = s.oc := (rfl)
@[simp] theorem State.setLinks_seq (x : Links) : (s.setLinks x).seq = s.seq := (rfl)
@[simp] theorem State.setLinks_act (x : Links) : (s.setLinks x).act = s.act := (rfl)
@[simp] theorem State.setLinks_tags (x : Links) : (s.setLinks x).tags = s.tags := (rfl)
@[simp] theorem State.setLinks_supply (x : Links) : (s.setLinks x).supply = s.supply := (rfl)
@[simp] theorem State.setLinks_battery (x : Links) : (s.setLinks x).battery = s.battery := (rfl)
@[simp] theorem State.setLinks_reports (x : Links) : (s.setLinks x).reports = s.reports := (rfl)
@[simp] theorem State.setLinks_faults (x : Links) : (s.setLinks x).faults = s.faults := (rfl)
@[simp] theorem State.setLinks_store (x : Links) : (s.setLinks x).store = s.store := (rfl)
@[simp] theorem State.setLinks_cmd (x : Links) : (s.setLinks x).cmd = s.cmd := (rfl)
@[simp] theorem State.setLinks_links (x : Links) : (s.setLinks x).links = x := (rfl)
@[simp] theorem State.setLinks_free (x : Links) : (s.setLinks x).free = s.free := (rfl)
@[simp] theorem State.setLinks_pending (x : Links) : (s.setLinks x).pending = s.pending := (rfl)

@[simp] theorem State.setFree_now (x : Nat) : (s.setFree x).now = s.now := (rfl)
@[simp] theorem State.setFree_nextSecond (x : Nat) : (s.setFree x).nextSecond = s.nextSecond := (rfl)
@[simp] theorem State.setFree_sample (x : Nat) : (s.setFree x).sample = s.sample := (rfl)
@[simp] theorem State.setFree_mag (x : Nat) : (s.setFree x).mag = s.mag := (rfl)
@[simp] theorem State.setFree_oc (x : Nat) : (s.setFree x).oc = s.oc := (rfl)
@[simp] theorem State.setFree_seq (x : Nat) : (s.setFree x).seq = s.seq := (rfl)
@[simp] theorem State.setFree_act (x : Nat) : (s.setFree x).act = s.act := (rfl)
@[simp] theorem State.setFree_tags (x : Nat) : (s.setFree x).tags = s.tags := (rfl)
@[simp] theorem State.setFree_supply (x : Nat) : (s.setFree x).supply = s.supply := (rfl)
@[simp] theorem State.setFree_battery (x : Nat) : (s.setFree x).battery = s.battery := (rfl)
@[simp] theorem State.setFree_reports (x : Nat) : (s.setFree x).reports = s.reports := (rfl)
@[simp] theorem State.setFree_faults (x : Nat) : (s.setFree x).faults = s.faults := (rfl)
@[simp] theorem State.setFree_store (x : Nat) : (s.setFree x).store = s.store := (rfl)
@[simp] theorem State.setFree_cmd (x : Nat) : (s.setFree x).cmd = s.cmd := (rfl)
@[simp] theorem State.setFree_links (x : Nat) : (s.setFree x).links = s.links := (rfl)
@[simp] theorem State.setFree_free (x : Nat) : (s.setFree x).free = x := (rfl)
@[simp] theorem State.setFree_pending (x : Nat) : (s.setFree x).pending = s.pending := (rfl)

@[simp] theorem State.setPending_now (x : List Instr) : (s.setPending x).now = s.now := (rfl)
@[simp] theorem State.setPending_nextSecond (x : List Instr) : (s.setPending x).nextSecond = s.nextSecond := (rfl)
@[simp] theorem State.setPending_sample (x : List Instr) : (s.setPending x).sample = s.sample := (rfl)
@[simp] theorem State.setPending_mag (x : List Instr) : (s.setPending x).mag = s.mag := (rfl)
@[simp] theorem State.setPending_oc (x : List Instr) : (s.setPending x).oc = s.oc := (rfl)
@[simp] theorem State.setPending_seq (x : List Instr) : (s.setPending x).seq = s.seq := (rfl)
@[simp] theorem State.setPending_act (x : List Instr) : (s.setPending x).act = s.act := (rfl)
@[simp] theorem State.setPending_tags (x : List Instr) : (s.setPending x).tags = s.tags := (rfl)
@[simp] theorem State.setPending_supply (x : List Instr) : (s.setPending x).supply = s.supply := (rfl)
@[simp] theorem State.setPending_battery (x : List Instr) : (s.setPending x).battery = s.battery := (rfl)
@[simp] theorem State.setPending_reports (x : List Instr) : (s.setPending x).reports = s.reports := (rfl)
@[simp] theorem State.setPending_faults (x : List Instr) : (s.setPending x).faults = s.faults := (rfl)
@[simp] theorem State.setPending_store (x : List Instr) : (s.setPending x).store = s.store := (rfl)
@[simp] theorem State.setPending_cmd (x : List Instr) : (s.setPending x).cmd = s.cmd := (rfl)
@[simp] theorem State.setPending_links (x : List Instr) : (s.setPending x).links = s.links := (rfl)
@[simp] theorem State.setPending_free (x : List Instr) : (s.setPending x).free = s.free := (rfl)
@[simp] theorem State.setPending_pending (x : List Instr) : (s.setPending x).pending = x := (rfl)

/-! A part of a state chosen by a condition. -/

@[simp] theorem State.ite_now (c : Prop) [Decidable c] (a b : State) : (if c then a else b).now = if c then a.now else b.now := by
  split <;> rfl
@[simp] theorem State.ite_nextSecond (c : Prop) [Decidable c] (a b : State) : (if c then a else b).nextSecond = if c then a.nextSecond else b.nextSecond := by
  split <;> rfl
@[simp] theorem State.ite_sample (c : Prop) [Decidable c] (a b : State) : (if c then a else b).sample = if c then a.sample else b.sample := by
  split <;> rfl
@[simp] theorem State.ite_mag (c : Prop) [Decidable c] (a b : State) : (if c then a else b).mag = if c then a.mag else b.mag := by
  split <;> rfl
@[simp] theorem State.ite_oc (c : Prop) [Decidable c] (a b : State) : (if c then a else b).oc = if c then a.oc else b.oc := by
  split <;> rfl
@[simp] theorem State.ite_seq (c : Prop) [Decidable c] (a b : State) : (if c then a else b).seq = if c then a.seq else b.seq := by
  split <;> rfl
@[simp] theorem State.ite_act (c : Prop) [Decidable c] (a b : State) : (if c then a else b).act = if c then a.act else b.act := by
  split <;> rfl
@[simp] theorem State.ite_tags (c : Prop) [Decidable c] (a b : State) : (if c then a else b).tags = if c then a.tags else b.tags := by
  split <;> rfl
@[simp] theorem State.ite_supply (c : Prop) [Decidable c] (a b : State) : (if c then a else b).supply = if c then a.supply else b.supply := by
  split <;> rfl
@[simp] theorem State.ite_battery (c : Prop) [Decidable c] (a b : State) : (if c then a else b).battery = if c then a.battery else b.battery := by
  split <;> rfl
@[simp] theorem State.ite_reports (c : Prop) [Decidable c] (a b : State) : (if c then a else b).reports = if c then a.reports else b.reports := by
  split <;> rfl
@[simp] theorem State.ite_faults (c : Prop) [Decidable c] (a b : State) : (if c then a else b).faults = if c then a.faults else b.faults := by
  split <;> rfl
@[simp] theorem State.ite_store (c : Prop) [Decidable c] (a b : State) : (if c then a else b).store = if c then a.store else b.store := by
  split <;> rfl
@[simp] theorem State.ite_cmd (c : Prop) [Decidable c] (a b : State) : (if c then a else b).cmd = if c then a.cmd else b.cmd := by
  split <;> rfl
@[simp] theorem State.ite_links (c : Prop) [Decidable c] (a b : State) : (if c then a else b).links = if c then a.links else b.links := by
  split <;> rfl
@[simp] theorem State.ite_free (c : Prop) [Decidable c] (a b : State) : (if c then a else b).free = if c then a.free else b.free := by
  split <;> rfl
@[simp] theorem State.ite_pending (c : Prop) [Decidable c] (a b : State) : (if c then a else b).pending = if c then a.pending else b.pending := by
  split <;> rfl

end Sys2Proof.Machine
end

