-- ==== Sys2Proof/Laws/FramesOps.lean ====
section
/-! SUPPORT. Frames: the parts of the state that the operations of the shared operations, the Fault Log, the charge states, the Table Store and the transitions of the sequence leave as they are. -/

namespace Sys2Proof.Machine

@[simp] theorem State.advanceTo_frame (s : State) (t : Nat) :
    (s.advanceTo t).nextSecond = s.nextSecond ∧ (s.advanceTo t).sample = s.sample ∧ (s.advanceTo t).mag = s.mag ∧
      (s.advanceTo t).oc = s.oc ∧ (s.advanceTo t).seq = s.seq ∧ (s.advanceTo t).act = s.act ∧
      (s.advanceTo t).tags = s.tags ∧ (s.advanceTo t).supply = s.supply ∧ (s.advanceTo t).battery = s.battery ∧
      (s.advanceTo t).reports = s.reports ∧ (s.advanceTo t).faults = s.faults ∧ (s.advanceTo t).store = s.store ∧
      (s.advanceTo t).free = s.free ∧ (s.advanceTo t).pending = s.pending := by
  simp [State.advanceTo]

@[simp] theorem State.hand_frame (s : State) (f : OutFrame) :
    (s.hand f).now = s.now ∧ (s.hand f).nextSecond = s.nextSecond ∧ (s.hand f).sample = s.sample ∧
      (s.hand f).mag = s.mag ∧ (s.hand f).oc = s.oc ∧ (s.hand f).seq = s.seq ∧ (s.hand f).act = s.act ∧
      (s.hand f).tags = s.tags ∧ (s.hand f).supply = s.supply ∧ (s.hand f).battery = s.battery ∧
      (s.hand f).reports = s.reports ∧ (s.hand f).faults = s.faults ∧ (s.hand f).store = s.store ∧
      (s.hand f).cmd = s.cmd ∧ (s.hand f).free = s.free ∧ (s.hand f).pending = s.pending := by
  simp [State.hand]

@[simp] theorem State.respond_frame (s : State) (r : Req) (k : RequestKind) (c : ResultCode) (body : List Byte) :
    (s.respond r k c body).now = s.now ∧ (s.respond r k c body).nextSecond = s.nextSecond ∧
      (s.respond r k c body).sample = s.sample ∧ (s.respond r k c body).mag = s.mag ∧ (s.respond r k c body).oc = s.oc ∧
      (s.respond r k c body).seq = s.seq ∧ (s.respond r k c body).act = s.act ∧ (s.respond r k c body).tags = s.tags ∧
      (s.respond r k c body).supply = s.supply ∧ (s.respond r k c body).battery = s.battery ∧
      (s.respond r k c body).reports = s.reports ∧ (s.respond r k c body).faults = s.faults ∧
      (s.respond r k c body).store = s.store ∧ (s.respond r k c body).cmd = s.cmd ∧
      (s.respond r k c body).free = s.free ∧ (s.respond r k c body).pending = s.pending := by
  simp [State.respond]

@[simp] theorem State.report_frame (s : State) (cls : Nat) (body : ReportBody) :
    (s.report cls body).now = s.now ∧ (s.report cls body).nextSecond = s.nextSecond ∧
      (s.report cls body).sample = s.sample ∧ (s.report cls body).mag = s.mag ∧ (s.report cls body).oc = s.oc ∧
      (s.report cls body).seq = s.seq ∧ (s.report cls body).act = s.act ∧ (s.report cls body).tags = s.tags ∧
      (s.report cls body).supply = s.supply ∧ (s.report cls body).battery = s.battery ∧
      (s.report cls body).faults = s.faults ∧ (s.report cls body).store = s.store ∧ (s.report cls body).cmd = s.cmd ∧
      (s.report cls body).links = s.links ∧ (s.report cls body).free = s.free ∧
      (s.report cls body).pending = s.pending := by
  simp [State.report]

@[simp] theorem State.requestTagWrite_frame (s : State) :
    s.requestTagWrite.now = s.now ∧ s.requestTagWrite.nextSecond = s.nextSecond ∧ s.requestTagWrite.sample = s.sample ∧
      s.requestTagWrite.mag = s.mag ∧ s.requestTagWrite.oc = s.oc ∧ s.requestTagWrite.seq = s.seq ∧
      s.requestTagWrite.act = s.act ∧ s.requestTagWrite.supply = s.supply ∧ s.requestTagWrite.battery = s.battery ∧
      s.requestTagWrite.reports = s.reports ∧ s.requestTagWrite.faults = s.faults ∧ s.requestTagWrite.store = s.store ∧
      s.requestTagWrite.cmd = s.cmd ∧ s.requestTagWrite.links = s.links ∧ s.requestTagWrite.free = s.free ∧
      s.requestTagWrite.pending = s.pending := by
  unfold State.requestTagWrite; (repeat' split) <;> simp

@[simp] theorem State.requestRecordWrite_frame (s : State) (c : WriteCauses) :
    (s.requestRecordWrite c).now = s.now ∧ (s.requestRecordWrite c).nextSecond = s.nextSecond ∧
      (s.requestRecordWrite c).sample = s.sample ∧ (s.requestRecordWrite c).mag = s.mag ∧
      (s.requestRecordWrite c).oc = s.oc ∧ (s.requestRecordWrite c).seq = s.seq ∧ (s.requestRecordWrite c).act = s.act ∧
      (s.requestRecordWrite c).tags = s.tags ∧ (s.requestRecordWrite c).supply = s.supply ∧
      (s.requestRecordWrite c).battery = s.battery ∧ (s.requestRecordWrite c).reports = s.reports ∧
      (s.requestRecordWrite c).faults = s.faults ∧ (s.requestRecordWrite c).cmd = s.cmd ∧
      (s.requestRecordWrite c).links = s.links ∧ (s.requestRecordWrite c).free = s.free ∧
      (s.requestRecordWrite c).pending = s.pending := by
  unfold State.requestRecordWrite; (repeat' split) <;> simp

@[simp] theorem State.requestTableWrite_frame (s : State) :
    s.requestTableWrite.now = s.now ∧ s.requestTableWrite.nextSecond = s.nextSecond ∧
      s.requestTableWrite.sample = s.sample ∧ s.requestTableWrite.mag = s.mag ∧ s.requestTableWrite.oc = s.oc ∧
      s.requestTableWrite.seq = s.seq ∧ s.requestTableWrite.act = s.act ∧ s.requestTableWrite.tags = s.tags ∧
      s.requestTableWrite.supply = s.supply ∧ s.requestTableWrite.battery = s.battery ∧
      s.requestTableWrite.reports = s.reports ∧ s.requestTableWrite.faults = s.faults ∧
      s.requestTableWrite.cmd = s.cmd ∧ s.requestTableWrite.links = s.links ∧ s.requestTableWrite.free = s.free ∧
      s.requestTableWrite.pending = s.pending := by
  simp [State.requestTableWrite]

@[simp] theorem State.grant_frame (s : State) :
    s.grant.now = s.now ∧ s.grant.nextSecond = s.nextSecond ∧ s.grant.sample = s.sample ∧ s.grant.mag = s.mag ∧
      s.grant.oc = s.oc ∧ s.grant.seq = s.seq ∧ s.grant.act = s.act ∧ s.grant.supply = s.supply ∧
      s.grant.battery = s.battery ∧ s.grant.reports = s.reports ∧ s.grant.faults = s.faults ∧ s.grant.cmd = s.cmd ∧
      s.grant.links = s.links ∧ s.grant.free = s.free ∧ s.grant.pending = s.pending := by
  unfold State.grant; (repeat' split) <;> simp

@[simp] theorem State.faultOpen_frame (s : State) :
    s.faultOpen.now = s.now ∧ s.faultOpen.nextSecond = s.nextSecond ∧ s.faultOpen.sample = s.sample ∧
      s.faultOpen.mag = s.mag ∧ s.faultOpen.oc = s.oc ∧ s.faultOpen.seq = s.seq ∧ s.faultOpen.act = s.act ∧
      s.faultOpen.tags = s.tags ∧ s.faultOpen.supply = s.supply ∧ s.faultOpen.battery = s.battery ∧
      s.faultOpen.reports = s.reports ∧ s.faultOpen.store = s.store ∧ s.faultOpen.cmd = s.cmd ∧
      s.faultOpen.links = s.links ∧ s.faultOpen.free = s.free ∧ s.faultOpen.pending = s.pending := by
  unfold State.faultOpen; (repeat' split) <;> simp

@[simp] theorem State.faultSummary_frame (s : State) (m : Summary) :
    (s.faultSummary m).now = s.now ∧ (s.faultSummary m).nextSecond = s.nextSecond ∧
      (s.faultSummary m).sample = s.sample ∧ (s.faultSummary m).mag = s.mag ∧ (s.faultSummary m).oc = s.oc ∧
      (s.faultSummary m).seq = s.seq ∧ (s.faultSummary m).act = s.act ∧ (s.faultSummary m).tags = s.tags ∧
      (s.faultSummary m).supply = s.supply ∧ (s.faultSummary m).battery = s.battery ∧
      (s.faultSummary m).reports = s.reports ∧ (s.faultSummary m).store = s.store ∧ (s.faultSummary m).cmd = s.cmd ∧
      (s.faultSummary m).links = s.links ∧ (s.faultSummary m).free = s.free ∧ (s.faultSummary m).pending = s.pending := by
  simp [State.faultSummary]

@[simp] theorem State.faultDecision_frame (s : State) (e : Elements) :
    (s.faultDecision e).now = s.now ∧ (s.faultDecision e).nextSecond = s.nextSecond ∧
      (s.faultDecision e).sample = s.sample ∧ (s.faultDecision e).mag = s.mag ∧ (s.faultDecision e).oc = s.oc ∧
      (s.faultDecision e).seq = s.seq ∧ (s.faultDecision e).act = s.act ∧ (s.faultDecision e).tags = s.tags ∧
      (s.faultDecision e).supply = s.supply ∧ (s.faultDecision e).battery = s.battery ∧
      (s.faultDecision e).reports = s.reports ∧ (s.faultDecision e).store = s.store ∧ (s.faultDecision e).cmd = s.cmd ∧
      (s.faultDecision e).links = s.links ∧ (s.faultDecision e).free = s.free ∧
      (s.faultDecision e).pending = s.pending := by
  simp [State.faultDecision]

@[simp] theorem State.faultClose_frame (s : State) (outcome : FaultOutcome) :
    (s.faultClose outcome).now = s.now ∧ (s.faultClose outcome).nextSecond = s.nextSecond ∧
      (s.faultClose outcome).sample = s.sample ∧ (s.faultClose outcome).mag = s.mag ∧ (s.faultClose outcome).oc = s.oc ∧
      (s.faultClose outcome).seq = s.seq ∧ (s.faultClose outcome).act = s.act ∧ (s.faultClose outcome).tags = s.tags ∧
      (s.faultClose outcome).supply = s.supply ∧ (s.faultClose outcome).battery = s.battery ∧
      (s.faultClose outcome).store = s.store ∧ (s.faultClose outcome).cmd = s.cmd ∧
      (s.faultClose outcome).links = s.links ∧ (s.faultClose outcome).free = s.free ∧
      (s.faultClose outcome).pending = s.pending := by
  unfold State.faultClose; dsimp only; (repeat' split) <;> simp

@[simp] theorem State.faultAllDropped_frame (s : State) :
    s.faultAllDropped.now = s.now ∧ s.faultAllDropped.nextSecond = s.nextSecond ∧ s.faultAllDropped.sample = s.sample ∧
      s.faultAllDropped.mag = s.mag ∧ s.faultAllDropped.oc = s.oc ∧ s.faultAllDropped.seq = s.seq ∧
      s.faultAllDropped.act = s.act ∧ s.faultAllDropped.tags = s.tags ∧ s.faultAllDropped.supply = s.supply ∧
      s.faultAllDropped.battery = s.battery ∧ s.faultAllDropped.reports = s.reports ∧
      s.faultAllDropped.store = s.store ∧ s.faultAllDropped.cmd = s.cmd ∧ s.faultAllDropped.links = s.links ∧
      s.faultAllDropped.free = s.free ∧ s.faultAllDropped.pending = s.pending := by
  unfold State.faultAllDropped; (repeat' split) <;> simp

@[simp] theorem State.chargerSend_frame (s : State) :
    s.chargerSend.now = s.now ∧ s.chargerSend.nextSecond = s.nextSecond ∧ s.chargerSend.sample = s.sample ∧
      s.chargerSend.mag = s.mag ∧ s.chargerSend.oc = s.oc ∧ s.chargerSend.seq = s.seq ∧ s.chargerSend.act = s.act ∧
      s.chargerSend.tags = s.tags ∧ s.chargerSend.supply = s.supply ∧ s.chargerSend.reports = s.reports ∧
      s.chargerSend.faults = s.faults ∧ s.chargerSend.store = s.store ∧ s.chargerSend.cmd = s.cmd ∧
      s.chargerSend.free = s.free ∧ s.chargerSend.pending = s.pending := by
  simp [State.chargerSend]

@[simp] theorem State.chargerUpdate_frame (s : State) :
    s.chargerUpdate.now = s.now ∧ s.chargerUpdate.nextSecond = s.nextSecond ∧ s.chargerUpdate.sample = s.sample ∧
      s.chargerUpdate.mag = s.mag ∧ s.chargerUpdate.oc = s.oc ∧ s.chargerUpdate.seq = s.seq ∧
      s.chargerUpdate.act = s.act ∧ s.chargerUpdate.tags = s.tags ∧ s.chargerUpdate.supply = s.supply ∧
      s.chargerUpdate.reports = s.reports ∧ s.chargerUpdate.faults = s.faults ∧ s.chargerUpdate.store = s.store ∧
      s.chargerUpdate.cmd = s.cmd ∧ s.chargerUpdate.free = s.free ∧ s.chargerUpdate.pending = s.pending := by
  simp [State.chargerUpdate]

@[simp] theorem State.setCharge_frame (s : State) (c : ChargeState) :
    (s.setCharge c).now = s.now ∧ (s.setCharge c).nextSecond = s.nextSecond ∧ (s.setCharge c).sample = s.sample ∧
      (s.setCharge c).mag = s.mag ∧ (s.setCharge c).oc = s.oc ∧ (s.setCharge c).seq = s.seq ∧
      (s.setCharge c).act = s.act ∧ (s.setCharge c).tags = s.tags ∧ (s.setCharge c).supply = s.supply ∧
      (s.setCharge c).reports = s.reports ∧ (s.setCharge c).faults = s.faults ∧ (s.setCharge c).store = s.store ∧
      (s.setCharge c).cmd = s.cmd ∧ (s.setCharge c).links = s.links ∧ (s.setCharge c).free = s.free ∧
      (s.setCharge c).pending = s.pending := by
  simp [State.setCharge]

@[simp] theorem State.restartStream_frame (s : State) :
    s.restartStream.now = s.now ∧ s.restartStream.nextSecond = s.nextSecond ∧ s.restartStream.oc = s.oc ∧
      s.restartStream.seq = s.seq ∧ s.restartStream.act = s.act ∧ s.restartStream.tags = s.tags ∧
      s.restartStream.supply = s.supply ∧ s.restartStream.battery = s.battery ∧ s.restartStream.reports = s.reports ∧
      s.restartStream.faults = s.faults ∧ s.restartStream.store = s.store ∧ s.restartStream.cmd = s.cmd ∧
      s.restartStream.links = s.links ∧ s.restartStream.free = s.free ∧ s.restartStream.pending = s.pending := by
  simp [State.restartStream]

@[simp] theorem State.unitApplied_frame (s : State) (oldFrequency : Nat) :
    (s.unitApplied oldFrequency).now = s.now ∧ (s.unitApplied oldFrequency).nextSecond = s.nextSecond ∧
      (s.unitApplied oldFrequency).oc = s.oc ∧ (s.unitApplied oldFrequency).seq = s.seq ∧
      (s.unitApplied oldFrequency).act = s.act ∧ (s.unitApplied oldFrequency).tags = s.tags ∧
      (s.unitApplied oldFrequency).supply = s.supply ∧ (s.unitApplied oldFrequency).battery = s.battery ∧
      (s.unitApplied oldFrequency).faults = s.faults ∧ (s.unitApplied oldFrequency).store = s.store ∧
      (s.unitApplied oldFrequency).cmd = s.cmd ∧ (s.unitApplied oldFrequency).links = s.links ∧
      (s.unitApplied oldFrequency).free = s.free ∧ (s.unitApplied oldFrequency).pending = s.pending := by
  simp [State.unitApplied]

@[simp] theorem State.batteryApplied_frame (s : State) :
    s.batteryApplied.now = s.now ∧ s.batteryApplied.nextSecond = s.nextSecond ∧ s.batteryApplied.sample = s.sample ∧
      s.batteryApplied.mag = s.mag ∧ s.batteryApplied.oc = s.oc ∧ s.batteryApplied.seq = s.seq ∧
      s.batteryApplied.act = s.act ∧ s.batteryApplied.tags = s.tags ∧ s.batteryApplied.supply = s.supply ∧
      s.batteryApplied.reports = s.reports ∧ s.batteryApplied.faults = s.faults ∧ s.batteryApplied.store = s.store ∧
      s.batteryApplied.cmd = s.cmd ∧ s.batteryApplied.free = s.free ∧ s.batteryApplied.pending = s.pending := by
  simp [State.batteryApplied]

@[simp] theorem State.applyCommit_frame (s : State) (req : Option Req) :
    (s.applyCommit req).now = s.now ∧ (s.applyCommit req).nextSecond = s.nextSecond ∧ (s.applyCommit req).oc = s.oc ∧
      (s.applyCommit req).seq = s.seq ∧ (s.applyCommit req).act = s.act ∧ (s.applyCommit req).tags = s.tags ∧
      (s.applyCommit req).supply = s.supply ∧ (s.applyCommit req).faults = s.faults ∧ (s.applyCommit req).cmd = s.cmd ∧
      (s.applyCommit req).free = s.free ∧ (s.applyCommit req).pending = s.pending := by
  unfold State.applyCommit; dsimp only; (repeat' split) <;> simp

@[simp] theorem State.noticeTestEnded_frame (s : State) :
    s.noticeTestEnded.now = s.now ∧ s.noticeTestEnded.nextSecond = s.nextSecond ∧ s.noticeTestEnded.oc = s.oc ∧
      s.noticeTestEnded.seq = s.seq ∧ s.noticeTestEnded.act = s.act ∧ s.noticeTestEnded.tags = s.tags ∧
      s.noticeTestEnded.supply = s.supply ∧ s.noticeTestEnded.faults = s.faults ∧ s.noticeTestEnded.cmd = s.cmd ∧
      s.noticeTestEnded.free = s.free ∧ s.noticeTestEnded.pending = s.pending := by
  simp [State.noticeTestEnded]

@[simp] theorem State.noticeSequenceRests_frame (s : State) :
    s.noticeSequenceRests.now = s.now ∧ s.noticeSequenceRests.nextSecond = s.nextSecond ∧
      s.noticeSequenceRests.oc = s.oc ∧ s.noticeSequenceRests.seq = s.seq ∧ s.noticeSequenceRests.act = s.act ∧
      s.noticeSequenceRests.tags = s.tags ∧ s.noticeSequenceRests.supply = s.supply ∧
      s.noticeSequenceRests.faults = s.faults ∧ s.noticeSequenceRests.cmd = s.cmd ∧
      s.noticeSequenceRests.free = s.free ∧ s.noticeSequenceRests.pending = s.pending := by
  simp [State.noticeSequenceRests]

@[simp] theorem State.makeActive_frame (s : State) (g : Fin 4) :
    (s.makeActive g).now = s.now ∧ (s.makeActive g).nextSecond = s.nextSecond ∧ (s.makeActive g).sample = s.sample ∧
      (s.makeActive g).mag = s.mag ∧ (s.makeActive g).oc = s.oc ∧ (s.makeActive g).seq = s.seq ∧
      (s.makeActive g).act = s.act ∧ (s.makeActive g).tags = s.tags ∧ (s.makeActive g).supply = s.supply ∧
      (s.makeActive g).battery = s.battery ∧ (s.makeActive g).reports = s.reports ∧ (s.makeActive g).faults = s.faults ∧
      (s.makeActive g).cmd = s.cmd ∧ (s.makeActive g).links = s.links ∧ (s.makeActive g).free = s.free ∧
      (s.makeActive g).pending = s.pending := by
  simp [State.makeActive]

@[simp] theorem State.applyGroup_frame (s : State) :
    s.applyGroup.now = s.now ∧ s.applyGroup.nextSecond = s.nextSecond ∧ s.applyGroup.sample = s.sample ∧
      s.applyGroup.mag = s.mag ∧ s.applyGroup.oc = s.oc ∧ s.applyGroup.act = s.act ∧ s.applyGroup.tags = s.tags ∧
      s.applyGroup.supply = s.supply ∧ s.applyGroup.battery = s.battery ∧ s.applyGroup.faults = s.faults ∧
      s.applyGroup.cmd = s.cmd ∧ s.applyGroup.links = s.links ∧ s.applyGroup.free = s.free ∧
      s.applyGroup.pending = s.pending := by
  unfold State.applyGroup; (repeat' split) <;> simp

@[simp] theorem State.applyPending_frame (s : State) :
    s.applyPending.now = s.now ∧ s.applyPending.nextSecond = s.nextSecond ∧ s.applyPending.oc = s.oc ∧
      s.applyPending.act = s.act ∧ s.applyPending.tags = s.tags ∧ s.applyPending.supply = s.supply ∧
      s.applyPending.faults = s.faults ∧ s.applyPending.cmd = s.cmd ∧ s.applyPending.free = s.free ∧
      s.applyPending.pending = s.pending := by
  simp [State.applyPending]

@[simp] theorem State.abortTest_frame (s : State) (cause : AbortCause) (charge : ChargeState) :
    (s.abortTest cause charge).now = s.now ∧ (s.abortTest cause charge).nextSecond = s.nextSecond ∧
      (s.abortTest cause charge).oc = s.oc ∧ (s.abortTest cause charge).seq = s.seq ∧
      (s.abortTest cause charge).act = s.act ∧ (s.abortTest cause charge).tags = s.tags ∧
      (s.abortTest cause charge).supply = s.supply ∧ (s.abortTest cause charge).faults = s.faults ∧
      (s.abortTest cause charge).cmd = s.cmd ∧ (s.abortTest cause charge).free = s.free ∧
      (s.abortTest cause charge).pending = s.pending := by
  simp [State.abortTest]

@[simp] theorem State.leaveIdle_frame (s : State) :
    s.leaveIdle.now = s.now ∧ s.leaveIdle.nextSecond = s.nextSecond ∧ s.leaveIdle.oc = s.oc ∧ s.leaveIdle.seq = s.seq ∧
      s.leaveIdle.act = s.act ∧ s.leaveIdle.tags = s.tags ∧ s.leaveIdle.supply = s.supply ∧
      s.leaveIdle.faults = s.faults ∧ s.leaveIdle.cmd = s.cmd ∧ s.leaveIdle.free = s.free ∧
      s.leaveIdle.pending = s.pending := by
  simp [State.leaveIdle]

@[simp] theorem State.recordOpen_frame (s : State) :
    s.recordOpen.now = s.now ∧ s.recordOpen.nextSecond = s.nextSecond ∧ s.recordOpen.sample = s.sample ∧
      s.recordOpen.mag = s.mag ∧ s.recordOpen.act = s.act ∧ s.recordOpen.tags = s.tags ∧
      s.recordOpen.supply = s.supply ∧ s.recordOpen.battery = s.battery ∧ s.recordOpen.reports = s.reports ∧
      s.recordOpen.faults = s.faults ∧ s.recordOpen.store = s.store ∧ s.recordOpen.cmd = s.cmd ∧
      s.recordOpen.links = s.links ∧ s.recordOpen.free = s.free ∧ s.recordOpen.pending = s.pending := by
  simp [State.recordOpen]

@[simp] theorem State.closeNotice_frame (s : State) (cause : CloseCause) (openTime : Nat) :
    (s.closeNotice cause openTime).now = s.now ∧ (s.closeNotice cause openTime).nextSecond = s.nextSecond ∧
      (s.closeNotice cause openTime).sample = s.sample ∧ (s.closeNotice cause openTime).mag = s.mag ∧
      (s.closeNotice cause openTime).seq = s.seq ∧ (s.closeNotice cause openTime).act = s.act ∧
      (s.closeNotice cause openTime).tags = s.tags ∧ (s.closeNotice cause openTime).supply = s.supply ∧
      (s.closeNotice cause openTime).battery = s.battery ∧ (s.closeNotice cause openTime).reports = s.reports ∧
      (s.closeNotice cause openTime).faults = s.faults ∧ (s.closeNotice cause openTime).store = s.store ∧
      (s.closeNotice cause openTime).cmd = s.cmd ∧ (s.closeNotice cause openTime).links = s.links ∧
      (s.closeNotice cause openTime).free = s.free ∧ (s.closeNotice cause openTime).pending = s.pending := by
  simp [State.closeNotice]

@[simp] theorem State.recordClosed_frame (s : State) (cause : Option CloseCause) :
    (s.recordClosed cause).now = s.now ∧ (s.recordClosed cause).nextSecond = s.nextSecond ∧
      (s.recordClosed cause).sample = s.sample ∧ (s.recordClosed cause).mag = s.mag ∧
      (s.recordClosed cause).act = s.act ∧ (s.recordClosed cause).tags = s.tags ∧
      (s.recordClosed cause).supply = s.supply ∧ (s.recordClosed cause).battery = s.battery ∧
      (s.recordClosed cause).reports = s.reports ∧ (s.recordClosed cause).faults = s.faults ∧
      (s.recordClosed cause).store = s.store ∧ (s.recordClosed cause).cmd = s.cmd ∧
      (s.recordClosed cause).links = s.links ∧ (s.recordClosed cause).free = s.free ∧
      (s.recordClosed cause).pending = s.pending := by
  unfold State.recordClosed; dsimp only; (repeat' split) <;> simp

@[simp] theorem State.enterLockout_frame (s : State) (reason : LockoutReason) :
    (s.enterLockout reason).now = s.now ∧ (s.enterLockout reason).nextSecond = s.nextSecond ∧
      (s.enterLockout reason).oc = s.oc ∧ (s.enterLockout reason).act = s.act ∧ (s.enterLockout reason).tags = s.tags ∧
      (s.enterLockout reason).supply = s.supply ∧ (s.enterLockout reason).faults = s.faults ∧
      (s.enterLockout reason).cmd = s.cmd ∧ (s.enterLockout reason).free = s.free ∧
      (s.enterLockout reason).pending = s.pending := by
  simp [State.enterLockout]

@[simp] theorem State.latch_frame (s : State) :
    s.latch.now = s.now ∧ s.latch.nextSecond = s.nextSecond ∧ s.latch.sample = s.sample ∧ s.latch.mag = s.mag ∧
      s.latch.oc = s.oc ∧ s.latch.act = s.act ∧ s.latch.tags = s.tags ∧ s.latch.supply = s.supply ∧
      s.latch.battery = s.battery ∧ s.latch.reports = s.reports ∧ s.latch.faults = s.faults ∧ s.latch.store = s.store ∧
      s.latch.cmd = s.cmd ∧ s.latch.links = s.links ∧ s.latch.free = s.free ∧ s.latch.pending = s.pending := by
  simp [State.latch]

@[simp] theorem State.enterTiming_frame (s : State) :
    s.enterTiming.now = s.now ∧ s.enterTiming.nextSecond = s.nextSecond ∧ s.enterTiming.oc = s.oc ∧
      s.enterTiming.act = s.act ∧ s.enterTiming.tags = s.tags ∧ s.enterTiming.supply = s.supply ∧
      s.enterTiming.faults = s.faults ∧ s.enterTiming.cmd = s.cmd ∧ s.enterTiming.free = s.free ∧
      s.enterTiming.pending = s.pending := by
  simp [State.enterTiming]

@[simp] theorem State.enterIdle_frame (s : State) :
    s.enterIdle.now = s.now ∧ s.enterIdle.nextSecond = s.nextSecond ∧ s.enterIdle.oc = s.oc ∧ s.enterIdle.act = s.act ∧
      s.enterIdle.tags = s.tags ∧ s.enterIdle.supply = s.supply ∧ s.enterIdle.cmd = s.cmd ∧ s.enterIdle.free = s.free ∧
      s.enterIdle.pending = s.pending := by
  simp [State.enterIdle]

@[simp] theorem State.enterReclaim_frame (s : State) (cause : ReclaimCause) :
    (s.enterReclaim cause).now = s.now ∧ (s.enterReclaim cause).nextSecond = s.nextSecond ∧
      (s.enterReclaim cause).sample = s.sample ∧ (s.enterReclaim cause).mag = s.mag ∧ (s.enterReclaim cause).oc = s.oc ∧
      (s.enterReclaim cause).act = s.act ∧ (s.enterReclaim cause).tags = s.tags ∧
      (s.enterReclaim cause).supply = s.supply ∧ (s.enterReclaim cause).battery = s.battery ∧
      (s.enterReclaim cause).reports = s.reports ∧ (s.enterReclaim cause).faults = s.faults ∧
      (s.enterReclaim cause).store = s.store ∧ (s.enterReclaim cause).cmd = s.cmd ∧
      (s.enterReclaim cause).links = s.links ∧ (s.enterReclaim cause).free = s.free ∧
      (s.enterReclaim cause).pending = s.pending := by
  simp [State.enterReclaim]

@[simp] theorem State.enterTripping_frame (s : State) (kind : TripKind) (raise : Bool) :
    (s.enterTripping kind raise).now = s.now ∧ (s.enterTripping kind raise).nextSecond = s.nextSecond ∧
      (s.enterTripping kind raise).oc = s.oc ∧ (s.enterTripping kind raise).act = s.act ∧
      (s.enterTripping kind raise).tags = s.tags ∧ (s.enterTripping kind raise).supply = s.supply ∧
      (s.enterTripping kind raise).faults = s.faults ∧ (s.enterTripping kind raise).cmd = s.cmd ∧
      (s.enterTripping kind raise).free = s.free ∧ (s.enterTripping kind raise).pending = s.pending := by
  simp [State.enterTripping]

@[simp] theorem State.enterClosing_frame (s : State) (kind : CloseKind) :
    (s.enterClosing kind).now = s.now ∧ (s.enterClosing kind).nextSecond = s.nextSecond ∧
      (s.enterClosing kind).sample = s.sample ∧ (s.enterClosing kind).mag = s.mag ∧ (s.enterClosing kind).oc = s.oc ∧
      (s.enterClosing kind).act = s.act ∧ (s.enterClosing kind).tags = s.tags ∧
      (s.enterClosing kind).supply = s.supply ∧ (s.enterClosing kind).battery = s.battery ∧
      (s.enterClosing kind).reports = s.reports ∧ (s.enterClosing kind).faults = s.faults ∧
      (s.enterClosing kind).store = s.store ∧ (s.enterClosing kind).cmd = s.cmd ∧
      (s.enterClosing kind).links = s.links ∧ (s.enterClosing kind).free = s.free ∧
      (s.enterClosing kind).pending = s.pending := by
  simp [State.enterClosing]

@[simp] theorem State.initTest_frame (s : State) :
    s.initTest.now = s.now ∧ s.initTest.nextSecond = s.nextSecond ∧ s.initTest.act = s.act ∧ s.initTest.tags = s.tags ∧
      s.initTest.supply = s.supply ∧ s.initTest.cmd = s.cmd ∧ s.initTest.free = s.free ∧
      s.initTest.pending = s.pending := by
  simp [State.initTest]

@[simp] theorem State.mechTest_frame (s : State) :
    s.mechTest.now = s.now ∧ s.mechTest.nextSecond = s.nextSecond ∧ s.mechTest.act = s.act ∧ s.mechTest.tags = s.tags ∧
      s.mechTest.supply = s.supply ∧ s.mechTest.faults = s.faults ∧ s.mechTest.cmd = s.cmd ∧ s.mechTest.free = s.free ∧
      s.mechTest.pending = s.pending := by
  simp [State.mechTest]

@[simp] theorem State.mechFailure_frame (s : State) (cause : MechCause) :
    (s.mechFailure cause).now = s.now ∧ (s.mechFailure cause).nextSecond = s.nextSecond ∧
      (s.mechFailure cause).act = s.act ∧ (s.mechFailure cause).tags = s.tags ∧
      (s.mechFailure cause).supply = s.supply ∧ (s.mechFailure cause).cmd = s.cmd ∧
      (s.mechFailure cause).free = s.free ∧ (s.mechFailure cause).pending = s.pending := by
  simp [State.mechFailure]

@[simp] theorem State.enterDead_frame (s : State) :
    s.enterDead.now = s.now ∧ s.enterDead.nextSecond = s.nextSecond ∧ s.enterDead.sample = s.sample ∧
      s.enterDead.mag = s.mag ∧ s.enterDead.oc = s.oc ∧ s.enterDead.act = s.act ∧ s.enterDead.tags = s.tags ∧
      s.enterDead.supply = s.supply ∧ s.enterDead.battery = s.battery ∧ s.enterDead.reports = s.reports ∧
      s.enterDead.faults = s.faults ∧ s.enterDead.store = s.store ∧ s.enterDead.cmd = s.cmd ∧
      s.enterDead.links = s.links ∧ s.enterDead.free = s.free ∧ s.enterDead.pending = s.pending := by
  simp [State.enterDead]

@[simp] theorem State.openConfirm_frame (s : State) :
    s.openConfirm.now = s.now ∧ s.openConfirm.nextSecond = s.nextSecond ∧ s.openConfirm.act = s.act ∧
      s.openConfirm.tags = s.tags ∧ s.openConfirm.supply = s.supply ∧ s.openConfirm.cmd = s.cmd ∧
      s.openConfirm.free = s.free ∧ s.openConfirm.pending = s.pending := by
  unfold State.openConfirm; dsimp only; (repeat' split) <;> simp

@[simp] theorem State.closeConfirm_frame (s : State) :
    s.closeConfirm.now = s.now ∧ s.closeConfirm.nextSecond = s.nextSecond ∧ s.closeConfirm.act = s.act ∧
      s.closeConfirm.tags = s.tags ∧ s.closeConfirm.supply = s.supply ∧ s.closeConfirm.cmd = s.cmd ∧
      s.closeConfirm.free = s.free ∧ s.closeConfirm.pending = s.pending := by
  unfold State.closeConfirm; dsimp only; (repeat' split) <;> simp

@[simp] theorem State.tripStart_frame (s : State) :
    s.tripStart.now = s.now ∧ s.tripStart.nextSecond = s.nextSecond ∧ s.tripStart.oc = s.oc ∧ s.tripStart.act = s.act ∧
      s.tripStart.tags = s.tags ∧ s.tripStart.supply = s.supply ∧ s.tripStart.faults = s.faults ∧
      s.tripStart.cmd = s.cmd ∧ s.tripStart.free = s.free ∧ s.tripStart.pending = s.pending := by
  unfold State.tripStart; (repeat' split) <;> simp

@[simp] theorem State.externalOpen_frame (s : State) :
    s.externalOpen.now = s.now ∧ s.externalOpen.nextSecond = s.nextSecond ∧ s.externalOpen.act = s.act ∧
      s.externalOpen.tags = s.tags ∧ s.externalOpen.supply = s.supply ∧ s.externalOpen.cmd = s.cmd ∧
      s.externalOpen.free = s.free ∧ s.externalOpen.pending = s.pending := by
  simp [State.externalOpen]

@[simp] theorem State.externalClose_frame (s : State) :
    s.externalClose.now = s.now ∧ s.externalClose.nextSecond = s.nextSecond ∧ s.externalClose.act = s.act ∧
      s.externalClose.tags = s.tags ∧ s.externalClose.supply = s.supply ∧ s.externalClose.cmd = s.cmd ∧
      s.externalClose.free = s.free ∧ s.externalClose.pending = s.pending := by
  simp [State.externalClose]

end Sys2Proof.Machine
end

