-- ==== Sys2Proof/Laws/FramesActs.lean ====
section
/-! SUPPORT. Frames: the parts of the state that the operations of the Actuator Control, the Sequence Controller, the Overcurrent Unit and the sample path leave as they are. -/

namespace Sys2Proof.Machine

@[simp] theorem State.pulseStarted_frame (s : State) :
    s.pulseStarted.now = s.now ∧ s.pulseStarted.nextSecond = s.nextSecond ∧ s.pulseStarted.mag = s.mag ∧
      s.pulseStarted.oc = s.oc ∧ s.pulseStarted.seq = s.seq ∧ s.pulseStarted.act = s.act ∧
      s.pulseStarted.tags = s.tags ∧ s.pulseStarted.supply = s.supply ∧ s.pulseStarted.battery = s.battery ∧
      s.pulseStarted.reports = s.reports ∧ s.pulseStarted.faults = s.faults ∧ s.pulseStarted.store = s.store ∧
      s.pulseStarted.cmd = s.cmd ∧ s.pulseStarted.links = s.links ∧ s.pulseStarted.free = s.free ∧
      s.pulseStarted.pending = s.pending := by
  simp [State.pulseStarted]

@[simp] theorem State.pulseEnded_frame (s : State) :
    s.pulseEnded.now = s.now ∧ s.pulseEnded.nextSecond = s.nextSecond ∧ s.pulseEnded.mag = s.mag ∧
      s.pulseEnded.oc = s.oc ∧ s.pulseEnded.seq = s.seq ∧ s.pulseEnded.act = s.act ∧ s.pulseEnded.tags = s.tags ∧
      s.pulseEnded.supply = s.supply ∧ s.pulseEnded.battery = s.battery ∧ s.pulseEnded.reports = s.reports ∧
      s.pulseEnded.faults = s.faults ∧ s.pulseEnded.store = s.store ∧ s.pulseEnded.cmd = s.cmd ∧
      s.pulseEnded.links = s.links ∧ s.pulseEnded.free = s.free ∧ s.pulseEnded.pending = s.pending := by
  simp [State.pulseEnded]

@[simp] theorem State.tripTest_frame (s : State) :
    s.tripTest.now = s.now ∧ s.tripTest.nextSecond = s.nextSecond ∧ s.tripTest.tags = s.tags ∧
      s.tripTest.supply = s.supply ∧ s.tripTest.cmd = s.cmd ∧ s.tripTest.free = s.free ∧
      s.tripTest.pending = s.pending := by
  simp [State.tripTest]

@[simp] theorem State.startTrip_frame (s : State) (reported : Bool) :
    (s.startTrip reported).now = s.now ∧ (s.startTrip reported).nextSecond = s.nextSecond ∧
      (s.startTrip reported).tags = s.tags ∧ (s.startTrip reported).supply = s.supply ∧
      (s.startTrip reported).cmd = s.cmd ∧ (s.startTrip reported).free = s.free ∧
      (s.startTrip reported).pending = s.pending := by
  simp [State.startTrip]

@[simp] theorem State.requestTrip_frame (s : State) :
    s.requestTrip.now = s.now ∧ s.requestTrip.nextSecond = s.nextSecond ∧ s.requestTrip.tags = s.tags ∧
      s.requestTrip.supply = s.supply ∧ s.requestTrip.cmd = s.cmd ∧ s.requestTrip.free = s.free ∧
      s.requestTrip.pending = s.pending := by
  simp [State.requestTrip]

@[simp] theorem State.dropClose_frame (s : State) :
    s.dropClose.now = s.now ∧ s.dropClose.nextSecond = s.nextSecond ∧ s.dropClose.mag = s.mag ∧ s.dropClose.oc = s.oc ∧
      s.dropClose.seq = s.seq ∧ s.dropClose.tags = s.tags ∧ s.dropClose.supply = s.supply ∧
      s.dropClose.battery = s.battery ∧ s.dropClose.reports = s.reports ∧ s.dropClose.faults = s.faults ∧
      s.dropClose.store = s.store ∧ s.dropClose.cmd = s.cmd ∧ s.dropClose.links = s.links ∧ s.dropClose.free = s.free ∧
      s.dropClose.pending = s.pending := by
  simp [State.dropClose]

@[simp] theorem State.dropTrip_frame (s : State) :
    s.dropTrip.now = s.now ∧ s.dropTrip.nextSecond = s.nextSecond ∧ s.dropTrip.mag = s.mag ∧ s.dropTrip.oc = s.oc ∧
      s.dropTrip.seq = s.seq ∧ s.dropTrip.tags = s.tags ∧ s.dropTrip.supply = s.supply ∧
      s.dropTrip.battery = s.battery ∧ s.dropTrip.reports = s.reports ∧ s.dropTrip.faults = s.faults ∧
      s.dropTrip.store = s.store ∧ s.dropTrip.cmd = s.cmd ∧ s.dropTrip.links = s.links ∧ s.dropTrip.free = s.free ∧
      s.dropTrip.pending = s.pending := by
  simp [State.dropTrip]

@[simp] theorem State.startHeld_frame (s : State) (reported : Bool) :
    (s.startHeld reported).now = s.now ∧ (s.startHeld reported).nextSecond = s.nextSecond ∧
      (s.startHeld reported).tags = s.tags ∧ (s.startHeld reported).supply = s.supply ∧
      (s.startHeld reported).cmd = s.cmd ∧ (s.startHeld reported).free = s.free ∧
      (s.startHeld reported).pending = s.pending := by
  simp [State.startHeld]

@[simp] theorem State.endClosePulse_frame (s : State) :
    s.endClosePulse.now = s.now ∧ s.endClosePulse.nextSecond = s.nextSecond ∧ s.endClosePulse.tags = s.tags ∧
      s.endClosePulse.supply = s.supply ∧ s.endClosePulse.cmd = s.cmd ∧ s.endClosePulse.free = s.free ∧
      s.endClosePulse.pending = s.pending := by
  simp [State.endClosePulse]

@[simp] theorem State.closeTest_frame (s : State) :
    s.closeTest.now = s.now ∧ s.closeTest.nextSecond = s.nextSecond ∧ s.closeTest.tags = s.tags ∧
      s.closeTest.supply = s.supply ∧ s.closeTest.cmd = s.cmd ∧ s.closeTest.free = s.free ∧
      s.closeTest.pending = s.pending := by
  simp [State.closeTest]

@[simp] theorem State.startClose_frame (s : State) :
    s.startClose.now = s.now ∧ s.startClose.nextSecond = s.nextSecond ∧ s.startClose.mag = s.mag ∧
      s.startClose.oc = s.oc ∧ s.startClose.seq = s.seq ∧ s.startClose.tags = s.tags ∧ s.startClose.supply = s.supply ∧
      s.startClose.battery = s.battery ∧ s.startClose.reports = s.reports ∧ s.startClose.faults = s.faults ∧
      s.startClose.store = s.store ∧ s.startClose.cmd = s.cmd ∧ s.startClose.links = s.links ∧
      s.startClose.free = s.free ∧ s.startClose.pending = s.pending := by
  simp [State.startClose]

@[simp] theorem State.confirmTest_frame (s : State) :
    s.confirmTest.now = s.now ∧ s.confirmTest.nextSecond = s.nextSecond ∧ s.confirmTest.tags = s.tags ∧
      s.confirmTest.supply = s.supply ∧ s.confirmTest.cmd = s.cmd ∧ s.confirmTest.free = s.free ∧
      s.confirmTest.pending = s.pending := by
  unfold State.confirmTest; (repeat' split) <;> simp

@[simp] theorem State.suspendConfirm_frame (s : State) :
    s.suspendConfirm.now = s.now ∧ s.suspendConfirm.nextSecond = s.nextSecond ∧ s.suspendConfirm.sample = s.sample ∧
      s.suspendConfirm.mag = s.mag ∧ s.suspendConfirm.oc = s.oc ∧ s.suspendConfirm.seq = s.seq ∧
      s.suspendConfirm.tags = s.tags ∧ s.suspendConfirm.supply = s.supply ∧ s.suspendConfirm.battery = s.battery ∧
      s.suspendConfirm.reports = s.reports ∧ s.suspendConfirm.faults = s.faults ∧ s.suspendConfirm.store = s.store ∧
      s.suspendConfirm.cmd = s.cmd ∧ s.suspendConfirm.links = s.links ∧ s.suspendConfirm.free = s.free ∧
      s.suspendConfirm.pending = s.pending := by
  simp [State.suspendConfirm]

@[simp] theorem State.resumeConfirm_frame (s : State) :
    s.resumeConfirm.now = s.now ∧ s.resumeConfirm.nextSecond = s.nextSecond ∧ s.resumeConfirm.sample = s.sample ∧
      s.resumeConfirm.mag = s.mag ∧ s.resumeConfirm.oc = s.oc ∧ s.resumeConfirm.seq = s.seq ∧
      s.resumeConfirm.tags = s.tags ∧ s.resumeConfirm.supply = s.supply ∧ s.resumeConfirm.battery = s.battery ∧
      s.resumeConfirm.reports = s.reports ∧ s.resumeConfirm.faults = s.faults ∧ s.resumeConfirm.store = s.store ∧
      s.resumeConfirm.cmd = s.cmd ∧ s.resumeConfirm.links = s.links ∧ s.resumeConfirm.free = s.free ∧
      s.resumeConfirm.pending = s.pending := by
  simp [State.resumeConfirm]

@[simp] theorem State.sequenceStreamChange_frame (s : State) :
    s.sequenceStreamChange.now = s.now ∧ s.sequenceStreamChange.nextSecond = s.nextSecond ∧
      s.sequenceStreamChange.act = s.act ∧ s.sequenceStreamChange.tags = s.tags ∧
      s.sequenceStreamChange.supply = s.supply ∧ s.sequenceStreamChange.cmd = s.cmd ∧
      s.sequenceStreamChange.free = s.free ∧ s.sequenceStreamChange.pending = s.pending := by
  simp [State.sequenceStreamChange]

@[simp] theorem State.streamChanged_frame (s : State) :
    s.streamChanged.now = s.now ∧ s.streamChanged.nextSecond = s.nextSecond ∧ s.streamChanged.tags = s.tags ∧
      s.streamChanged.supply = s.supply ∧ s.streamChanged.cmd = s.cmd ∧ s.streamChanged.free = s.free ∧
      s.streamChanged.pending = s.pending := by
  simp [State.streamChanged]

@[simp] theorem State.sequenceViewChange_frame (s : State) :
    s.sequenceViewChange.now = s.now ∧ s.sequenceViewChange.nextSecond = s.nextSecond ∧
      s.sequenceViewChange.act = s.act ∧ s.sequenceViewChange.tags = s.tags ∧ s.sequenceViewChange.supply = s.supply ∧
      s.sequenceViewChange.cmd = s.cmd ∧ s.sequenceViewChange.free = s.free ∧ s.sequenceViewChange.pending = s.pending := by
  unfold State.sequenceViewChange; (repeat' split) <;> simp

@[simp] theorem State.viewChanged_frame (s : State) :
    s.viewChanged.now = s.now ∧ s.viewChanged.nextSecond = s.nextSecond ∧ s.viewChanged.tags = s.tags ∧
      s.viewChanged.supply = s.supply ∧ s.viewChanged.cmd = s.cmd ∧ s.viewChanged.free = s.free ∧
      s.viewChanged.pending = s.pending := by
  simp [State.viewChanged]

@[simp] theorem State.confirmFailed_frame (s : State) (cause : MechCause) :
    (s.confirmFailed cause).now = s.now ∧ (s.confirmFailed cause).nextSecond = s.nextSecond ∧
      (s.confirmFailed cause).tags = s.tags ∧ (s.confirmFailed cause).supply = s.supply ∧
      (s.confirmFailed cause).cmd = s.cmd ∧ (s.confirmFailed cause).free = s.free ∧
      (s.confirmFailed cause).pending = s.pending := by
  simp [State.confirmFailed]

@[simp] theorem State.secondTrip_frame (s : State) :
    s.secondTrip.now = s.now ∧ s.secondTrip.nextSecond = s.nextSecond ∧ s.secondTrip.mag = s.mag ∧
      s.secondTrip.oc = s.oc ∧ s.secondTrip.seq = s.seq ∧ s.secondTrip.tags = s.tags ∧ s.secondTrip.supply = s.supply ∧
      s.secondTrip.battery = s.battery ∧ s.secondTrip.reports = s.reports ∧ s.secondTrip.faults = s.faults ∧
      s.secondTrip.store = s.store ∧ s.secondTrip.cmd = s.cmd ∧ s.secondTrip.links = s.links ∧
      s.secondTrip.free = s.free ∧ s.secondTrip.pending = s.pending := by
  simp [State.secondTrip]

@[simp] theorem State.energyAnswer_frame (s : State) :
    s.energyAnswer.now = s.now ∧ s.energyAnswer.nextSecond = s.nextSecond ∧ s.energyAnswer.oc = s.oc ∧
      s.energyAnswer.act = s.act ∧ s.energyAnswer.tags = s.tags ∧ s.energyAnswer.supply = s.supply ∧
      s.energyAnswer.faults = s.faults ∧ s.energyAnswer.cmd = s.cmd ∧ s.energyAnswer.free = s.free ∧
      s.energyAnswer.pending = s.pending := by
  simp [State.energyAnswer]

@[simp] theorem State.answerReclose_frame (s : State) :
    s.answerReclose.now = s.now ∧ s.answerReclose.nextSecond = s.nextSecond ∧ s.answerReclose.tags = s.tags ∧
      s.answerReclose.supply = s.supply ∧ s.answerReclose.cmd = s.cmd ∧ s.answerReclose.free = s.free ∧
      s.answerReclose.pending = s.pending := by
  unfold State.answerReclose; (repeat' split) <;> simp

@[simp] theorem State.requestReclose_frame (s : State) :
    s.requestReclose.now = s.now ∧ s.requestReclose.nextSecond = s.nextSecond ∧ s.requestReclose.tags = s.tags ∧
      s.requestReclose.supply = s.supply ∧ s.requestReclose.cmd = s.cmd ∧ s.requestReclose.free = s.free ∧
      s.requestReclose.pending = s.pending := by
  simp [State.requestReclose]

@[simp] theorem State.answerManual_frame (s : State) :
    s.answerManual.1.now = s.now ∧ s.answerManual.1.nextSecond = s.nextSecond ∧ s.answerManual.1.mag = s.mag ∧
      s.answerManual.1.oc = s.oc ∧ s.answerManual.1.tags = s.tags ∧ s.answerManual.1.supply = s.supply ∧
      s.answerManual.1.battery = s.battery ∧ s.answerManual.1.reports = s.reports ∧ s.answerManual.1.faults = s.faults ∧
      s.answerManual.1.store = s.store ∧ s.answerManual.1.cmd = s.cmd ∧ s.answerManual.1.links = s.links ∧
      s.answerManual.1.free = s.free ∧ s.answerManual.1.pending = s.pending := by
  unfold State.answerManual; (repeat' split) <;> simp

@[simp] theorem State.answerDeferred_frame (s : State) (c : ResultCode) :
    (s.answerDeferred c).now = s.now ∧ (s.answerDeferred c).nextSecond = s.nextSecond ∧
      (s.answerDeferred c).sample = s.sample ∧ (s.answerDeferred c).mag = s.mag ∧ (s.answerDeferred c).oc = s.oc ∧
      (s.answerDeferred c).seq = s.seq ∧ (s.answerDeferred c).act = s.act ∧ (s.answerDeferred c).tags = s.tags ∧
      (s.answerDeferred c).supply = s.supply ∧ (s.answerDeferred c).battery = s.battery ∧
      (s.answerDeferred c).reports = s.reports ∧ (s.answerDeferred c).faults = s.faults ∧
      (s.answerDeferred c).store = s.store ∧ (s.answerDeferred c).free = s.free ∧
      (s.answerDeferred c).pending = s.pending := by
  unfold State.answerDeferred; (repeat' split) <;> simp

@[simp] theorem State.deferredCheck_frame (s : State) :
    s.deferredCheck.now = s.now ∧ s.deferredCheck.nextSecond = s.nextSecond ∧ s.deferredCheck.tags = s.tags ∧
      s.deferredCheck.supply = s.supply ∧ s.deferredCheck.free = s.free ∧ s.deferredCheck.pending = s.pending := by
  unfold State.deferredCheck; dsimp only; (repeat' split) <;> simp

@[simp] theorem State.tripFor_frame (s : State) (kind : TripKind) (raise : Bool) :
    (s.tripFor kind raise).now = s.now ∧ (s.tripFor kind raise).nextSecond = s.nextSecond ∧
      (s.tripFor kind raise).tags = s.tags ∧ (s.tripFor kind raise).supply = s.supply ∧
      (s.tripFor kind raise).cmd = s.cmd ∧ (s.tripFor kind raise).free = s.free ∧
      (s.tripFor kind raise).pending = s.pending := by
  simp [State.tripFor]

@[simp] theorem State.sequencePickup_frame (s : State) :
    s.sequencePickup.now = s.now ∧ s.sequencePickup.nextSecond = s.nextSecond ∧ s.sequencePickup.oc = s.oc ∧
      s.sequencePickup.act = s.act ∧ s.sequencePickup.tags = s.tags ∧ s.sequencePickup.supply = s.supply ∧
      s.sequencePickup.faults = s.faults ∧ s.sequencePickup.cmd = s.cmd ∧ s.sequencePickup.free = s.free ∧
      s.sequencePickup.pending = s.pending := by
  unfold State.sequencePickup; (repeat' split) <;> simp

@[simp] theorem State.coordinationAdvance_frame (s : State) :
    s.coordinationAdvance.now = s.now ∧ s.coordinationAdvance.nextSecond = s.nextSecond ∧
      s.coordinationAdvance.sample = s.sample ∧ s.coordinationAdvance.mag = s.mag ∧ s.coordinationAdvance.oc = s.oc ∧
      s.coordinationAdvance.act = s.act ∧ s.coordinationAdvance.tags = s.tags ∧
      s.coordinationAdvance.supply = s.supply ∧ s.coordinationAdvance.battery = s.battery ∧
      s.coordinationAdvance.store = s.store ∧ s.coordinationAdvance.cmd = s.cmd ∧
      s.coordinationAdvance.links = s.links ∧ s.coordinationAdvance.free = s.free ∧
      s.coordinationAdvance.pending = s.pending := by
  simp [State.coordinationAdvance]

@[simp] theorem State.sequenceAllDropped_frame (s : State) :
    s.sequenceAllDropped.now = s.now ∧ s.sequenceAllDropped.nextSecond = s.nextSecond ∧ s.sequenceAllDropped.oc = s.oc ∧
      s.sequenceAllDropped.act = s.act ∧ s.sequenceAllDropped.tags = s.tags ∧ s.sequenceAllDropped.supply = s.supply ∧
      s.sequenceAllDropped.cmd = s.cmd ∧ s.sequenceAllDropped.free = s.free ∧ s.sequenceAllDropped.pending = s.pending := by
  unfold State.sequenceAllDropped; (repeat' split) <;> simp

@[simp] theorem State.tripInClosing_frame (s : State) (kind : TripKind) :
    (s.tripInClosing kind).now = s.now ∧ (s.tripInClosing kind).nextSecond = s.nextSecond ∧
      (s.tripInClosing kind).tags = s.tags ∧ (s.tripInClosing kind).supply = s.supply ∧
      (s.tripInClosing kind).cmd = s.cmd ∧ (s.tripInClosing kind).free = s.free ∧
      (s.tripInClosing kind).pending = s.pending := by
  simp [State.tripInClosing]

@[simp] theorem State.sequenceDecision_frame (s : State) :
    s.sequenceDecision.now = s.now ∧ s.sequenceDecision.nextSecond = s.nextSecond ∧ s.sequenceDecision.tags = s.tags ∧
      s.sequenceDecision.supply = s.supply ∧ s.sequenceDecision.cmd = s.cmd ∧ s.sequenceDecision.free = s.free ∧
      s.sequenceDecision.pending = s.pending := by
  unfold State.sequenceDecision; (repeat' split) <;> simp

@[simp] theorem State.manualOpen_frame (s : State) :
    s.manualOpen.1.now = s.now ∧ s.manualOpen.1.nextSecond = s.nextSecond ∧ s.manualOpen.1.tags = s.tags ∧
      s.manualOpen.1.supply = s.supply ∧ s.manualOpen.1.cmd = s.cmd ∧ s.manualOpen.1.free = s.free ∧
      s.manualOpen.1.pending = s.pending := by
  unfold State.manualOpen; (repeat' split) <;> simp

@[simp] theorem State.sensorLossAction_frame (s : State) :
    s.sensorLossAction.now = s.now ∧ s.sensorLossAction.nextSecond = s.nextSecond ∧ s.sensorLossAction.tags = s.tags ∧
      s.sensorLossAction.supply = s.supply ∧ s.sensorLossAction.cmd = s.cmd ∧ s.sensorLossAction.free = s.free ∧
      s.sensorLossAction.pending = s.pending := by
  unfold State.sensorLossAction; (repeat' split) <;> simp

@[simp] theorem State.sequenceTagEntry_frame (s : State) :
    s.sequenceTagEntry.now = s.now ∧ s.sequenceTagEntry.nextSecond = s.nextSecond ∧ s.sequenceTagEntry.oc = s.oc ∧
      s.sequenceTagEntry.act = s.act ∧ s.sequenceTagEntry.tags = s.tags ∧ s.sequenceTagEntry.supply = s.supply ∧
      s.sequenceTagEntry.faults = s.faults ∧ s.sequenceTagEntry.cmd = s.cmd ∧ s.sequenceTagEntry.free = s.free ∧
      s.sequenceTagEntry.pending = s.pending := by
  simp [State.sequenceTagEntry]

@[simp] theorem State.tagEntry_frame (s : State) :
    s.tagEntry.now = s.now ∧ s.tagEntry.nextSecond = s.nextSecond ∧ s.tagEntry.tags = s.tags ∧
      s.tagEntry.supply = s.supply ∧ s.tagEntry.cmd = s.cmd ∧ s.tagEntry.free = s.free ∧
      s.tagEntry.pending = s.pending := by
  simp [State.tagEntry]

@[simp] theorem State.takePickup_frame (s : State) :
    s.takePickup.now = s.now ∧ s.takePickup.nextSecond = s.nextSecond ∧ s.takePickup.oc = s.oc ∧
      s.takePickup.act = s.act ∧ s.takePickup.tags = s.tags ∧ s.takePickup.supply = s.supply ∧
      s.takePickup.cmd = s.cmd ∧ s.takePickup.free = s.free ∧ s.takePickup.pending = s.pending := by
  simp [State.takePickup]

@[simp] theorem State.decisionOpens_frame (s : State) :
    s.decisionOpens.now = s.now ∧ s.decisionOpens.nextSecond = s.nextSecond ∧ s.decisionOpens.sample = s.sample ∧
      s.decisionOpens.mag = s.mag ∧ s.decisionOpens.oc = s.oc ∧ s.decisionOpens.seq = s.seq ∧
      s.decisionOpens.act = s.act ∧ s.decisionOpens.tags = s.tags ∧ s.decisionOpens.supply = s.supply ∧
      s.decisionOpens.battery = s.battery ∧ s.decisionOpens.reports = s.reports ∧ s.decisionOpens.store = s.store ∧
      s.decisionOpens.cmd = s.cmd ∧ s.decisionOpens.links = s.links ∧ s.decisionOpens.free = s.free ∧
      s.decisionOpens.pending = s.pending := by
  unfold State.decisionOpens; (repeat' split) <;> simp

@[simp] theorem State.takeOutputs_frame (s : State) (wasActive : Bool) (o : EvalOutput) (m : Summary) :
    (s.takeOutputs wasActive o m).now = s.now ∧ (s.takeOutputs wasActive o m).nextSecond = s.nextSecond ∧
      (s.takeOutputs wasActive o m).tags = s.tags ∧ (s.takeOutputs wasActive o m).supply = s.supply ∧
      (s.takeOutputs wasActive o m).cmd = s.cmd ∧ (s.takeOutputs wasActive o m).free = s.free ∧
      (s.takeOutputs wasActive o m).pending = s.pending := by
  simp [State.takeOutputs]

@[simp] theorem State.overcurrent_frame (s : State) (mags : Currents Nat) (clipped : Currents Bool) :
    (s.overcurrent mags clipped).now = s.now ∧ (s.overcurrent mags clipped).nextSecond = s.nextSecond ∧
      (s.overcurrent mags clipped).tags = s.tags ∧ (s.overcurrent mags clipped).supply = s.supply ∧
      (s.overcurrent mags clipped).cmd = s.cmd ∧ (s.overcurrent mags clipped).free = s.free ∧
      (s.overcurrent mags clipped).pending = s.pending := by
  simp [State.overcurrent]

@[simp] theorem State.sendMetering_frame (s : State) :
    s.sendMetering.now = s.now ∧ s.sendMetering.nextSecond = s.nextSecond ∧ s.sendMetering.sample = s.sample ∧
      s.sendMetering.oc = s.oc ∧ s.sendMetering.seq = s.seq ∧ s.sendMetering.act = s.act ∧
      s.sendMetering.tags = s.tags ∧ s.sendMetering.supply = s.supply ∧ s.sendMetering.battery = s.battery ∧
      s.sendMetering.reports = s.reports ∧ s.sendMetering.faults = s.faults ∧ s.sendMetering.store = s.store ∧
      s.sendMetering.cmd = s.cmd ∧ s.sendMetering.free = s.free ∧ s.sendMetering.pending = s.pending := by
  simp [State.sendMetering]

@[simp] theorem State.metered_frame (s : State) :
    s.metered.now = s.now ∧ s.metered.nextSecond = s.nextSecond ∧ s.metered.sample = s.sample ∧ s.metered.oc = s.oc ∧
      s.metered.seq = s.seq ∧ s.metered.act = s.act ∧ s.metered.tags = s.tags ∧ s.metered.supply = s.supply ∧
      s.metered.battery = s.battery ∧ s.metered.reports = s.reports ∧ s.metered.faults = s.faults ∧
      s.metered.store = s.store ∧ s.metered.cmd = s.cmd ∧ s.metered.free = s.free ∧ s.metered.pending = s.pending := by
  simp [State.metered]

@[simp] theorem State.evaluate_frame (s : State) :
    s.evaluate.now = s.now ∧ s.evaluate.nextSecond = s.nextSecond ∧ s.evaluate.tags = s.tags ∧
      s.evaluate.supply = s.supply ∧ s.evaluate.cmd = s.cmd ∧ s.evaluate.free = s.free ∧
      s.evaluate.pending = s.pending := by
  simp [State.evaluate]

@[simp] theorem State.formInstant_frame (s : State) (x : Channels Int) (clip : Currents Bool) :
    (s.formInstant x clip).now = s.now ∧ (s.formInstant x clip).nextSecond = s.nextSecond ∧
      (s.formInstant x clip).oc = s.oc ∧ (s.formInstant x clip).seq = s.seq ∧ (s.formInstant x clip).act = s.act ∧
      (s.formInstant x clip).tags = s.tags ∧ (s.formInstant x clip).supply = s.supply ∧
      (s.formInstant x clip).battery = s.battery ∧ (s.formInstant x clip).reports = s.reports ∧
      (s.formInstant x clip).faults = s.faults ∧ (s.formInstant x clip).store = s.store ∧
      (s.formInstant x clip).cmd = s.cmd ∧ (s.formInstant x clip).links = s.links ∧
      (s.formInstant x clip).free = s.free ∧ (s.formInstant x clip).pending = s.pending := by
  simp [State.formInstant]

@[simp] theorem State.becomeValid_frame (s : State) :
    s.becomeValid.now = s.now ∧ s.becomeValid.nextSecond = s.nextSecond ∧ s.becomeValid.tags = s.tags ∧
      s.becomeValid.supply = s.supply ∧ s.becomeValid.cmd = s.cmd ∧ s.becomeValid.free = s.free ∧
      s.becomeValid.pending = s.pending := by
  simp [State.becomeValid]

@[simp] theorem State.endInstant_frame (s : State) :
    s.endInstant.now = s.now ∧ s.endInstant.nextSecond = s.nextSecond ∧ s.endInstant.tags = s.tags ∧
      s.endInstant.supply = s.supply ∧ s.endInstant.cmd = s.cmd ∧ s.endInstant.free = s.free ∧
      s.endInstant.pending = s.pending := by
  simp [State.endInstant]

@[simp] theorem State.fillInstant_frame (s : State) :
    s.fillInstant.now = s.now ∧ s.fillInstant.nextSecond = s.nextSecond ∧ s.fillInstant.tags = s.tags ∧
      s.fillInstant.supply = s.supply ∧ s.fillInstant.cmd = s.cmd ∧ s.fillInstant.free = s.free ∧
      s.fillInstant.pending = s.pending := by
  simp [State.fillInstant]

@[simp] theorem State.fills_frame (n : Nat) (s : State) :
    (State.fills n s).now = s.now ∧ (State.fills n s).nextSecond = s.nextSecond ∧ (State.fills n s).tags = s.tags ∧
      (State.fills n s).supply = s.supply ∧ (State.fills n s).cmd = s.cmd ∧ (State.fills n s).free = s.free ∧
      (State.fills n s).pending = s.pending := by
  induction n generalizing s with
  | zero => simp [State.fills]
  | succ n ih => simp [State.fills, ih]

@[simp] theorem State.takeFrame_frame (s : State) (f : SampleFrame) :
    (s.takeFrame f).now = s.now ∧ (s.takeFrame f).nextSecond = s.nextSecond ∧ (s.takeFrame f).mag = s.mag ∧
      (s.takeFrame f).oc = s.oc ∧ (s.takeFrame f).seq = s.seq ∧ (s.takeFrame f).act = s.act ∧
      (s.takeFrame f).tags = s.tags ∧ (s.takeFrame f).supply = s.supply ∧ (s.takeFrame f).battery = s.battery ∧
      (s.takeFrame f).reports = s.reports ∧ (s.takeFrame f).faults = s.faults ∧ (s.takeFrame f).store = s.store ∧
      (s.takeFrame f).cmd = s.cmd ∧ (s.takeFrame f).links = s.links ∧ (s.takeFrame f).free = s.free ∧
      (s.takeFrame f).pending = s.pending := by
  simp [State.takeFrame]

@[simp] theorem State.readView_frame (s : State) (f : SampleFrame) (leftStale : Bool) :
    (s.readView f leftStale).now = s.now ∧ (s.readView f leftStale).nextSecond = s.nextSecond ∧
      (s.readView f leftStale).mag = s.mag ∧ (s.readView f leftStale).oc = s.oc ∧ (s.readView f leftStale).seq = s.seq ∧
      (s.readView f leftStale).act = s.act ∧ (s.readView f leftStale).tags = s.tags ∧
      (s.readView f leftStale).supply = s.supply ∧ (s.readView f leftStale).battery = s.battery ∧
      (s.readView f leftStale).reports = s.reports ∧ (s.readView f leftStale).faults = s.faults ∧
      (s.readView f leftStale).store = s.store ∧ (s.readView f leftStale).cmd = s.cmd ∧
      (s.readView f leftStale).links = s.links ∧ (s.readView f leftStale).free = s.free ∧
      (s.readView f leftStale).pending = s.pending := by
  simp [State.readView]

@[simp] theorem State.acceptFrame_frame (s : State) (f : SampleFrame) (prior : StreamState) (newRun : Bool) :
    (s.acceptFrame f prior newRun).now = s.now ∧ (s.acceptFrame f prior newRun).nextSecond = s.nextSecond ∧
      (s.acceptFrame f prior newRun).tags = s.tags ∧ (s.acceptFrame f prior newRun).supply = s.supply ∧
      (s.acceptFrame f prior newRun).cmd = s.cmd ∧ (s.acceptFrame f prior newRun).free = s.free ∧
      (s.acceptFrame f prior newRun).pending = s.pending := by
  simp [State.acceptFrame]

@[simp] theorem State.beginRun_frame (s : State) :
    s.beginRun.now = s.now ∧ s.beginRun.nextSecond = s.nextSecond ∧ s.beginRun.oc = s.oc ∧ s.beginRun.seq = s.seq ∧
      s.beginRun.act = s.act ∧ s.beginRun.tags = s.tags ∧ s.beginRun.supply = s.supply ∧
      s.beginRun.battery = s.battery ∧ s.beginRun.reports = s.reports ∧ s.beginRun.faults = s.faults ∧
      s.beginRun.store = s.store ∧ s.beginRun.cmd = s.cmd ∧ s.beginRun.links = s.links ∧ s.beginRun.free = s.free ∧
      s.beginRun.pending = s.pending := by
  simp [State.beginRun]

@[simp] theorem State.newRunFrame_frame (s : State) (f : SampleFrame) :
    (s.newRunFrame f).now = s.now ∧ (s.newRunFrame f).nextSecond = s.nextSecond ∧ (s.newRunFrame f).tags = s.tags ∧
      (s.newRunFrame f).supply = s.supply ∧ (s.newRunFrame f).cmd = s.cmd ∧ (s.newRunFrame f).free = s.free ∧
      (s.newRunFrame f).pending = s.pending := by
  simp [State.newRunFrame]

@[simp] theorem State.checkedFrame_frame (s : State) (f : SampleFrame) (d : Nat) :
    (s.checkedFrame f d).now = s.now ∧ (s.checkedFrame f d).nextSecond = s.nextSecond ∧
      (s.checkedFrame f d).tags = s.tags ∧ (s.checkedFrame f d).supply = s.supply ∧ (s.checkedFrame f d).cmd = s.cmd ∧
      (s.checkedFrame f d).free = s.free ∧ (s.checkedFrame f d).pending = s.pending := by
  simp [State.checkedFrame]

@[simp] theorem State.takeSample_frame (s : State) (f : SampleFrame) :
    (s.takeSample f).now = s.now ∧ (s.takeSample f).nextSecond = s.nextSecond ∧ (s.takeSample f).tags = s.tags ∧
      (s.takeSample f).supply = s.supply ∧ (s.takeSample f).cmd = s.cmd ∧ (s.takeSample f).free = s.free ∧
      (s.takeSample f).pending = s.pending := by
  unfold State.takeSample; (repeat' split) <;> simp

@[simp] theorem State.sensorReport_frame (s : State) (e : SensorEvent) (prior : StreamState) (staleTime : Nat) :
    (s.sensorReport e prior staleTime).now = s.now ∧ (s.sensorReport e prior staleTime).nextSecond = s.nextSecond ∧
      (s.sensorReport e prior staleTime).sample = s.sample ∧ (s.sensorReport e prior staleTime).mag = s.mag ∧
      (s.sensorReport e prior staleTime).oc = s.oc ∧ (s.sensorReport e prior staleTime).seq = s.seq ∧
      (s.sensorReport e prior staleTime).act = s.act ∧ (s.sensorReport e prior staleTime).tags = s.tags ∧
      (s.sensorReport e prior staleTime).supply = s.supply ∧ (s.sensorReport e prior staleTime).battery = s.battery ∧
      (s.sensorReport e prior staleTime).faults = s.faults ∧ (s.sensorReport e prior staleTime).store = s.store ∧
      (s.sensorReport e prior staleTime).cmd = s.cmd ∧ (s.sensorReport e prior staleTime).links = s.links ∧
      (s.sensorReport e prior staleTime).free = s.free ∧ (s.sensorReport e prior staleTime).pending = s.pending := by
  simp [State.sensorReport]

@[simp] theorem State.becomeStale_frame (s : State) :
    s.becomeStale.now = s.now ∧ s.becomeStale.nextSecond = s.nextSecond ∧ s.becomeStale.tags = s.tags ∧
      s.becomeStale.supply = s.supply ∧ s.becomeStale.cmd = s.cmd ∧ s.becomeStale.free = s.free ∧
      s.becomeStale.pending = s.pending := by
  simp [State.becomeStale]

@[simp] theorem State.sensorLossEvent_frame (s : State) :
    s.sensorLossEvent.now = s.now ∧ s.sensorLossEvent.nextSecond = s.nextSecond ∧ s.sensorLossEvent.tags = s.tags ∧
      s.sensorLossEvent.supply = s.supply ∧ s.sensorLossEvent.cmd = s.cmd ∧ s.sensorLossEvent.free = s.free ∧
      s.sensorLossEvent.pending = s.pending := by
  simp [State.sensorLossEvent]

@[simp] theorem State.sensorLossExpiry_frame (s : State) :
    s.sensorLossExpiry.now = s.now ∧ s.sensorLossExpiry.nextSecond = s.nextSecond ∧ s.sensorLossExpiry.tags = s.tags ∧
      s.sensorLossExpiry.supply = s.supply ∧ s.sensorLossExpiry.cmd = s.cmd ∧ s.sensorLossExpiry.free = s.free ∧
      s.sensorLossExpiry.pending = s.pending := by
  unfold State.sensorLossExpiry; (repeat' split) <;> simp

@[simp] theorem State.positionUnknownReport_frame (s : State) :
    s.positionUnknownReport.now = s.now ∧ s.positionUnknownReport.nextSecond = s.nextSecond ∧
      s.positionUnknownReport.sample = s.sample ∧ s.positionUnknownReport.mag = s.mag ∧
      s.positionUnknownReport.oc = s.oc ∧ s.positionUnknownReport.seq = s.seq ∧ s.positionUnknownReport.act = s.act ∧
      s.positionUnknownReport.tags = s.tags ∧ s.positionUnknownReport.supply = s.supply ∧
      s.positionUnknownReport.battery = s.battery ∧ s.positionUnknownReport.faults = s.faults ∧
      s.positionUnknownReport.store = s.store ∧ s.positionUnknownReport.cmd = s.cmd ∧
      s.positionUnknownReport.links = s.links ∧ s.positionUnknownReport.free = s.free ∧
      s.positionUnknownReport.pending = s.pending := by
  simp [State.positionUnknownReport]

@[simp] theorem State.becomeUnknown_frame (s : State) :
    s.becomeUnknown.now = s.now ∧ s.becomeUnknown.nextSecond = s.nextSecond ∧ s.becomeUnknown.tags = s.tags ∧
      s.becomeUnknown.supply = s.supply ∧ s.becomeUnknown.cmd = s.cmd ∧ s.becomeUnknown.free = s.free ∧
      s.becomeUnknown.pending = s.pending := by
  simp [State.becomeUnknown]

@[simp] theorem State.coldLoadExpiry_frame (s : State) :
    s.coldLoadExpiry.now = s.now ∧ s.coldLoadExpiry.nextSecond = s.nextSecond ∧ s.coldLoadExpiry.sample = s.sample ∧
      s.coldLoadExpiry.mag = s.mag ∧ s.coldLoadExpiry.seq = s.seq ∧ s.coldLoadExpiry.act = s.act ∧
      s.coldLoadExpiry.tags = s.tags ∧ s.coldLoadExpiry.supply = s.supply ∧ s.coldLoadExpiry.battery = s.battery ∧
      s.coldLoadExpiry.reports = s.reports ∧ s.coldLoadExpiry.faults = s.faults ∧ s.coldLoadExpiry.store = s.store ∧
      s.coldLoadExpiry.cmd = s.cmd ∧ s.coldLoadExpiry.links = s.links ∧ s.coldLoadExpiry.free = s.free ∧
      s.coldLoadExpiry.pending = s.pending := by
  simp [State.coldLoadExpiry]

@[simp] theorem State.deadExpiry_frame (s : State) :
    s.deadExpiry.now = s.now ∧ s.deadExpiry.nextSecond = s.nextSecond ∧ s.deadExpiry.tags = s.tags ∧
      s.deadExpiry.supply = s.supply ∧ s.deadExpiry.cmd = s.cmd ∧ s.deadExpiry.free = s.free ∧
      s.deadExpiry.pending = s.pending := by
  simp [State.deadExpiry]

@[simp] theorem State.energyWaitExpiry_frame (s : State) :
    s.energyWaitExpiry.now = s.now ∧ s.energyWaitExpiry.nextSecond = s.nextSecond ∧ s.energyWaitExpiry.oc = s.oc ∧
      s.energyWaitExpiry.act = s.act ∧ s.energyWaitExpiry.tags = s.tags ∧ s.energyWaitExpiry.supply = s.supply ∧
      s.energyWaitExpiry.faults = s.faults ∧ s.energyWaitExpiry.cmd = s.cmd ∧ s.energyWaitExpiry.free = s.free ∧
      s.energyWaitExpiry.pending = s.pending := by
  simp [State.energyWaitExpiry]

@[simp] theorem State.recloseOk_frame (s : State) :
    s.recloseOk.now = s.now ∧ s.recloseOk.nextSecond = s.nextSecond ∧ s.recloseOk.sample = s.sample ∧
      s.recloseOk.mag = s.mag ∧ s.recloseOk.oc = s.oc ∧ s.recloseOk.seq = s.seq ∧ s.recloseOk.act = s.act ∧
      s.recloseOk.tags = s.tags ∧ s.recloseOk.supply = s.supply ∧ s.recloseOk.battery = s.battery ∧
      s.recloseOk.faults = s.faults ∧ s.recloseOk.store = s.store ∧ s.recloseOk.cmd = s.cmd ∧
      s.recloseOk.links = s.links ∧ s.recloseOk.free = s.free ∧ s.recloseOk.pending = s.pending := by
  simp [State.recloseOk]

@[simp] theorem State.reclaimExpiry_frame (s : State) :
    s.reclaimExpiry.now = s.now ∧ s.reclaimExpiry.nextSecond = s.nextSecond ∧ s.reclaimExpiry.oc = s.oc ∧
      s.reclaimExpiry.act = s.act ∧ s.reclaimExpiry.tags = s.tags ∧ s.reclaimExpiry.supply = s.supply ∧
      s.reclaimExpiry.cmd = s.cmd ∧ s.reclaimExpiry.free = s.free ∧ s.reclaimExpiry.pending = s.pending := by
  simp [State.reclaimExpiry]

@[simp] theorem State.tripLimit_frame (s : State) :
    s.tripLimit.now = s.now ∧ s.tripLimit.nextSecond = s.nextSecond ∧ s.tripLimit.tags = s.tags ∧
      s.tripLimit.supply = s.supply ∧ s.tripLimit.cmd = s.cmd ∧ s.tripLimit.free = s.free ∧
      s.tripLimit.pending = s.pending := by
  simp [State.tripLimit]

end Sys2Proof.Machine
end

