-- ==== Sys2Proof/Laws/FramesPower.lean ====
section
/-! SUPPORT. Frames: the parts of the state that the operations of the Battery Unit, the Supply Monitor and the arbiter leave as they are. -/

namespace Sys2Proof.Machine

@[simp] theorem State.frameCharge_frame (s : State) (gap : Gap) :
    (s.frameCharge gap).now = s.now ∧ (s.frameCharge gap).nextSecond = s.nextSecond ∧
      (s.frameCharge gap).sample = s.sample ∧ (s.frameCharge gap).mag = s.mag ∧ (s.frameCharge gap).oc = s.oc ∧
      (s.frameCharge gap).seq = s.seq ∧ (s.frameCharge gap).act = s.act ∧ (s.frameCharge gap).tags = s.tags ∧
      (s.frameCharge gap).supply = s.supply ∧ (s.frameCharge gap).reports = s.reports ∧
      (s.frameCharge gap).faults = s.faults ∧ (s.frameCharge gap).store = s.store ∧ (s.frameCharge gap).cmd = s.cmd ∧
      (s.frameCharge gap).links = s.links ∧ (s.frameCharge gap).free = s.free ∧
      (s.frameCharge gap).pending = s.pending := by
  simp [State.frameCharge]

@[simp] theorem State.frameFloatFull_frame (s : State) :
    s.frameFloatFull.now = s.now ∧ s.frameFloatFull.nextSecond = s.nextSecond ∧ s.frameFloatFull.sample = s.sample ∧
      s.frameFloatFull.mag = s.mag ∧ s.frameFloatFull.oc = s.oc ∧ s.frameFloatFull.seq = s.seq ∧
      s.frameFloatFull.act = s.act ∧ s.frameFloatFull.tags = s.tags ∧ s.frameFloatFull.supply = s.supply ∧
      s.frameFloatFull.reports = s.reports ∧ s.frameFloatFull.faults = s.faults ∧ s.frameFloatFull.store = s.store ∧
      s.frameFloatFull.cmd = s.cmd ∧ s.frameFloatFull.links = s.links ∧ s.frameFloatFull.free = s.free ∧
      s.frameFloatFull.pending = s.pending := by
  simp [State.frameFloatFull]

@[simp] theorem State.frameTemperature_frame (s : State) :
    s.frameTemperature.now = s.now ∧ s.frameTemperature.nextSecond = s.nextSecond ∧
      s.frameTemperature.sample = s.sample ∧ s.frameTemperature.mag = s.mag ∧ s.frameTemperature.oc = s.oc ∧
      s.frameTemperature.seq = s.seq ∧ s.frameTemperature.act = s.act ∧ s.frameTemperature.tags = s.tags ∧
      s.frameTemperature.supply = s.supply ∧ s.frameTemperature.reports = s.reports ∧
      s.frameTemperature.faults = s.faults ∧ s.frameTemperature.store = s.store ∧ s.frameTemperature.cmd = s.cmd ∧
      s.frameTemperature.links = s.links ∧ s.frameTemperature.free = s.free ∧ s.frameTemperature.pending = s.pending := by
  simp [State.frameTemperature]

@[simp] theorem State.measureTest_frame (s : State) :
    s.measureTest.now = s.now ∧ s.measureTest.nextSecond = s.nextSecond ∧ s.measureTest.sample = s.sample ∧
      s.measureTest.mag = s.mag ∧ s.measureTest.oc = s.oc ∧ s.measureTest.seq = s.seq ∧ s.measureTest.act = s.act ∧
      s.measureTest.tags = s.tags ∧ s.measureTest.supply = s.supply ∧ s.measureTest.reports = s.reports ∧
      s.measureTest.faults = s.faults ∧ s.measureTest.store = s.store ∧ s.measureTest.cmd = s.cmd ∧
      s.measureTest.links = s.links ∧ s.measureTest.free = s.free ∧ s.measureTest.pending = s.pending := by
  simp [State.measureTest]

@[simp] theorem State.frameTest_frame (s : State) :
    s.frameTest.now = s.now ∧ s.frameTest.nextSecond = s.nextSecond ∧ s.frameTest.oc = s.oc ∧ s.frameTest.seq = s.seq ∧
      s.frameTest.act = s.act ∧ s.frameTest.tags = s.tags ∧ s.frameTest.supply = s.supply ∧
      s.frameTest.faults = s.faults ∧ s.frameTest.cmd = s.cmd ∧ s.frameTest.free = s.free ∧
      s.frameTest.pending = s.pending := by
  simp [State.frameTest]

@[simp] theorem State.frameBulk_frame (s : State) :
    s.frameBulk.now = s.now ∧ s.frameBulk.nextSecond = s.nextSecond ∧ s.frameBulk.sample = s.sample ∧
      s.frameBulk.mag = s.mag ∧ s.frameBulk.oc = s.oc ∧ s.frameBulk.seq = s.seq ∧ s.frameBulk.act = s.act ∧
      s.frameBulk.tags = s.tags ∧ s.frameBulk.supply = s.supply ∧ s.frameBulk.reports = s.reports ∧
      s.frameBulk.faults = s.faults ∧ s.frameBulk.store = s.store ∧ s.frameBulk.cmd = s.cmd ∧
      s.frameBulk.links = s.links ∧ s.frameBulk.free = s.free ∧ s.frameBulk.pending = s.pending := by
  simp [State.frameBulk]

@[simp] theorem State.frameAbsorb_frame (s : State) :
    s.frameAbsorb.now = s.now ∧ s.frameAbsorb.nextSecond = s.nextSecond ∧ s.frameAbsorb.sample = s.sample ∧
      s.frameAbsorb.mag = s.mag ∧ s.frameAbsorb.oc = s.oc ∧ s.frameAbsorb.seq = s.seq ∧ s.frameAbsorb.act = s.act ∧
      s.frameAbsorb.tags = s.tags ∧ s.frameAbsorb.supply = s.supply ∧ s.frameAbsorb.reports = s.reports ∧
      s.frameAbsorb.faults = s.faults ∧ s.frameAbsorb.store = s.store ∧ s.frameAbsorb.cmd = s.cmd ∧
      s.frameAbsorb.links = s.links ∧ s.frameAbsorb.free = s.free ∧ s.frameAbsorb.pending = s.pending := by
  simp [State.frameAbsorb]

@[simp] theorem State.frameFloat_frame (s : State) :
    s.frameFloat.now = s.now ∧ s.frameFloat.nextSecond = s.nextSecond ∧ s.frameFloat.sample = s.sample ∧
      s.frameFloat.mag = s.mag ∧ s.frameFloat.oc = s.oc ∧ s.frameFloat.seq = s.seq ∧ s.frameFloat.act = s.act ∧
      s.frameFloat.tags = s.tags ∧ s.frameFloat.supply = s.supply ∧ s.frameFloat.reports = s.reports ∧
      s.frameFloat.faults = s.faults ∧ s.frameFloat.store = s.store ∧ s.frameFloat.cmd = s.cmd ∧
      s.frameFloat.links = s.links ∧ s.frameFloat.free = s.free ∧ s.frameFloat.pending = s.pending := by
  simp [State.frameFloat]

@[simp] theorem State.frameRest_frame (s : State) :
    s.frameRest.now = s.now ∧ s.frameRest.nextSecond = s.nextSecond ∧ s.frameRest.sample = s.sample ∧
      s.frameRest.mag = s.mag ∧ s.frameRest.oc = s.oc ∧ s.frameRest.seq = s.seq ∧ s.frameRest.act = s.act ∧
      s.frameRest.tags = s.tags ∧ s.frameRest.supply = s.supply ∧ s.frameRest.reports = s.reports ∧
      s.frameRest.faults = s.faults ∧ s.frameRest.store = s.store ∧ s.frameRest.cmd = s.cmd ∧
      s.frameRest.links = s.links ∧ s.frameRest.free = s.free ∧ s.frameRest.pending = s.pending := by
  simp [State.frameRest]

@[simp] theorem State.frameState_frame (s : State) :
    s.frameState.now = s.now ∧ s.frameState.nextSecond = s.nextSecond ∧ s.frameState.sample = s.sample ∧
      s.frameState.mag = s.mag ∧ s.frameState.oc = s.oc ∧ s.frameState.seq = s.seq ∧ s.frameState.act = s.act ∧
      s.frameState.tags = s.tags ∧ s.frameState.supply = s.supply ∧ s.frameState.reports = s.reports ∧
      s.frameState.faults = s.faults ∧ s.frameState.store = s.store ∧ s.frameState.cmd = s.cmd ∧
      s.frameState.links = s.links ∧ s.frameState.free = s.free ∧ s.frameState.pending = s.pending := by
  unfold State.frameState; (repeat' split) <;> simp

@[simp] theorem State.batteryFrame_frame (s : State) (gap : Gap) :
    (s.batteryFrame gap).now = s.now ∧ (s.batteryFrame gap).nextSecond = s.nextSecond ∧ (s.batteryFrame gap).oc = s.oc ∧
      (s.batteryFrame gap).seq = s.seq ∧ (s.batteryFrame gap).act = s.act ∧ (s.batteryFrame gap).tags = s.tags ∧
      (s.batteryFrame gap).supply = s.supply ∧ (s.batteryFrame gap).faults = s.faults ∧
      (s.batteryFrame gap).cmd = s.cmd ∧ (s.batteryFrame gap).free = s.free ∧ (s.batteryFrame gap).pending = s.pending := by
  simp [State.batteryFrame]

@[simp] theorem State.noticeNormal_frame (s : State) :
    s.noticeNormal.now = s.now ∧ s.noticeNormal.nextSecond = s.nextSecond ∧ s.noticeNormal.sample = s.sample ∧
      s.noticeNormal.mag = s.mag ∧ s.noticeNormal.oc = s.oc ∧ s.noticeNormal.seq = s.seq ∧ s.noticeNormal.act = s.act ∧
      s.noticeNormal.tags = s.tags ∧ s.noticeNormal.supply = s.supply ∧ s.noticeNormal.reports = s.reports ∧
      s.noticeNormal.faults = s.faults ∧ s.noticeNormal.store = s.store ∧ s.noticeNormal.cmd = s.cmd ∧
      s.noticeNormal.links = s.links ∧ s.noticeNormal.free = s.free ∧ s.noticeNormal.pending = s.pending := by
  simp [State.noticeNormal]

@[simp] theorem State.noticeNotNormal_frame (s : State) :
    s.noticeNotNormal.now = s.now ∧ s.noticeNotNormal.nextSecond = s.nextSecond ∧ s.noticeNotNormal.oc = s.oc ∧
      s.noticeNotNormal.seq = s.seq ∧ s.noticeNotNormal.act = s.act ∧ s.noticeNotNormal.tags = s.tags ∧
      s.noticeNotNormal.supply = s.supply ∧ s.noticeNotNormal.faults = s.faults ∧ s.noticeNotNormal.cmd = s.cmd ∧
      s.noticeNotNormal.free = s.free ∧ s.noticeNotNormal.pending = s.pending := by
  simp [State.noticeNotNormal]

@[simp] theorem State.batteryNotice_frame (s : State) (p : PowerState) :
    (s.batteryNotice p).now = s.now ∧ (s.batteryNotice p).nextSecond = s.nextSecond ∧ (s.batteryNotice p).oc = s.oc ∧
      (s.batteryNotice p).seq = s.seq ∧ (s.batteryNotice p).act = s.act ∧ (s.batteryNotice p).tags = s.tags ∧
      (s.batteryNotice p).supply = s.supply ∧ (s.batteryNotice p).faults = s.faults ∧ (s.batteryNotice p).cmd = s.cmd ∧
      (s.batteryNotice p).free = s.free ∧ (s.batteryNotice p).pending = s.pending := by
  simp [State.batteryNotice]

@[simp] theorem State.batteryStale_frame (s : State) :
    s.batteryStale.now = s.now ∧ s.batteryStale.nextSecond = s.nextSecond ∧ s.batteryStale.oc = s.oc ∧
      s.batteryStale.seq = s.seq ∧ s.batteryStale.act = s.act ∧ s.batteryStale.tags = s.tags ∧
      s.batteryStale.supply = s.supply ∧ s.batteryStale.faults = s.faults ∧ s.batteryStale.cmd = s.cmd ∧
      s.batteryStale.free = s.free ∧ s.batteryStale.pending = s.pending := by
  simp [State.batteryStale]

@[simp] theorem State.holdExpiry_frame (s : State) :
    s.holdExpiry.now = s.now ∧ s.holdExpiry.nextSecond = s.nextSecond ∧ s.holdExpiry.sample = s.sample ∧
      s.holdExpiry.mag = s.mag ∧ s.holdExpiry.oc = s.oc ∧ s.holdExpiry.seq = s.seq ∧ s.holdExpiry.act = s.act ∧
      s.holdExpiry.tags = s.tags ∧ s.holdExpiry.supply = s.supply ∧ s.holdExpiry.reports = s.reports ∧
      s.holdExpiry.faults = s.faults ∧ s.holdExpiry.store = s.store ∧ s.holdExpiry.cmd = s.cmd ∧
      s.holdExpiry.free = s.free ∧ s.holdExpiry.pending = s.pending := by
  simp [State.holdExpiry]

@[simp] theorem State.absorbExpiry_frame (s : State) :
    s.absorbExpiry.now = s.now ∧ s.absorbExpiry.nextSecond = s.nextSecond ∧ s.absorbExpiry.sample = s.sample ∧
      s.absorbExpiry.mag = s.mag ∧ s.absorbExpiry.oc = s.oc ∧ s.absorbExpiry.seq = s.seq ∧ s.absorbExpiry.act = s.act ∧
      s.absorbExpiry.tags = s.tags ∧ s.absorbExpiry.supply = s.supply ∧ s.absorbExpiry.reports = s.reports ∧
      s.absorbExpiry.faults = s.faults ∧ s.absorbExpiry.store = s.store ∧ s.absorbExpiry.cmd = s.cmd ∧
      s.absorbExpiry.free = s.free ∧ s.absorbExpiry.pending = s.pending := by
  simp [State.absorbExpiry]

@[simp] theorem State.rebulkExpiry_frame (s : State) :
    s.rebulkExpiry.now = s.now ∧ s.rebulkExpiry.nextSecond = s.nextSecond ∧ s.rebulkExpiry.sample = s.sample ∧
      s.rebulkExpiry.mag = s.mag ∧ s.rebulkExpiry.oc = s.oc ∧ s.rebulkExpiry.seq = s.seq ∧ s.rebulkExpiry.act = s.act ∧
      s.rebulkExpiry.tags = s.tags ∧ s.rebulkExpiry.supply = s.supply ∧ s.rebulkExpiry.reports = s.reports ∧
      s.rebulkExpiry.faults = s.faults ∧ s.rebulkExpiry.store = s.store ∧ s.rebulkExpiry.cmd = s.cmd ∧
      s.rebulkExpiry.free = s.free ∧ s.rebulkExpiry.pending = s.pending := by
  simp [State.rebulkExpiry]

@[simp] theorem State.floatFullExpiry_frame (s : State) :
    s.floatFullExpiry.now = s.now ∧ s.floatFullExpiry.nextSecond = s.nextSecond ∧ s.floatFullExpiry.sample = s.sample ∧
      s.floatFullExpiry.mag = s.mag ∧ s.floatFullExpiry.oc = s.oc ∧ s.floatFullExpiry.seq = s.seq ∧
      s.floatFullExpiry.act = s.act ∧ s.floatFullExpiry.tags = s.tags ∧ s.floatFullExpiry.supply = s.supply ∧
      s.floatFullExpiry.reports = s.reports ∧ s.floatFullExpiry.faults = s.faults ∧ s.floatFullExpiry.store = s.store ∧
      s.floatFullExpiry.cmd = s.cmd ∧ s.floatFullExpiry.links = s.links ∧ s.floatFullExpiry.free = s.free ∧
      s.floatFullExpiry.pending = s.pending := by
  simp [State.floatFullExpiry]

@[simp] theorem State.startTest_frame (s : State) (origin : TestOrigin) :
    (s.startTest origin).now = s.now ∧ (s.startTest origin).nextSecond = s.nextSecond ∧
      (s.startTest origin).sample = s.sample ∧ (s.startTest origin).mag = s.mag ∧ (s.startTest origin).oc = s.oc ∧
      (s.startTest origin).seq = s.seq ∧ (s.startTest origin).act = s.act ∧ (s.startTest origin).tags = s.tags ∧
      (s.startTest origin).supply = s.supply ∧ (s.startTest origin).reports = s.reports ∧
      (s.startTest origin).faults = s.faults ∧ (s.startTest origin).store = s.store ∧ (s.startTest origin).cmd = s.cmd ∧
      (s.startTest origin).free = s.free ∧ (s.startTest origin).pending = s.pending := by
  simp [State.startTest]

@[simp] theorem State.tryScheduled_frame (s : State) :
    s.tryScheduled.now = s.now ∧ s.tryScheduled.nextSecond = s.nextSecond ∧ s.tryScheduled.sample = s.sample ∧
      s.tryScheduled.mag = s.mag ∧ s.tryScheduled.oc = s.oc ∧ s.tryScheduled.seq = s.seq ∧ s.tryScheduled.act = s.act ∧
      s.tryScheduled.tags = s.tags ∧ s.tryScheduled.supply = s.supply ∧ s.tryScheduled.reports = s.reports ∧
      s.tryScheduled.faults = s.faults ∧ s.tryScheduled.store = s.store ∧ s.tryScheduled.cmd = s.cmd ∧
      s.tryScheduled.free = s.free ∧ s.tryScheduled.pending = s.pending := by
  simp [State.tryScheduled]

@[simp] theorem State.completeTest_frame (s : State) (pass : Bool) :
    (s.completeTest pass).now = s.now ∧ (s.completeTest pass).nextSecond = s.nextSecond ∧
      (s.completeTest pass).oc = s.oc ∧ (s.completeTest pass).seq = s.seq ∧ (s.completeTest pass).act = s.act ∧
      (s.completeTest pass).tags = s.tags ∧ (s.completeTest pass).supply = s.supply ∧
      (s.completeTest pass).faults = s.faults ∧ (s.completeTest pass).cmd = s.cmd ∧
      (s.completeTest pass).free = s.free ∧ (s.completeTest pass).pending = s.pending := by
  simp [State.completeTest]

@[simp] theorem State.testExpiry_frame (s : State) :
    s.testExpiry.now = s.now ∧ s.testExpiry.nextSecond = s.nextSecond ∧ s.testExpiry.oc = s.oc ∧
      s.testExpiry.seq = s.seq ∧ s.testExpiry.act = s.act ∧ s.testExpiry.tags = s.tags ∧
      s.testExpiry.supply = s.supply ∧ s.testExpiry.faults = s.faults ∧ s.testExpiry.cmd = s.cmd ∧
      s.testExpiry.free = s.free ∧ s.testExpiry.pending = s.pending := by
  simp [State.testExpiry]

@[simp] theorem State.batteryTestRequest_frame (s : State) (r : Req) :
    (s.batteryTestRequest r).now = s.now ∧ (s.batteryTestRequest r).nextSecond = s.nextSecond ∧
      (s.batteryTestRequest r).sample = s.sample ∧ (s.batteryTestRequest r).mag = s.mag ∧
      (s.batteryTestRequest r).oc = s.oc ∧ (s.batteryTestRequest r).seq = s.seq ∧ (s.batteryTestRequest r).act = s.act ∧
      (s.batteryTestRequest r).tags = s.tags ∧ (s.batteryTestRequest r).supply = s.supply ∧
      (s.batteryTestRequest r).reports = s.reports ∧ (s.batteryTestRequest r).faults = s.faults ∧
      (s.batteryTestRequest r).store = s.store ∧ (s.batteryTestRequest r).cmd = s.cmd ∧
      (s.batteryTestRequest r).free = s.free ∧ (s.batteryTestRequest r).pending = s.pending := by
  simp [State.batteryTestRequest]

@[simp] theorem State.disconnectTest_frame (s : State) :
    s.disconnectTest.now = s.now ∧ s.disconnectTest.nextSecond = s.nextSecond ∧ s.disconnectTest.sample = s.sample ∧
      s.disconnectTest.mag = s.mag ∧ s.disconnectTest.oc = s.oc ∧ s.disconnectTest.seq = s.seq ∧
      s.disconnectTest.act = s.act ∧ s.disconnectTest.tags = s.tags ∧ s.disconnectTest.reports = s.reports ∧
      s.disconnectTest.faults = s.faults ∧ s.disconnectTest.store = s.store ∧ s.disconnectTest.cmd = s.cmd ∧
      s.disconnectTest.free = s.free ∧ s.disconnectTest.pending = s.pending := by
  simp [State.disconnectTest]

@[simp] theorem State.setPower_frame (s : State) (p : PowerState) :
    (s.setPower p).now = s.now ∧ (s.setPower p).nextSecond = s.nextSecond ∧ (s.setPower p).oc = s.oc ∧
      (s.setPower p).seq = s.seq ∧ (s.setPower p).act = s.act ∧ (s.setPower p).tags = s.tags ∧
      (s.setPower p).faults = s.faults ∧ (s.setPower p).cmd = s.cmd ∧ (s.setPower p).free = s.free ∧
      (s.setPower p).pending = s.pending := by
  simp [State.setPower]

@[simp] theorem State.changePower_frame (s : State) (p : PowerState) (cause : PowerCause) :
    (s.changePower p cause).now = s.now ∧ (s.changePower p cause).nextSecond = s.nextSecond ∧
      (s.changePower p cause).oc = s.oc ∧ (s.changePower p cause).seq = s.seq ∧ (s.changePower p cause).act = s.act ∧
      (s.changePower p cause).tags = s.tags ∧ (s.changePower p cause).faults = s.faults ∧
      (s.changePower p cause).cmd = s.cmd ∧ (s.changePower p cause).free = s.free ∧
      (s.changePower p cause).pending = s.pending := by
  simp [State.changePower]

@[simp] theorem State.beginDraining_frame (s : State) (body : ReportBody) :
    (s.beginDraining body).now = s.now ∧ (s.beginDraining body).nextSecond = s.nextSecond ∧
      (s.beginDraining body).sample = s.sample ∧ (s.beginDraining body).mag = s.mag ∧ (s.beginDraining body).oc = s.oc ∧
      (s.beginDraining body).seq = s.seq ∧ (s.beginDraining body).act = s.act ∧ (s.beginDraining body).tags = s.tags ∧
      (s.beginDraining body).battery = s.battery ∧ (s.beginDraining body).faults = s.faults ∧
      (s.beginDraining body).store = s.store ∧ (s.beginDraining body).cmd = s.cmd ∧
      (s.beginDraining body).links = s.links ∧ (s.beginDraining body).free = s.free ∧
      (s.beginDraining body).pending = s.pending := by
  simp [State.beginDraining]

@[simp] theorem State.enterCutoff_frame (s : State) (cause : PowerCause) :
    (s.enterCutoff cause).now = s.now ∧ (s.enterCutoff cause).nextSecond = s.nextSecond ∧
      (s.enterCutoff cause).oc = s.oc ∧ (s.enterCutoff cause).seq = s.seq ∧ (s.enterCutoff cause).act = s.act ∧
      (s.enterCutoff cause).tags = s.tags ∧ (s.enterCutoff cause).faults = s.faults ∧
      (s.enterCutoff cause).cmd = s.cmd ∧ (s.enterCutoff cause).free = s.free ∧
      (s.enterCutoff cause).pending = s.pending := by
  simp [State.enterCutoff]

@[simp] theorem State.endStart_frame (s : State) :
    s.endStart.now = s.now ∧ s.endStart.nextSecond = s.nextSecond ∧ s.endStart.oc = s.oc ∧ s.endStart.seq = s.seq ∧
      s.endStart.act = s.act ∧ s.endStart.tags = s.tags ∧ s.endStart.faults = s.faults ∧ s.endStart.cmd = s.cmd ∧
      s.endStart.free = s.free ∧ s.endStart.pending = s.pending := by
  simp [State.endStart]

@[simp] theorem State.startCutoff_frame (s : State) :
    s.startCutoff.now = s.now ∧ s.startCutoff.nextSecond = s.nextSecond ∧ s.startCutoff.sample = s.sample ∧
      s.startCutoff.mag = s.mag ∧ s.startCutoff.oc = s.oc ∧ s.startCutoff.seq = s.seq ∧ s.startCutoff.act = s.act ∧
      s.startCutoff.tags = s.tags ∧ s.startCutoff.battery = s.battery ∧ s.startCutoff.reports = s.reports ∧
      s.startCutoff.faults = s.faults ∧ s.startCutoff.store = s.store ∧ s.startCutoff.cmd = s.cmd ∧
      s.startCutoff.links = s.links ∧ s.startCutoff.free = s.free ∧ s.startCutoff.pending = s.pending := by
  simp [State.startCutoff]

@[simp] theorem State.endStartOnFrame_frame (s : State) :
    s.endStartOnFrame.now = s.now ∧ s.endStartOnFrame.nextSecond = s.nextSecond ∧ s.endStartOnFrame.oc = s.oc ∧
      s.endStartOnFrame.seq = s.seq ∧ s.endStartOnFrame.act = s.act ∧ s.endStartOnFrame.tags = s.tags ∧
      s.endStartOnFrame.faults = s.faults ∧ s.endStartOnFrame.cmd = s.cmd ∧ s.endStartOnFrame.free = s.free ∧
      s.endStartOnFrame.pending = s.pending := by
  simp [State.endStartOnFrame]

@[simp] theorem State.powerRules_frame (s : State) (exhausted : Bool) :
    (s.powerRules exhausted).now = s.now ∧ (s.powerRules exhausted).nextSecond = s.nextSecond ∧
      (s.powerRules exhausted).oc = s.oc ∧ (s.powerRules exhausted).seq = s.seq ∧ (s.powerRules exhausted).act = s.act ∧
      (s.powerRules exhausted).tags = s.tags ∧ (s.powerRules exhausted).faults = s.faults ∧
      (s.powerRules exhausted).cmd = s.cmd ∧ (s.powerRules exhausted).free = s.free ∧
      (s.powerRules exhausted).pending = s.pending := by
  unfold State.powerRules; (repeat' split) <;> simp

@[simp] theorem State.takeMeasurements_frame (s : State) (f : CabinetFrame) :
    (s.takeMeasurements f).now = s.now ∧ (s.takeMeasurements f).nextSecond = s.nextSecond ∧
      (s.takeMeasurements f).sample = s.sample ∧ (s.takeMeasurements f).mag = s.mag ∧ (s.takeMeasurements f).oc = s.oc ∧
      (s.takeMeasurements f).seq = s.seq ∧ (s.takeMeasurements f).act = s.act ∧ (s.takeMeasurements f).tags = s.tags ∧
      (s.takeMeasurements f).battery = s.battery ∧ (s.takeMeasurements f).reports = s.reports ∧
      (s.takeMeasurements f).faults = s.faults ∧ (s.takeMeasurements f).store = s.store ∧
      (s.takeMeasurements f).cmd = s.cmd ∧ (s.takeMeasurements f).links = s.links ∧
      (s.takeMeasurements f).free = s.free ∧ (s.takeMeasurements f).pending = s.pending := by
  simp [State.takeMeasurements]

@[simp] theorem State.qualify_frame (s : State) :
    s.qualify.now = s.now ∧ s.qualify.nextSecond = s.nextSecond ∧ s.qualify.sample = s.sample ∧ s.qualify.mag = s.mag ∧
      s.qualify.oc = s.oc ∧ s.qualify.seq = s.seq ∧ s.qualify.act = s.act ∧ s.qualify.tags = s.tags ∧
      s.qualify.battery = s.battery ∧ s.qualify.reports = s.reports ∧ s.qualify.faults = s.faults ∧
      s.qualify.store = s.store ∧ s.qualify.cmd = s.cmd ∧ s.qualify.links = s.links ∧ s.qualify.free = s.free ∧
      s.qualify.pending = s.pending := by
  simp [State.qualify]

@[simp] theorem State.frameCutoff_frame (s : State) :
    s.frameCutoff.now = s.now ∧ s.frameCutoff.nextSecond = s.nextSecond ∧ s.frameCutoff.sample = s.sample ∧
      s.frameCutoff.mag = s.mag ∧ s.frameCutoff.oc = s.oc ∧ s.frameCutoff.seq = s.seq ∧ s.frameCutoff.act = s.act ∧
      s.frameCutoff.tags = s.tags ∧ s.frameCutoff.battery = s.battery ∧ s.frameCutoff.reports = s.reports ∧
      s.frameCutoff.faults = s.faults ∧ s.frameCutoff.store = s.store ∧ s.frameCutoff.cmd = s.cmd ∧
      s.frameCutoff.links = s.links ∧ s.frameCutoff.free = s.free ∧ s.frameCutoff.pending = s.pending := by
  simp [State.frameCutoff]

@[simp] theorem State.passToBattery_frame (s : State) (gap : Gap) :
    (s.passToBattery gap).now = s.now ∧ (s.passToBattery gap).nextSecond = s.nextSecond ∧
      (s.passToBattery gap).oc = s.oc ∧ (s.passToBattery gap).seq = s.seq ∧ (s.passToBattery gap).act = s.act ∧
      (s.passToBattery gap).tags = s.tags ∧ (s.passToBattery gap).supply = s.supply ∧
      (s.passToBattery gap).faults = s.faults ∧ (s.passToBattery gap).cmd = s.cmd ∧
      (s.passToBattery gap).free = s.free ∧ (s.passToBattery gap).pending = s.pending := by
  simp [State.passToBattery]

@[simp] theorem State.energyRecheck_frame (s : State) :
    s.energyRecheck.now = s.now ∧ s.energyRecheck.nextSecond = s.nextSecond ∧ s.energyRecheck.tags = s.tags ∧
      s.energyRecheck.supply = s.supply ∧ s.energyRecheck.cmd = s.cmd ∧ s.energyRecheck.free = s.free ∧
      s.energyRecheck.pending = s.pending := by
  simp [State.energyRecheck]

@[simp] theorem State.acceptCabinet_frame (s : State) (f : CabinetFrame) (gap : Gap) :
    (s.acceptCabinet f gap).now = s.now ∧ (s.acceptCabinet f gap).nextSecond = s.nextSecond ∧
      (s.acceptCabinet f gap).tags = s.tags ∧ (s.acceptCabinet f gap).cmd = s.cmd ∧
      (s.acceptCabinet f gap).free = s.free ∧ (s.acceptCabinet f gap).pending = s.pending := by
  simp [State.acceptCabinet]

@[simp] theorem State.takeCabinet_frame (s : State) (f : CabinetFrame) :
    (s.takeCabinet f).now = s.now ∧ (s.takeCabinet f).nextSecond = s.nextSecond ∧ (s.takeCabinet f).tags = s.tags ∧
      (s.takeCabinet f).cmd = s.cmd ∧ (s.takeCabinet f).free = s.free ∧ (s.takeCabinet f).pending = s.pending := by
  unfold State.takeCabinet; (repeat' split) <;> simp

@[simp] theorem State.freshnessExpiry_frame (s : State) :
    s.freshnessExpiry.now = s.now ∧ s.freshnessExpiry.nextSecond = s.nextSecond ∧ s.freshnessExpiry.oc = s.oc ∧
      s.freshnessExpiry.seq = s.seq ∧ s.freshnessExpiry.act = s.act ∧ s.freshnessExpiry.tags = s.tags ∧
      s.freshnessExpiry.faults = s.faults ∧ s.freshnessExpiry.cmd = s.cmd ∧ s.freshnessExpiry.free = s.free ∧
      s.freshnessExpiry.pending = s.pending := by
  simp [State.freshnessExpiry]

@[simp] theorem State.qualifyExpiry_frame (s : State) :
    s.qualifyExpiry.now = s.now ∧ s.qualifyExpiry.nextSecond = s.nextSecond ∧ s.qualifyExpiry.oc = s.oc ∧
      s.qualifyExpiry.seq = s.seq ∧ s.qualifyExpiry.act = s.act ∧ s.qualifyExpiry.tags = s.tags ∧
      s.qualifyExpiry.faults = s.faults ∧ s.qualifyExpiry.cmd = s.cmd ∧ s.qualifyExpiry.free = s.free ∧
      s.qualifyExpiry.pending = s.pending := by
  simp [State.qualifyExpiry]

@[simp] theorem State.cutoffExpiry_frame (s : State) :
    s.cutoffExpiry.now = s.now ∧ s.cutoffExpiry.nextSecond = s.nextSecond ∧ s.cutoffExpiry.oc = s.oc ∧
      s.cutoffExpiry.seq = s.seq ∧ s.cutoffExpiry.act = s.act ∧ s.cutoffExpiry.tags = s.tags ∧
      s.cutoffExpiry.faults = s.faults ∧ s.cutoffExpiry.cmd = s.cmd ∧ s.cutoffExpiry.free = s.free ∧
      s.cutoffExpiry.pending = s.pending := by
  simp [State.cutoffExpiry]

@[simp] theorem State.fenceRestart_frame (s : State) :
    s.fenceRestart.now = s.now ∧ s.fenceRestart.nextSecond = s.nextSecond ∧ s.fenceRestart.sample = s.sample ∧
      s.fenceRestart.mag = s.mag ∧ s.fenceRestart.oc = s.oc ∧ s.fenceRestart.seq = s.seq ∧ s.fenceRestart.act = s.act ∧
      s.fenceRestart.tags = s.tags ∧ s.fenceRestart.supply = s.supply ∧ s.fenceRestart.battery = s.battery ∧
      s.fenceRestart.reports = s.reports ∧ s.fenceRestart.faults = s.faults ∧ s.fenceRestart.store = s.store ∧
      s.fenceRestart.links = s.links ∧ s.fenceRestart.free = s.free ∧ s.fenceRestart.pending = s.pending := by
  simp [State.fenceRestart]

@[simp] theorem State.idleNotice_frame (s : State) :
    s.idleNotice.now = s.now ∧ s.idleNotice.nextSecond = s.nextSecond ∧ s.idleNotice.sample = s.sample ∧
      s.idleNotice.mag = s.mag ∧ s.idleNotice.oc = s.oc ∧ s.idleNotice.seq = s.seq ∧ s.idleNotice.act = s.act ∧
      s.idleNotice.tags = s.tags ∧ s.idleNotice.reports = s.reports ∧ s.idleNotice.faults = s.faults ∧
      s.idleNotice.store = s.store ∧ s.idleNotice.free = s.free ∧ s.idleNotice.pending = s.pending := by
  simp [State.idleNotice]

@[simp] theorem State.arrayFreed_frame (s : State) :
    s.arrayFreed.now = s.now ∧ s.arrayFreed.nextSecond = s.nextSecond ∧ s.arrayFreed.sample = s.sample ∧
      s.arrayFreed.mag = s.mag ∧ s.arrayFreed.oc = s.oc ∧ s.arrayFreed.seq = s.seq ∧ s.arrayFreed.act = s.act ∧
      s.arrayFreed.reports = s.reports ∧ s.arrayFreed.faults = s.faults ∧ s.arrayFreed.free = s.free ∧
      s.arrayFreed.pending = s.pending := by
  simp [State.arrayFreed]

@[simp] theorem State.endJob_frame (s : State) :
    s.endJob.now = s.now ∧ s.endJob.nextSecond = s.nextSecond ∧ s.endJob.sample = s.sample ∧ s.endJob.mag = s.mag ∧
      s.endJob.oc = s.oc ∧ s.endJob.seq = s.seq ∧ s.endJob.act = s.act ∧ s.endJob.tags = s.tags ∧
      s.endJob.supply = s.supply ∧ s.endJob.battery = s.battery ∧ s.endJob.reports = s.reports ∧
      s.endJob.faults = s.faults ∧ s.endJob.cmd = s.cmd ∧ s.endJob.links = s.links ∧ s.endJob.free = s.free ∧
      s.endJob.pending = s.pending := by
  simp [State.endJob]

@[simp] theorem State.useFree_frame (s : State) :
    s.useFree.now = s.now ∧ s.useFree.nextSecond = s.nextSecond ∧ s.useFree.sample = s.sample ∧ s.useFree.mag = s.mag ∧
      s.useFree.oc = s.oc ∧ s.useFree.seq = s.seq ∧ s.useFree.act = s.act ∧ s.useFree.tags = s.tags ∧
      s.useFree.supply = s.supply ∧ s.useFree.battery = s.battery ∧ s.useFree.reports = s.reports ∧
      s.useFree.faults = s.faults ∧ s.useFree.store = s.store ∧ s.useFree.cmd = s.cmd ∧ s.useFree.links = s.links ∧
      s.useFree.pending = s.pending := by
  simp [State.useFree]

end Sys2Proof.Machine
end

