-- ==== Sys2Proof/Laws/FramesRequests.lean ====
section
/-! SUPPORT. Frames: the parts of the state that the operations of the Tag Table, the Report Queue, the settings, the Command Unit and the start-up leave as they are. -/

namespace Sys2Proof.Machine

@[simp] theorem State.refuseTag_frame (s : State) (r : Req) (k : RequestKind) (c : ResultCode) (crew : Word) :
    (s.refuseTag r k c crew).now = s.now ∧ (s.refuseTag r k c crew).nextSecond = s.nextSecond ∧
      (s.refuseTag r k c crew).sample = s.sample ∧ (s.refuseTag r k c crew).mag = s.mag ∧
      (s.refuseTag r k c crew).oc = s.oc ∧ (s.refuseTag r k c crew).seq = s.seq ∧ (s.refuseTag r k c crew).act = s.act ∧
      (s.refuseTag r k c crew).tags = s.tags ∧ (s.refuseTag r k c crew).supply = s.supply ∧
      (s.refuseTag r k c crew).battery = s.battery ∧ (s.refuseTag r k c crew).reports = s.reports ∧
      (s.refuseTag r k c crew).faults = s.faults ∧ (s.refuseTag r k c crew).store = s.store ∧
      (s.refuseTag r k c crew).cmd = s.cmd ∧ (s.refuseTag r k c crew).free = s.free ∧
      (s.refuseTag r k c crew).pending = s.pending := by
  simp [State.refuseTag]

@[simp] theorem State.setSlot_frame (s : State) (i : Nat) (r : Option TagRecord) :
    (s.setSlot i r).now = s.now ∧ (s.setSlot i r).nextSecond = s.nextSecond ∧ (s.setSlot i r).sample = s.sample ∧
      (s.setSlot i r).mag = s.mag ∧ (s.setSlot i r).oc = s.oc ∧ (s.setSlot i r).seq = s.seq ∧
      (s.setSlot i r).act = s.act ∧ (s.setSlot i r).supply = s.supply ∧ (s.setSlot i r).battery = s.battery ∧
      (s.setSlot i r).reports = s.reports ∧ (s.setSlot i r).faults = s.faults ∧ (s.setSlot i r).store = s.store ∧
      (s.setSlot i r).cmd = s.cmd ∧ (s.setSlot i r).links = s.links ∧ (s.setSlot i r).free = s.free ∧
      (s.setSlot i r).pending = s.pending := by
  simp [State.setSlot]

@[simp] theorem State.enterTag_frame (s : State) (slot : Nat) (rec : TagRecord) :
    (s.enterTag slot rec).now = s.now ∧ (s.enterTag slot rec).nextSecond = s.nextSecond ∧
      (s.enterTag slot rec).supply = s.supply ∧ (s.enterTag slot rec).cmd = s.cmd ∧
      (s.enterTag slot rec).free = s.free ∧ (s.enterTag slot rec).pending = s.pending := by
  simp [State.enterTag]

@[simp] theorem State.tagPlaceRequest_frame (s : State) (r : Req) (crew : Word) (kind : Byte) :
    (s.tagPlaceRequest r crew kind).now = s.now ∧ (s.tagPlaceRequest r crew kind).nextSecond = s.nextSecond ∧
      (s.tagPlaceRequest r crew kind).supply = s.supply ∧ (s.tagPlaceRequest r crew kind).cmd = s.cmd ∧
      (s.tagPlaceRequest r crew kind).free = s.free ∧ (s.tagPlaceRequest r crew kind).pending = s.pending := by
  unfold State.tagPlaceRequest; (repeat' split) <;> simp

@[simp] theorem State.beginRemoval_frame (s : State) (i : Nat) (rec : TagRecord) (r : Req) :
    (s.beginRemoval i rec r).now = s.now ∧ (s.beginRemoval i rec r).nextSecond = s.nextSecond ∧
      (s.beginRemoval i rec r).sample = s.sample ∧ (s.beginRemoval i rec r).mag = s.mag ∧
      (s.beginRemoval i rec r).oc = s.oc ∧ (s.beginRemoval i rec r).seq = s.seq ∧ (s.beginRemoval i rec r).act = s.act ∧
      (s.beginRemoval i rec r).supply = s.supply ∧ (s.beginRemoval i rec r).battery = s.battery ∧
      (s.beginRemoval i rec r).reports = s.reports ∧ (s.beginRemoval i rec r).faults = s.faults ∧
      (s.beginRemoval i rec r).store = s.store ∧ (s.beginRemoval i rec r).cmd = s.cmd ∧
      (s.beginRemoval i rec r).links = s.links ∧ (s.beginRemoval i rec r).free = s.free ∧
      (s.beginRemoval i rec r).pending = s.pending := by
  simp [State.beginRemoval]

@[simp] theorem State.tagRemoveRequest_frame (s : State) (r : Req) (crew : Word) :
    (s.tagRemoveRequest r crew).now = s.now ∧ (s.tagRemoveRequest r crew).nextSecond = s.nextSecond ∧
      (s.tagRemoveRequest r crew).sample = s.sample ∧ (s.tagRemoveRequest r crew).mag = s.mag ∧
      (s.tagRemoveRequest r crew).oc = s.oc ∧ (s.tagRemoveRequest r crew).seq = s.seq ∧
      (s.tagRemoveRequest r crew).act = s.act ∧ (s.tagRemoveRequest r crew).supply = s.supply ∧
      (s.tagRemoveRequest r crew).battery = s.battery ∧ (s.tagRemoveRequest r crew).reports = s.reports ∧
      (s.tagRemoveRequest r crew).faults = s.faults ∧ (s.tagRemoveRequest r crew).store = s.store ∧
      (s.tagRemoveRequest r crew).cmd = s.cmd ∧ (s.tagRemoveRequest r crew).free = s.free ∧
      (s.tagRemoveRequest r crew).pending = s.pending := by
  unfold State.tagRemoveRequest; (repeat' split) <;> simp

@[simp] theorem State.tagReport_frame (s : State) (e : TagEvent) (r : TagRecord) (slot : Nat) :
    (s.tagReport e r slot).now = s.now ∧ (s.tagReport e r slot).nextSecond = s.nextSecond ∧
      (s.tagReport e r slot).sample = s.sample ∧ (s.tagReport e r slot).mag = s.mag ∧ (s.tagReport e r slot).oc = s.oc ∧
      (s.tagReport e r slot).seq = s.seq ∧ (s.tagReport e r slot).act = s.act ∧ (s.tagReport e r slot).tags = s.tags ∧
      (s.tagReport e r slot).supply = s.supply ∧ (s.tagReport e r slot).battery = s.battery ∧
      (s.tagReport e r slot).faults = s.faults ∧ (s.tagReport e r slot).store = s.store ∧
      (s.tagReport e r slot).cmd = s.cmd ∧ (s.tagReport e r slot).links = s.links ∧
      (s.tagReport e r slot).free = s.free ∧ (s.tagReport e r slot).pending = s.pending := by
  simp [State.tagReport]

@[simp] theorem State.answerTag_frame (s : State) (r : TagRecord) (k : RequestKind) (c : ResultCode) (slot : Nat) (st : Option TagState) :
    (s.answerTag r k c slot st).now = s.now ∧ (s.answerTag r k c slot st).nextSecond = s.nextSecond ∧
      (s.answerTag r k c slot st).sample = s.sample ∧ (s.answerTag r k c slot st).mag = s.mag ∧
      (s.answerTag r k c slot st).oc = s.oc ∧ (s.answerTag r k c slot st).seq = s.seq ∧
      (s.answerTag r k c slot st).act = s.act ∧ (s.answerTag r k c slot st).tags = s.tags ∧
      (s.answerTag r k c slot st).supply = s.supply ∧ (s.answerTag r k c slot st).battery = s.battery ∧
      (s.answerTag r k c slot st).reports = s.reports ∧ (s.answerTag r k c slot st).faults = s.faults ∧
      (s.answerTag r k c slot st).store = s.store ∧ (s.answerTag r k c slot st).cmd = s.cmd ∧
      (s.answerTag r k c slot st).free = s.free ∧ (s.answerTag r k c slot st).pending = s.pending := by
  unfold State.answerTag; (repeat' split) <;> simp

@[simp] theorem State.concludeRecord_frame (s : State) (verified : Bool) (i : Nat) (r : TagRecord) :
    (s.concludeRecord verified i r).now = s.now ∧ (s.concludeRecord verified i r).nextSecond = s.nextSecond ∧
      (s.concludeRecord verified i r).sample = s.sample ∧ (s.concludeRecord verified i r).mag = s.mag ∧
      (s.concludeRecord verified i r).oc = s.oc ∧ (s.concludeRecord verified i r).seq = s.seq ∧
      (s.concludeRecord verified i r).act = s.act ∧ (s.concludeRecord verified i r).supply = s.supply ∧
      (s.concludeRecord verified i r).battery = s.battery ∧ (s.concludeRecord verified i r).faults = s.faults ∧
      (s.concludeRecord verified i r).store = s.store ∧ (s.concludeRecord verified i r).cmd = s.cmd ∧
      (s.concludeRecord verified i r).free = s.free ∧ (s.concludeRecord verified i r).pending = s.pending := by
  unfold State.concludeRecord; (repeat' split) <;> simp

@[simp] theorem State.concludeSlot_frame (verified : Bool) (s : State) (i : Nat) :
    (State.concludeSlot verified s i).now = s.now ∧ (State.concludeSlot verified s i).nextSecond = s.nextSecond ∧
      (State.concludeSlot verified s i).sample = s.sample ∧ (State.concludeSlot verified s i).mag = s.mag ∧
      (State.concludeSlot verified s i).oc = s.oc ∧ (State.concludeSlot verified s i).seq = s.seq ∧
      (State.concludeSlot verified s i).act = s.act ∧ (State.concludeSlot verified s i).supply = s.supply ∧
      (State.concludeSlot verified s i).battery = s.battery ∧ (State.concludeSlot verified s i).faults = s.faults ∧
      (State.concludeSlot verified s i).store = s.store ∧ (State.concludeSlot verified s i).cmd = s.cmd ∧
      (State.concludeSlot verified s i).free = s.free ∧ (State.concludeSlot verified s i).pending = s.pending := by
  unfold State.concludeSlot; (repeat' split) <;> simp

@[simp] theorem State.concludeSlots_frame (s : State) (verified : Bool) :
    (s.concludeSlots verified).now = s.now ∧ (s.concludeSlots verified).nextSecond = s.nextSecond ∧
      (s.concludeSlots verified).sample = s.sample ∧ (s.concludeSlots verified).mag = s.mag ∧
      (s.concludeSlots verified).oc = s.oc ∧ (s.concludeSlots verified).seq = s.seq ∧
      (s.concludeSlots verified).act = s.act ∧ (s.concludeSlots verified).supply = s.supply ∧
      (s.concludeSlots verified).battery = s.battery ∧ (s.concludeSlots verified).faults = s.faults ∧
      (s.concludeSlots verified).store = s.store ∧ (s.concludeSlots verified).cmd = s.cmd ∧
      (s.concludeSlots verified).free = s.free ∧ (s.concludeSlots verified).pending = s.pending := by
  unfold State.concludeSlots
  refine List.foldlRecOn (motive := fun t : State => t.now = s.now ∧ t.nextSecond = s.nextSecond ∧ t.sample = s.sample ∧ t.mag = s.mag ∧ t.oc = s.oc ∧ t.seq = s.seq ∧ t.act = s.act ∧ t.supply = s.supply ∧ t.battery = s.battery ∧ t.faults = s.faults ∧ t.store = s.store ∧ t.cmd = s.cmd ∧ t.free = s.free ∧ t.pending = s.pending) _ _ (by simp) ?_
  intro t h i _
  simpa using h

@[simp] theorem State.storeTagImage_frame (s : State) (image : List TagImageRecord) (verified : Bool) :
    (s.storeTagImage image verified).now = s.now ∧ (s.storeTagImage image verified).nextSecond = s.nextSecond ∧
      (s.storeTagImage image verified).sample = s.sample ∧ (s.storeTagImage image verified).mag = s.mag ∧
      (s.storeTagImage image verified).oc = s.oc ∧ (s.storeTagImage image verified).seq = s.seq ∧
      (s.storeTagImage image verified).act = s.act ∧ (s.storeTagImage image verified).tags = s.tags ∧
      (s.storeTagImage image verified).supply = s.supply ∧ (s.storeTagImage image verified).battery = s.battery ∧
      (s.storeTagImage image verified).reports = s.reports ∧ (s.storeTagImage image verified).faults = s.faults ∧
      (s.storeTagImage image verified).cmd = s.cmd ∧ (s.storeTagImage image verified).links = s.links ∧
      (s.storeTagImage image verified).pending = s.pending := by
  simp [State.storeTagImage]

@[simp] theorem State.tagWriteEnd_frame (s : State) (image : List TagImageRecord) (verified : Bool) :
    (s.tagWriteEnd image verified).now = s.now ∧ (s.tagWriteEnd image verified).nextSecond = s.nextSecond ∧
      (s.tagWriteEnd image verified).sample = s.sample ∧ (s.tagWriteEnd image verified).mag = s.mag ∧
      (s.tagWriteEnd image verified).oc = s.oc ∧ (s.tagWriteEnd image verified).seq = s.seq ∧
      (s.tagWriteEnd image verified).act = s.act ∧ (s.tagWriteEnd image verified).supply = s.supply ∧
      (s.tagWriteEnd image verified).battery = s.battery ∧ (s.tagWriteEnd image verified).faults = s.faults ∧
      (s.tagWriteEnd image verified).cmd = s.cmd ∧ (s.tagWriteEnd image verified).pending = s.pending := by
  simp [State.tagWriteEnd]

@[simp] theorem State.tagImageDefaulted_frame (s : State) (cause : ImageCause) :
    (s.tagImageDefaulted cause).now = s.now ∧ (s.tagImageDefaulted cause).nextSecond = s.nextSecond ∧
      (s.tagImageDefaulted cause).sample = s.sample ∧ (s.tagImageDefaulted cause).mag = s.mag ∧
      (s.tagImageDefaulted cause).oc = s.oc ∧ (s.tagImageDefaulted cause).seq = s.seq ∧
      (s.tagImageDefaulted cause).act = s.act ∧ (s.tagImageDefaulted cause).tags = bootTags ∧
      (s.tagImageDefaulted cause).supply = s.supply ∧ (s.tagImageDefaulted cause).battery = s.battery ∧
      (s.tagImageDefaulted cause).faults = s.faults ∧ (s.tagImageDefaulted cause).store = s.store ∧
      (s.tagImageDefaulted cause).cmd = s.cmd ∧ (s.tagImageDefaulted cause).links = s.links ∧
      (s.tagImageDefaulted cause).free = s.free ∧ (s.tagImageDefaulted cause).pending = s.pending := by
  simp [State.tagImageDefaulted]

@[simp] theorem State.restoreTags_frame (s : State) :
    s.restoreTags.now = s.now ∧ s.restoreTags.nextSecond = s.nextSecond ∧ s.restoreTags.supply = s.supply ∧
      s.restoreTags.cmd = s.cmd ∧ s.restoreTags.free = s.free ∧ s.restoreTags.pending = s.pending := by
  unfold State.restoreTags; (repeat' split) <;> simp

@[simp] theorem State.statusExpiry_frame (s : State) :
    s.statusExpiry.now = s.now ∧ s.statusExpiry.nextSecond = s.nextSecond ∧ s.statusExpiry.sample = s.sample ∧
      s.statusExpiry.mag = s.mag ∧ s.statusExpiry.oc = s.oc ∧ s.statusExpiry.seq = s.seq ∧ s.statusExpiry.act = s.act ∧
      s.statusExpiry.tags = s.tags ∧ s.statusExpiry.supply = s.supply ∧ s.statusExpiry.battery = s.battery ∧
      s.statusExpiry.faults = s.faults ∧ s.statusExpiry.store = s.store ∧ s.statusExpiry.cmd = s.cmd ∧
      s.statusExpiry.links = s.links ∧ s.statusExpiry.free = s.free ∧ s.statusExpiry.pending = s.pending := by
  simp [State.statusExpiry]

@[simp] theorem State.finalNotice_frame (s : State) (number : Word) :
    (s.finalNotice number).now = s.now ∧ (s.finalNotice number).nextSecond = s.nextSecond ∧
      (s.finalNotice number).sample = s.sample ∧ (s.finalNotice number).mag = s.mag ∧ (s.finalNotice number).oc = s.oc ∧
      (s.finalNotice number).seq = s.seq ∧ (s.finalNotice number).act = s.act ∧ (s.finalNotice number).tags = s.tags ∧
      (s.finalNotice number).reports = s.reports ∧ (s.finalNotice number).faults = s.faults ∧
      (s.finalNotice number).store = s.store ∧ (s.finalNotice number).cmd = s.cmd ∧
      (s.finalNotice number).free = s.free ∧ (s.finalNotice number).pending = s.pending := by
  simp [State.finalNotice]

@[simp] theorem State.chargeSent_frame (s : State) (r : Report) :
    (s.chargeSent r).now = s.now ∧ (s.chargeSent r).nextSecond = s.nextSecond ∧ (s.chargeSent r).sample = s.sample ∧
      (s.chargeSent r).mag = s.mag ∧ (s.chargeSent r).oc = s.oc ∧ (s.chargeSent r).seq = s.seq ∧
      (s.chargeSent r).act = s.act ∧ (s.chargeSent r).tags = s.tags ∧ (s.chargeSent r).supply = s.supply ∧
      (s.chargeSent r).battery = s.battery ∧ (s.chargeSent r).faults = s.faults ∧ (s.chargeSent r).store = s.store ∧
      (s.chargeSent r).cmd = s.cmd ∧ (s.chargeSent r).links = s.links ∧ (s.chargeSent r).free = s.free ∧
      (s.chargeSent r).pending = s.pending := by
  simp [State.chargeSent]

@[simp] theorem State.sendReport_frame (s : State) (q : Req) (r : Report) :
    (s.sendReport q r).now = s.now ∧ (s.sendReport q r).nextSecond = s.nextSecond ∧
      (s.sendReport q r).sample = s.sample ∧ (s.sendReport q r).mag = s.mag ∧ (s.sendReport q r).oc = s.oc ∧
      (s.sendReport q r).seq = s.seq ∧ (s.sendReport q r).act = s.act ∧ (s.sendReport q r).tags = s.tags ∧
      (s.sendReport q r).faults = s.faults ∧ (s.sendReport q r).store = s.store ∧ (s.sendReport q r).cmd = s.cmd ∧
      (s.sendReport q r).free = s.free ∧ (s.sendReport q r).pending = s.pending := by
  simp [State.sendReport]

@[simp] theorem State.poll_frame (s : State) (q : Req) :
    (s.poll q).now = s.now ∧ (s.poll q).nextSecond = s.nextSecond ∧ (s.poll q).sample = s.sample ∧
      (s.poll q).mag = s.mag ∧ (s.poll q).oc = s.oc ∧ (s.poll q).seq = s.seq ∧ (s.poll q).act = s.act ∧
      (s.poll q).tags = s.tags ∧ (s.poll q).faults = s.faults ∧ (s.poll q).store = s.store ∧ (s.poll q).cmd = s.cmd ∧
      (s.poll q).free = s.free ∧ (s.poll q).pending = s.pending := by
  unfold State.poll; (repeat' split) <;> simp

@[simp] theorem State.acknowledge_frame (s : State) (q : Req) (number : Word) :
    (s.acknowledge q number).now = s.now ∧ (s.acknowledge q number).nextSecond = s.nextSecond ∧
      (s.acknowledge q number).sample = s.sample ∧ (s.acknowledge q number).mag = s.mag ∧
      (s.acknowledge q number).oc = s.oc ∧ (s.acknowledge q number).seq = s.seq ∧ (s.acknowledge q number).act = s.act ∧
      (s.acknowledge q number).tags = s.tags ∧ (s.acknowledge q number).supply = s.supply ∧
      (s.acknowledge q number).battery = s.battery ∧ (s.acknowledge q number).faults = s.faults ∧
      (s.acknowledge q number).store = s.store ∧ (s.acknowledge q number).cmd = s.cmd ∧
      (s.acknowledge q number).free = s.free ∧ (s.acknowledge q number).pending = s.pending := by
  simp [State.acknowledge]

@[simp] theorem State.ackExpiry_frame (s : State) (number : Word) :
    (s.ackExpiry number).now = s.now ∧ (s.ackExpiry number).nextSecond = s.nextSecond ∧
      (s.ackExpiry number).sample = s.sample ∧ (s.ackExpiry number).mag = s.mag ∧ (s.ackExpiry number).oc = s.oc ∧
      (s.ackExpiry number).seq = s.seq ∧ (s.ackExpiry number).act = s.act ∧ (s.ackExpiry number).tags = s.tags ∧
      (s.ackExpiry number).supply = s.supply ∧ (s.ackExpiry number).battery = s.battery ∧
      (s.ackExpiry number).faults = s.faults ∧ (s.ackExpiry number).store = s.store ∧ (s.ackExpiry number).cmd = s.cmd ∧
      (s.ackExpiry number).links = s.links ∧ (s.ackExpiry number).free = s.free ∧
      (s.ackExpiry number).pending = s.pending := by
  simp [State.ackExpiry]

@[simp] theorem State.faultRead_frame (s : State) (q : Req) (number : Word) :
    (s.faultRead q number).now = s.now ∧ (s.faultRead q number).nextSecond = s.nextSecond ∧
      (s.faultRead q number).sample = s.sample ∧ (s.faultRead q number).mag = s.mag ∧ (s.faultRead q number).oc = s.oc ∧
      (s.faultRead q number).seq = s.seq ∧ (s.faultRead q number).act = s.act ∧ (s.faultRead q number).tags = s.tags ∧
      (s.faultRead q number).supply = s.supply ∧ (s.faultRead q number).battery = s.battery ∧
      (s.faultRead q number).reports = s.reports ∧ (s.faultRead q number).faults = s.faults ∧
      (s.faultRead q number).store = s.store ∧ (s.faultRead q number).cmd = s.cmd ∧
      (s.faultRead q number).free = s.free ∧ (s.faultRead q number).pending = s.pending := by
  unfold State.faultRead; (repeat' split) <;> simp

@[simp] theorem State.setLock_frame (s : State) (id : Nat) (b : Bool) :
    (s.setLock id b).now = s.now ∧ (s.setLock id b).nextSecond = s.nextSecond ∧ (s.setLock id b).sample = s.sample ∧
      (s.setLock id b).mag = s.mag ∧ (s.setLock id b).oc = s.oc ∧ (s.setLock id b).seq = s.seq ∧
      (s.setLock id b).act = s.act ∧ (s.setLock id b).tags = s.tags ∧ (s.setLock id b).supply = s.supply ∧
      (s.setLock id b).battery = s.battery ∧ (s.setLock id b).reports = s.reports ∧ (s.setLock id b).faults = s.faults ∧
      (s.setLock id b).cmd = s.cmd ∧ (s.setLock id b).links = s.links ∧ (s.setLock id b).free = s.free ∧
      (s.setLock id b).pending = s.pending := by
  simp [State.setLock]

@[simp] theorem State.setBuffer_frame (s : State) (b : StagingBuffer) :
    (s.setBuffer b).now = s.now ∧ (s.setBuffer b).nextSecond = s.nextSecond ∧ (s.setBuffer b).sample = s.sample ∧
      (s.setBuffer b).mag = s.mag ∧ (s.setBuffer b).oc = s.oc ∧ (s.setBuffer b).seq = s.seq ∧
      (s.setBuffer b).act = s.act ∧ (s.setBuffer b).tags = s.tags ∧ (s.setBuffer b).supply = s.supply ∧
      (s.setBuffer b).battery = s.battery ∧ (s.setBuffer b).reports = s.reports ∧ (s.setBuffer b).faults = s.faults ∧
      (s.setBuffer b).cmd = s.cmd ∧ (s.setBuffer b).links = s.links ∧ (s.setBuffer b).free = s.free ∧
      (s.setBuffer b).pending = s.pending := by
  simp [State.setBuffer]

@[simp] theorem State.tableUnlockRequest_frame (s : State) (r : Req) (table : Nat) :
    (s.tableUnlockRequest r table).now = s.now ∧ (s.tableUnlockRequest r table).nextSecond = s.nextSecond ∧
      (s.tableUnlockRequest r table).sample = s.sample ∧ (s.tableUnlockRequest r table).mag = s.mag ∧
      (s.tableUnlockRequest r table).oc = s.oc ∧ (s.tableUnlockRequest r table).seq = s.seq ∧
      (s.tableUnlockRequest r table).act = s.act ∧ (s.tableUnlockRequest r table).tags = s.tags ∧
      (s.tableUnlockRequest r table).supply = s.supply ∧ (s.tableUnlockRequest r table).battery = s.battery ∧
      (s.tableUnlockRequest r table).reports = s.reports ∧ (s.tableUnlockRequest r table).faults = s.faults ∧
      (s.tableUnlockRequest r table).cmd = s.cmd ∧ (s.tableUnlockRequest r table).free = s.free ∧
      (s.tableUnlockRequest r table).pending = s.pending := by
  simp [State.tableUnlockRequest]

@[simp] theorem State.tableBeginRequest_frame (s : State) (r : Req) (table length : Nat) :
    (s.tableBeginRequest r table length).now = s.now ∧ (s.tableBeginRequest r table length).nextSecond = s.nextSecond ∧
      (s.tableBeginRequest r table length).sample = s.sample ∧ (s.tableBeginRequest r table length).mag = s.mag ∧
      (s.tableBeginRequest r table length).oc = s.oc ∧ (s.tableBeginRequest r table length).seq = s.seq ∧
      (s.tableBeginRequest r table length).act = s.act ∧ (s.tableBeginRequest r table length).tags = s.tags ∧
      (s.tableBeginRequest r table length).supply = s.supply ∧
      (s.tableBeginRequest r table length).battery = s.battery ∧
      (s.tableBeginRequest r table length).reports = s.reports ∧
      (s.tableBeginRequest r table length).faults = s.faults ∧ (s.tableBeginRequest r table length).cmd = s.cmd ∧
      (s.tableBeginRequest r table length).free = s.free ∧ (s.tableBeginRequest r table length).pending = s.pending := by
  simp [State.tableBeginRequest]

@[simp] theorem State.tableDataRequest_frame (s : State) (r : Req) (offset : Nat) (ws : List Word) :
    (s.tableDataRequest r offset ws).now = s.now ∧ (s.tableDataRequest r offset ws).nextSecond = s.nextSecond ∧
      (s.tableDataRequest r offset ws).sample = s.sample ∧ (s.tableDataRequest r offset ws).mag = s.mag ∧
      (s.tableDataRequest r offset ws).oc = s.oc ∧ (s.tableDataRequest r offset ws).seq = s.seq ∧
      (s.tableDataRequest r offset ws).act = s.act ∧ (s.tableDataRequest r offset ws).tags = s.tags ∧
      (s.tableDataRequest r offset ws).supply = s.supply ∧ (s.tableDataRequest r offset ws).battery = s.battery ∧
      (s.tableDataRequest r offset ws).reports = s.reports ∧ (s.tableDataRequest r offset ws).faults = s.faults ∧
      (s.tableDataRequest r offset ws).cmd = s.cmd ∧ (s.tableDataRequest r offset ws).free = s.free ∧
      (s.tableDataRequest r offset ws).pending = s.pending := by
  simp [State.tableDataRequest]

@[simp] theorem State.giveUp_frame (s : State) :
    s.giveUp.now = s.now ∧ s.giveUp.nextSecond = s.nextSecond ∧ s.giveUp.sample = s.sample ∧ s.giveUp.mag = s.mag ∧
      s.giveUp.oc = s.oc ∧ s.giveUp.seq = s.seq ∧ s.giveUp.act = s.act ∧ s.giveUp.tags = s.tags ∧
      s.giveUp.supply = s.supply ∧ s.giveUp.battery = s.battery ∧ s.giveUp.reports = s.reports ∧
      s.giveUp.faults = s.faults ∧ s.giveUp.cmd = s.cmd ∧ s.giveUp.links = s.links ∧ s.giveUp.free = s.free ∧
      s.giveUp.pending = s.pending := by
  simp [State.giveUp]

@[simp] theorem State.commitOutcome_frame (s : State) (r : Req) :
    (s.commitOutcome r).now = s.now ∧ (s.commitOutcome r).nextSecond = s.nextSecond ∧ (s.commitOutcome r).oc = s.oc ∧
      (s.commitOutcome r).seq = s.seq ∧ (s.commitOutcome r).act = s.act ∧ (s.commitOutcome r).tags = s.tags ∧
      (s.commitOutcome r).supply = s.supply ∧ (s.commitOutcome r).faults = s.faults ∧ (s.commitOutcome r).cmd = s.cmd ∧
      (s.commitOutcome r).free = s.free ∧ (s.commitOutcome r).pending = s.pending := by
  unfold State.commitOutcome; dsimp only; (repeat' split) <;> simp

@[simp] theorem State.tableCommitRequest_frame (s : State) (r : Req) :
    (s.tableCommitRequest r).now = s.now ∧ (s.tableCommitRequest r).nextSecond = s.nextSecond ∧
      (s.tableCommitRequest r).oc = s.oc ∧ (s.tableCommitRequest r).seq = s.seq ∧ (s.tableCommitRequest r).act = s.act ∧
      (s.tableCommitRequest r).tags = s.tags ∧ (s.tableCommitRequest r).supply = s.supply ∧
      (s.tableCommitRequest r).faults = s.faults ∧ (s.tableCommitRequest r).cmd = s.cmd ∧
      (s.tableCommitRequest r).free = s.free ∧ (s.tableCommitRequest r).pending = s.pending := by
  simp [State.tableCommitRequest]

@[simp] theorem State.tableAbortRequest_frame (s : State) (r : Req) :
    (s.tableAbortRequest r).now = s.now ∧ (s.tableAbortRequest r).nextSecond = s.nextSecond ∧
      (s.tableAbortRequest r).sample = s.sample ∧ (s.tableAbortRequest r).mag = s.mag ∧
      (s.tableAbortRequest r).oc = s.oc ∧ (s.tableAbortRequest r).seq = s.seq ∧ (s.tableAbortRequest r).act = s.act ∧
      (s.tableAbortRequest r).tags = s.tags ∧ (s.tableAbortRequest r).supply = s.supply ∧
      (s.tableAbortRequest r).battery = s.battery ∧ (s.tableAbortRequest r).reports = s.reports ∧
      (s.tableAbortRequest r).faults = s.faults ∧ (s.tableAbortRequest r).cmd = s.cmd ∧
      (s.tableAbortRequest r).free = s.free ∧ (s.tableAbortRequest r).pending = s.pending := by
  unfold State.tableAbortRequest; (repeat' split) <;> simp

@[simp] theorem State.tableReadRequest_frame (s : State) (r : Req) (table offset count : Nat) :
    (s.tableReadRequest r table offset count).now = s.now ∧
      (s.tableReadRequest r table offset count).nextSecond = s.nextSecond ∧
      (s.tableReadRequest r table offset count).sample = s.sample ∧
      (s.tableReadRequest r table offset count).mag = s.mag ∧ (s.tableReadRequest r table offset count).oc = s.oc ∧
      (s.tableReadRequest r table offset count).seq = s.seq ∧ (s.tableReadRequest r table offset count).act = s.act ∧
      (s.tableReadRequest r table offset count).tags = s.tags ∧
      (s.tableReadRequest r table offset count).supply = s.supply ∧
      (s.tableReadRequest r table offset count).battery = s.battery ∧
      (s.tableReadRequest r table offset count).reports = s.reports ∧
      (s.tableReadRequest r table offset count).faults = s.faults ∧
      (s.tableReadRequest r table offset count).store = s.store ∧
      (s.tableReadRequest r table offset count).cmd = s.cmd ∧ (s.tableReadRequest r table offset count).free = s.free ∧
      (s.tableReadRequest r table offset count).pending = s.pending := by
  simp [State.tableReadRequest]

@[simp] theorem State.groupSelectRequest_frame (s : State) (r : Req) (group : Nat) :
    (s.groupSelectRequest r group).now = s.now ∧ (s.groupSelectRequest r group).nextSecond = s.nextSecond ∧
      (s.groupSelectRequest r group).sample = s.sample ∧ (s.groupSelectRequest r group).mag = s.mag ∧
      (s.groupSelectRequest r group).oc = s.oc ∧ (s.groupSelectRequest r group).act = s.act ∧
      (s.groupSelectRequest r group).tags = s.tags ∧ (s.groupSelectRequest r group).supply = s.supply ∧
      (s.groupSelectRequest r group).battery = s.battery ∧ (s.groupSelectRequest r group).reports = s.reports ∧
      (s.groupSelectRequest r group).faults = s.faults ∧ (s.groupSelectRequest r group).cmd = s.cmd ∧
      (s.groupSelectRequest r group).free = s.free ∧ (s.groupSelectRequest r group).pending = s.pending := by
  unfold State.groupSelectRequest; (repeat' split) <;> simp

@[simp] theorem State.loadingExpiry_frame (s : State) :
    s.loadingExpiry.now = s.now ∧ s.loadingExpiry.nextSecond = s.nextSecond ∧ s.loadingExpiry.sample = s.sample ∧
      s.loadingExpiry.mag = s.mag ∧ s.loadingExpiry.oc = s.oc ∧ s.loadingExpiry.seq = s.seq ∧
      s.loadingExpiry.act = s.act ∧ s.loadingExpiry.tags = s.tags ∧ s.loadingExpiry.supply = s.supply ∧
      s.loadingExpiry.battery = s.battery ∧ s.loadingExpiry.faults = s.faults ∧ s.loadingExpiry.cmd = s.cmd ∧
      s.loadingExpiry.links = s.links ∧ s.loadingExpiry.free = s.free ∧ s.loadingExpiry.pending = s.pending := by
  simp [State.loadingExpiry]

@[simp] theorem State.recordExpiry_frame (s : State) :
    s.recordExpiry.now = s.now ∧ s.recordExpiry.nextSecond = s.nextSecond ∧ s.recordExpiry.sample = s.sample ∧
      s.recordExpiry.mag = s.mag ∧ s.recordExpiry.oc = s.oc ∧ s.recordExpiry.seq = s.seq ∧ s.recordExpiry.act = s.act ∧
      s.recordExpiry.tags = s.tags ∧ s.recordExpiry.supply = s.supply ∧ s.recordExpiry.battery = s.battery ∧
      s.recordExpiry.reports = s.reports ∧ s.recordExpiry.faults = s.faults ∧ s.recordExpiry.cmd = s.cmd ∧
      s.recordExpiry.links = s.links ∧ s.recordExpiry.free = s.free ∧ s.recordExpiry.pending = s.pending := by
  simp [State.recordExpiry]

@[simp] theorem State.storeRecord_frame (s : State) (r : StateRecord) (verified : Bool) :
    (s.storeRecord r verified).now = s.now ∧ (s.storeRecord r verified).nextSecond = s.nextSecond ∧
      (s.storeRecord r verified).sample = s.sample ∧ (s.storeRecord r verified).mag = s.mag ∧
      (s.storeRecord r verified).oc = s.oc ∧ (s.storeRecord r verified).seq = s.seq ∧
      (s.storeRecord r verified).act = s.act ∧ (s.storeRecord r verified).tags = s.tags ∧
      (s.storeRecord r verified).supply = s.supply ∧ (s.storeRecord r verified).battery = s.battery ∧
      (s.storeRecord r verified).reports = s.reports ∧ (s.storeRecord r verified).faults = s.faults ∧
      (s.storeRecord r verified).cmd = s.cmd ∧ (s.storeRecord r verified).links = s.links ∧
      (s.storeRecord r verified).pending = s.pending := by
  simp [State.storeRecord]

@[simp] theorem State.recordWriteEnd_frame (s : State) (verified : Bool) :
    (s.recordWriteEnd verified).now = s.now ∧ (s.recordWriteEnd verified).nextSecond = s.nextSecond ∧
      (s.recordWriteEnd verified).sample = s.sample ∧ (s.recordWriteEnd verified).mag = s.mag ∧
      (s.recordWriteEnd verified).oc = s.oc ∧ (s.recordWriteEnd verified).seq = s.seq ∧
      (s.recordWriteEnd verified).act = s.act ∧ (s.recordWriteEnd verified).tags = s.tags ∧
      (s.recordWriteEnd verified).supply = s.supply ∧ (s.recordWriteEnd verified).battery = s.battery ∧
      (s.recordWriteEnd verified).faults = s.faults ∧ (s.recordWriteEnd verified).cmd = s.cmd ∧
      (s.recordWriteEnd verified).links = s.links ∧ (s.recordWriteEnd verified).pending = s.pending := by
  unfold State.recordWriteEnd; dsimp only; (repeat' split) <;> simp

@[simp] theorem State.storeTable_frame (s : State) (id : Nat) (image : Table) (verified : Bool) :
    (s.storeTable id image verified).now = s.now ∧ (s.storeTable id image verified).nextSecond = s.nextSecond ∧
      (s.storeTable id image verified).sample = s.sample ∧ (s.storeTable id image verified).mag = s.mag ∧
      (s.storeTable id image verified).oc = s.oc ∧ (s.storeTable id image verified).seq = s.seq ∧
      (s.storeTable id image verified).act = s.act ∧ (s.storeTable id image verified).tags = s.tags ∧
      (s.storeTable id image verified).supply = s.supply ∧ (s.storeTable id image verified).battery = s.battery ∧
      (s.storeTable id image verified).reports = s.reports ∧ (s.storeTable id image verified).faults = s.faults ∧
      (s.storeTable id image verified).cmd = s.cmd ∧ (s.storeTable id image verified).links = s.links ∧
      (s.storeTable id image verified).pending = s.pending := by
  simp [State.storeTable]

@[simp] theorem State.concludeCommit_frame (s : State) (b : StagingBuffer) (verified : Bool) :
    (s.concludeCommit b verified).now = s.now ∧ (s.concludeCommit b verified).nextSecond = s.nextSecond ∧
      (s.concludeCommit b verified).sample = s.sample ∧ (s.concludeCommit b verified).mag = s.mag ∧
      (s.concludeCommit b verified).oc = s.oc ∧ (s.concludeCommit b verified).seq = s.seq ∧
      (s.concludeCommit b verified).act = s.act ∧ (s.concludeCommit b verified).tags = s.tags ∧
      (s.concludeCommit b verified).supply = s.supply ∧ (s.concludeCommit b verified).battery = s.battery ∧
      (s.concludeCommit b verified).faults = s.faults ∧ (s.concludeCommit b verified).store = s.store ∧
      (s.concludeCommit b verified).cmd = s.cmd ∧ (s.concludeCommit b verified).free = s.free ∧
      (s.concludeCommit b verified).pending = s.pending := by
  unfold State.concludeCommit; (repeat' split) <;> simp

@[simp] theorem State.tableWriteEnd_frame (s : State) (verified : Bool) :
    (s.tableWriteEnd verified).now = s.now ∧ (s.tableWriteEnd verified).nextSecond = s.nextSecond ∧
      (s.tableWriteEnd verified).sample = s.sample ∧ (s.tableWriteEnd verified).mag = s.mag ∧
      (s.tableWriteEnd verified).oc = s.oc ∧ (s.tableWriteEnd verified).seq = s.seq ∧
      (s.tableWriteEnd verified).act = s.act ∧ (s.tableWriteEnd verified).tags = s.tags ∧
      (s.tableWriteEnd verified).supply = s.supply ∧ (s.tableWriteEnd verified).battery = s.battery ∧
      (s.tableWriteEnd verified).faults = s.faults ∧ (s.tableWriteEnd verified).cmd = s.cmd ∧
      (s.tableWriteEnd verified).pending = s.pending := by
  unfold State.tableWriteEnd; (repeat' split) <;> simp

@[simp] theorem State.clearSlot_frame (s : State) :
    s.clearSlot.now = s.now ∧ s.clearSlot.nextSecond = s.nextSecond ∧ s.clearSlot.sample = s.sample ∧
      s.clearSlot.mag = s.mag ∧ s.clearSlot.oc = s.oc ∧ s.clearSlot.seq = s.seq ∧ s.clearSlot.act = s.act ∧
      s.clearSlot.tags = s.tags ∧ s.clearSlot.supply = s.supply ∧ s.clearSlot.battery = s.battery ∧
      s.clearSlot.reports = s.reports ∧ s.clearSlot.faults = s.faults ∧ s.clearSlot.store = s.store ∧
      s.clearSlot.links = s.links ∧ s.clearSlot.free = s.free ∧ s.clearSlot.pending = s.pending := by
  simp [State.clearSlot]

@[simp] theorem State.cancelSlot_frame (s : State) (o : Origin) :
    (s.cancelSlot o).now = s.now ∧ (s.cancelSlot o).nextSecond = s.nextSecond ∧ (s.cancelSlot o).sample = s.sample ∧
      (s.cancelSlot o).mag = s.mag ∧ (s.cancelSlot o).oc = s.oc ∧ (s.cancelSlot o).seq = s.seq ∧
      (s.cancelSlot o).act = s.act ∧ (s.cancelSlot o).tags = s.tags ∧ (s.cancelSlot o).supply = s.supply ∧
      (s.cancelSlot o).battery = s.battery ∧ (s.cancelSlot o).reports = s.reports ∧ (s.cancelSlot o).faults = s.faults ∧
      (s.cancelSlot o).store = s.store ∧ (s.cancelSlot o).links = s.links ∧ (s.cancelSlot o).free = s.free ∧
      (s.cancelSlot o).pending = s.pending := by
  unfold State.cancelSlot; (repeat' split) <;> simp

@[simp] theorem State.holdSlot_frame (s : State) (r : Req) (t : Target) (token : Word) :
    (s.holdSlot r t token).now = s.now ∧ (s.holdSlot r t token).nextSecond = s.nextSecond ∧
      (s.holdSlot r t token).sample = s.sample ∧ (s.holdSlot r t token).mag = s.mag ∧ (s.holdSlot r t token).oc = s.oc ∧
      (s.holdSlot r t token).seq = s.seq ∧ (s.holdSlot r t token).act = s.act ∧ (s.holdSlot r t token).tags = s.tags ∧
      (s.holdSlot r t token).supply = s.supply ∧ (s.holdSlot r t token).battery = s.battery ∧
      (s.holdSlot r t token).reports = s.reports ∧ (s.holdSlot r t token).faults = s.faults ∧
      (s.holdSlot r t token).store = s.store ∧ (s.holdSlot r t token).links = s.links ∧
      (s.holdSlot r t token).free = s.free ∧ (s.holdSlot r t token).pending = s.pending := by
  simp [State.holdSlot]

@[simp] theorem State.selectRequest_frame (s : State) (r : Req) (target : Byte) (token : Word) :
    (s.selectRequest r target token).now = s.now ∧ (s.selectRequest r target token).nextSecond = s.nextSecond ∧
      (s.selectRequest r target token).sample = s.sample ∧ (s.selectRequest r target token).mag = s.mag ∧
      (s.selectRequest r target token).oc = s.oc ∧ (s.selectRequest r target token).seq = s.seq ∧
      (s.selectRequest r target token).act = s.act ∧ (s.selectRequest r target token).tags = s.tags ∧
      (s.selectRequest r target token).supply = s.supply ∧ (s.selectRequest r target token).battery = s.battery ∧
      (s.selectRequest r target token).reports = s.reports ∧ (s.selectRequest r target token).faults = s.faults ∧
      (s.selectRequest r target token).store = s.store ∧ (s.selectRequest r target token).free = s.free ∧
      (s.selectRequest r target token).pending = s.pending := by
  unfold State.selectRequest; (repeat' split) <;> simp

@[simp] theorem State.operateOpen_frame (s : State) (r : Req) :
    (s.operateOpen r).now = s.now ∧ (s.operateOpen r).nextSecond = s.nextSecond ∧ (s.operateOpen r).tags = s.tags ∧
      (s.operateOpen r).supply = s.supply ∧ (s.operateOpen r).cmd = s.cmd ∧ (s.operateOpen r).free = s.free ∧
      (s.operateOpen r).pending = s.pending := by
  simp [State.operateOpen]

@[simp] theorem State.operateClose_frame (s : State) (r : Req) :
    (s.operateClose r).now = s.now ∧ (s.operateClose r).nextSecond = s.nextSecond ∧ (s.operateClose r).mag = s.mag ∧
      (s.operateClose r).oc = s.oc ∧ (s.operateClose r).tags = s.tags ∧ (s.operateClose r).supply = s.supply ∧
      (s.operateClose r).battery = s.battery ∧ (s.operateClose r).reports = s.reports ∧
      (s.operateClose r).faults = s.faults ∧ (s.operateClose r).store = s.store ∧ (s.operateClose r).free = s.free ∧
      (s.operateClose r).pending = s.pending := by
  simp [State.operateClose]

@[simp] theorem State.operateRestart_frame (s : State) (r : Req) :
    (s.operateRestart r).now = s.now ∧ (s.operateRestart r).nextSecond = s.nextSecond ∧
      (s.operateRestart r).sample = s.sample ∧ (s.operateRestart r).mag = s.mag ∧ (s.operateRestart r).oc = s.oc ∧
      (s.operateRestart r).seq = s.seq ∧ (s.operateRestart r).act = s.act ∧ (s.operateRestart r).tags = s.tags ∧
      (s.operateRestart r).supply = s.supply ∧ (s.operateRestart r).battery = s.battery ∧
      (s.operateRestart r).reports = s.reports ∧ (s.operateRestart r).faults = s.faults ∧
      (s.operateRestart r).store = s.store ∧ (s.operateRestart r).free = s.free ∧
      (s.operateRestart r).pending = s.pending := by
  simp [State.operateRestart]

@[simp] theorem State.operateTarget_frame (s : State) (r : Req) (t : Target) :
    (s.operateTarget r t).now = s.now ∧ (s.operateTarget r t).nextSecond = s.nextSecond ∧
      (s.operateTarget r t).tags = s.tags ∧ (s.operateTarget r t).supply = s.supply ∧
      (s.operateTarget r t).free = s.free ∧ (s.operateTarget r t).pending = s.pending := by
  unfold State.operateTarget; (repeat' split) <;> simp

@[simp] theorem State.operateRefused_frame (s : State) (r : Req) (c : ResultCode) :
    (s.operateRefused r c).now = s.now ∧ (s.operateRefused r c).nextSecond = s.nextSecond ∧
      (s.operateRefused r c).sample = s.sample ∧ (s.operateRefused r c).mag = s.mag ∧ (s.operateRefused r c).oc = s.oc ∧
      (s.operateRefused r c).seq = s.seq ∧ (s.operateRefused r c).act = s.act ∧ (s.operateRefused r c).tags = s.tags ∧
      (s.operateRefused r c).supply = s.supply ∧ (s.operateRefused r c).battery = s.battery ∧
      (s.operateRefused r c).reports = s.reports ∧ (s.operateRefused r c).faults = s.faults ∧
      (s.operateRefused r c).store = s.store ∧ (s.operateRefused r c).free = s.free ∧
      (s.operateRefused r c).pending = s.pending := by
  simp [State.operateRefused]

@[simp] theorem State.operate_frame (s : State) (r : Req) (token : Word) :
    (s.operate r token).now = s.now ∧ (s.operate r token).nextSecond = s.nextSecond ∧
      (s.operate r token).tags = s.tags ∧ (s.operate r token).supply = s.supply ∧ (s.operate r token).free = s.free ∧
      (s.operate r token).pending = s.pending := by
  unfold State.operate; (repeat' split) <;> simp

@[simp] theorem State.timeSetRequest_frame (s : State) (r : Req) (value : Long) :
    (s.timeSetRequest r value).now = s.now ∧ (s.timeSetRequest r value).nextSecond = s.nextSecond ∧
      (s.timeSetRequest r value).sample = s.sample ∧ (s.timeSetRequest r value).mag = s.mag ∧
      (s.timeSetRequest r value).oc = s.oc ∧ (s.timeSetRequest r value).seq = s.seq ∧
      (s.timeSetRequest r value).act = s.act ∧ (s.timeSetRequest r value).tags = s.tags ∧
      (s.timeSetRequest r value).supply = s.supply ∧ (s.timeSetRequest r value).reports = s.reports ∧
      (s.timeSetRequest r value).faults = s.faults ∧ (s.timeSetRequest r value).store = s.store ∧
      (s.timeSetRequest r value).free = s.free ∧ (s.timeSetRequest r value).pending = s.pending := by
  simp [State.timeSetRequest]

@[simp] theorem State.refill_frame (s : State) :
    s.refill.now = s.now ∧ s.refill.nextSecond = s.nextSecond ∧ s.refill.sample = s.sample ∧ s.refill.mag = s.mag ∧
      s.refill.oc = s.oc ∧ s.refill.seq = s.seq ∧ s.refill.act = s.act ∧ s.refill.tags = s.tags ∧
      s.refill.supply = s.supply ∧ s.refill.battery = s.battery ∧ s.refill.faults = s.faults ∧
      s.refill.store = s.store ∧ s.refill.cmd = s.cmd ∧ s.refill.links = s.links ∧ s.refill.free = s.free ∧
      s.refill.pending = s.pending := by
  simp [State.refill]

@[simp] theorem State.secondMetering_frame (s : State) :
    s.secondMetering.now = s.now ∧ s.secondMetering.nextSecond = s.nextSecond ∧ s.secondMetering.sample = s.sample ∧
      s.secondMetering.oc = s.oc ∧ s.secondMetering.seq = s.seq ∧ s.secondMetering.act = s.act ∧
      s.secondMetering.tags = s.tags ∧ s.secondMetering.supply = s.supply ∧ s.secondMetering.battery = s.battery ∧
      s.secondMetering.reports = s.reports ∧ s.secondMetering.faults = s.faults ∧ s.secondMetering.store = s.store ∧
      s.secondMetering.cmd = s.cmd ∧ s.secondMetering.free = s.free ∧ s.secondMetering.pending = s.pending := by
  simp [State.secondMetering]

@[simp] theorem State.secondCounts_frame (s : State) :
    s.secondCounts.now = s.now ∧ s.secondCounts.nextSecond = s.nextSecond ∧ s.secondCounts.sample = s.sample ∧
      s.secondCounts.oc = s.oc ∧ s.secondCounts.act = s.act ∧ s.secondCounts.tags = s.tags ∧
      s.secondCounts.supply = s.supply ∧ s.secondCounts.battery = s.battery ∧ s.secondCounts.faults = s.faults ∧
      s.secondCounts.store = s.store ∧ s.secondCounts.links = s.links ∧ s.secondCounts.free = s.free ∧
      s.secondCounts.pending = s.pending := by
  simp [State.secondCounts]

@[simp] theorem State.second_frame (s : State) :
    s.second.now = s.now ∧ s.second.nextSecond = s.nextSecond ∧ s.second.sample = s.sample ∧ s.second.oc = s.oc ∧
      s.second.act = s.act ∧ s.second.tags = s.tags ∧ s.second.supply = s.supply ∧ s.second.faults = s.faults ∧
      s.second.store = s.store ∧ s.second.free = s.free ∧ s.second.pending = s.pending := by
  simp [State.second]

@[simp] theorem State.tableDefaulted_frame (s : State) (id : Nat) (cause : ImageCause) :
    (s.tableDefaulted id cause).now = s.now ∧ (s.tableDefaulted id cause).nextSecond = s.nextSecond ∧
      (s.tableDefaulted id cause).sample = s.sample ∧ (s.tableDefaulted id cause).mag = s.mag ∧
      (s.tableDefaulted id cause).oc = s.oc ∧ (s.tableDefaulted id cause).seq = s.seq ∧
      (s.tableDefaulted id cause).act = s.act ∧ (s.tableDefaulted id cause).tags = s.tags ∧
      (s.tableDefaulted id cause).supply = s.supply ∧ (s.tableDefaulted id cause).battery = s.battery ∧
      (s.tableDefaulted id cause).faults = s.faults ∧ (s.tableDefaulted id cause).cmd = s.cmd ∧
      (s.tableDefaulted id cause).links = s.links ∧ (s.tableDefaulted id cause).free = s.free ∧
      (s.tableDefaulted id cause).pending = s.pending := by
  simp [State.tableDefaulted]

@[simp] theorem State.restoreTable_frame (s : State) (id : Nat) :
    (s.restoreTable id).now = s.now ∧ (s.restoreTable id).nextSecond = s.nextSecond ∧
      (s.restoreTable id).sample = s.sample ∧ (s.restoreTable id).mag = s.mag ∧ (s.restoreTable id).oc = s.oc ∧
      (s.restoreTable id).seq = s.seq ∧ (s.restoreTable id).act = s.act ∧ (s.restoreTable id).tags = s.tags ∧
      (s.restoreTable id).supply = s.supply ∧ (s.restoreTable id).battery = s.battery ∧
      (s.restoreTable id).faults = s.faults ∧ (s.restoreTable id).cmd = s.cmd ∧ (s.restoreTable id).links = s.links ∧
      (s.restoreTable id).free = s.free ∧ (s.restoreTable id).pending = s.pending := by
  unfold State.restoreTable; (repeat' split) <;> simp

@[simp] theorem State.restoreTables_frame (s : State) :
    s.restoreTables.now = s.now ∧ s.restoreTables.nextSecond = s.nextSecond ∧ s.restoreTables.oc = s.oc ∧
      s.restoreTables.seq = s.seq ∧ s.restoreTables.act = s.act ∧ s.restoreTables.tags = s.tags ∧
      s.restoreTables.supply = s.supply ∧ s.restoreTables.battery = s.battery ∧ s.restoreTables.faults = s.faults ∧
      s.restoreTables.cmd = s.cmd ∧ s.restoreTables.links = s.links ∧ s.restoreTables.free = s.free ∧
      s.restoreTables.pending = s.pending := by
  have h : (writableIds.foldl State.restoreTable s).now = s.now ∧ (writableIds.foldl State.restoreTable s).nextSecond = s.nextSecond ∧ (writableIds.foldl State.restoreTable s).oc = s.oc ∧ (writableIds.foldl State.restoreTable s).seq = s.seq ∧ (writableIds.foldl State.restoreTable s).act = s.act ∧ (writableIds.foldl State.restoreTable s).tags = s.tags ∧ (writableIds.foldl State.restoreTable s).supply = s.supply ∧ (writableIds.foldl State.restoreTable s).battery = s.battery ∧ (writableIds.foldl State.restoreTable s).faults = s.faults ∧ (writableIds.foldl State.restoreTable s).cmd = s.cmd ∧ (writableIds.foldl State.restoreTable s).links = s.links ∧ (writableIds.foldl State.restoreTable s).free = s.free ∧ (writableIds.foldl State.restoreTable s).pending = s.pending := by
    refine List.foldlRecOn (motive := fun t : State => t.now = s.now ∧ t.nextSecond = s.nextSecond ∧ t.oc = s.oc ∧ t.seq = s.seq ∧ t.act = s.act ∧ t.tags = s.tags ∧ t.supply = s.supply ∧ t.battery = s.battery ∧ t.faults = s.faults ∧ t.cmd = s.cmd ∧ t.links = s.links ∧ t.free = s.free ∧ t.pending = s.pending) _ _ (by simp) ?_
    intro t h i _
    simpa using h
  unfold State.restoreTables; dsimp only; split <;> simpa using h

@[simp] theorem State.putRecord_frame (s : State) (g : Fin 4) (q : Nat) (r : TestResult) (t : Option Long) (h : Health) (n : Nat) :
    (s.putRecord g q r t h n).now = s.now ∧ (s.putRecord g q r t h n).nextSecond = s.nextSecond ∧
      (s.putRecord g q r t h n).sample = s.sample ∧ (s.putRecord g q r t h n).mag = s.mag ∧
      (s.putRecord g q r t h n).oc = s.oc ∧ (s.putRecord g q r t h n).seq = s.seq ∧
      (s.putRecord g q r t h n).act = s.act ∧ (s.putRecord g q r t h n).tags = s.tags ∧
      (s.putRecord g q r t h n).supply = s.supply ∧ (s.putRecord g q r t h n).reports = s.reports ∧
      (s.putRecord g q r t h n).faults = s.faults ∧ (s.putRecord g q r t h n).cmd = s.cmd ∧
      (s.putRecord g q r t h n).links = s.links ∧ (s.putRecord g q r t h n).free = s.free ∧
      (s.putRecord g q r t h n).pending = s.pending := by
  simp [State.putRecord]

@[simp] theorem State.recordDefaulted_frame (s : State) (cause : ImageCause) :
    (s.recordDefaulted cause).now = s.now ∧ (s.recordDefaulted cause).nextSecond = s.nextSecond ∧
      (s.recordDefaulted cause).sample = s.sample ∧ (s.recordDefaulted cause).mag = s.mag ∧
      (s.recordDefaulted cause).oc = s.oc ∧ (s.recordDefaulted cause).seq = s.seq ∧
      (s.recordDefaulted cause).act = s.act ∧ (s.recordDefaulted cause).tags = s.tags ∧
      (s.recordDefaulted cause).supply = s.supply ∧ (s.recordDefaulted cause).faults = s.faults ∧
      (s.recordDefaulted cause).cmd = s.cmd ∧ (s.recordDefaulted cause).links = s.links ∧
      (s.recordDefaulted cause).free = s.free ∧ (s.recordDefaulted cause).pending = s.pending := by
  simp [State.recordDefaulted]

@[simp] theorem State.restoreRecord_frame (s : State) :
    s.restoreRecord.now = s.now ∧ s.restoreRecord.nextSecond = s.nextSecond ∧ s.restoreRecord.sample = s.sample ∧
      s.restoreRecord.mag = s.mag ∧ s.restoreRecord.oc = s.oc ∧ s.restoreRecord.seq = s.seq ∧
      s.restoreRecord.act = s.act ∧ s.restoreRecord.tags = s.tags ∧ s.restoreRecord.supply = s.supply ∧
      s.restoreRecord.faults = s.faults ∧ s.restoreRecord.cmd = s.cmd ∧ s.restoreRecord.links = s.links ∧
      s.restoreRecord.free = s.free ∧ s.restoreRecord.pending = s.pending := by
  unfold State.restoreRecord; (repeat' split) <;> simp

@[simp] theorem State.startTimers_frame (s : State) :
    s.startTimers.now = s.now ∧ s.startTimers.nextSecond = s.nextSecond ∧ s.startTimers.sample = s.sample ∧
      s.startTimers.mag = s.mag ∧ s.startTimers.oc = s.oc ∧ s.startTimers.seq = s.seq ∧ s.startTimers.act = s.act ∧
      s.startTimers.tags = s.tags ∧ s.startTimers.supply = s.supply ∧ s.startTimers.battery = s.battery ∧
      s.startTimers.faults = s.faults ∧ s.startTimers.cmd = s.cmd ∧ s.startTimers.links = s.links ∧
      s.startTimers.free = s.free ∧ s.startTimers.pending = s.pending := by
  simp [State.startTimers]

@[simp] theorem State.supplyRestored_frame (s : State) :
    s.supplyRestored.now = s.now ∧ s.supplyRestored.nextSecond = s.nextSecond ∧ s.supplyRestored.oc = s.oc ∧
      s.supplyRestored.seq = s.seq ∧ s.supplyRestored.act = s.act ∧ s.supplyRestored.tags = s.tags ∧
      s.supplyRestored.faults = s.faults ∧ s.supplyRestored.cmd = s.cmd ∧ s.supplyRestored.free = s.free ∧
      s.supplyRestored.pending = s.pending := by
  simp [State.supplyRestored]

@[simp] theorem State.restore_frame (s : State) :
    s.restore.now = s.now ∧ s.restore.nextSecond = s.nextSecond ∧ s.restore.cmd = s.cmd ∧ s.restore.free = s.free ∧
      s.restore.pending = s.pending := by
  simp [State.restore]

end Sys2Proof.Machine
end

