-- ==== Sys2Proof/Laws/Ops.lean ====
section
/-! SUPPORT. One lemma for each shared operation: what it can do, to be cited in place of its definition. -/

namespace Sys2Proof.Machine

/-! ## The base -/

/-- The base never goes back, and reaches the moment it is given. -/
theorem State.advanceTo_now (s : State) (t : Nat) : (s.advanceTo t).now = max s.now t := by
  unfold State.advanceTo; split
  · omega
  · simp; omega

/-- Of the Command Unit only the frames that an operated RESTART waits for change with the base. -/
@[simp] theorem State.advanceTo_cmd (s : State) (t : Nat) :
    (s.advanceTo t).cmd.seconds = s.cmd.seconds ∧ (s.advanceTo t).cmd.slot = s.cmd.slot ∧
      (s.advanceTo t).cmd.selectTimer = s.cmd.selectTimer ∧ (s.advanceTo t).cmd.restartMark = s.cmd.restartMark ∧
      (s.advanceTo t).cmd.deferredClose = s.cmd.deferredClose := by
  unfold State.advanceTo; split <;> simp

/-- Of the links only the transmitter changes with the base. -/
@[simp] theorem State.advanceTo_links (s : State) (t : Nat) :
    (s.advanceTo t).links.sensorDiscards = s.links.sensorDiscards ∧ (s.advanceTo t).links.cabinetDiscards = s.links.cabinetDiscards ∧
      (s.advanceTo t).links.sensorRx = s.links.sensorRx ∧ (s.advanceTo t).links.cabinetRx = s.links.cabinetRx := by
  unfold State.advanceTo; split <;> simp

/-- What the transmitter still holds is the end of what it held. -/
theorem drain_suffix (credit : Nat) (fs : List OutFrame) : (drain credit fs).2.1 <:+ fs := by
  induction fs generalizing credit with
  | nil => simp [drain]
  | cons f fs ih =>
    unfold drain; split
    · exact (ih _).trans (List.suffix_cons f fs)
    · exact List.suffix_rfl

/-- An expiry of a running timer acts at the moment it is due. -/
theorem onExpiry_some (c : Countdown) (s : State) (f : State → State) : onExpiry (some c) s f = .next (f (s.advanceTo c.due)) := rfl

/-- An expiry of a stopped timer changes nothing. -/
theorem onExpiry_none (s : State) (f : State → State) : onExpiry none s f = .next s := rfl

/-- Every expiry answers a next state. -/
theorem onExpiry_completes (t : Timer) (s : State) (f : State → State) : ∃ u, onExpiry t s f = .next u := by
  cases t <;> exact ⟨_, rfl⟩

/-! ## The transmitter -/

/-- A frame that is no METERING frame is always held, behind those that wait. -/
theorem State.hand_links (s : State) (f : OutFrame) (h : f.kind ≠ kindMetering) :
    (s.hand f).links = { s.links with tx := s.links.tx ++ [f] } := by
  simp [State.hand, h]

/-- A response is always held, behind the frames that wait. -/
@[simp] theorem State.respond_links (s : State) (r : Req) (k : RequestKind) (c : ResultCode) (body : List Byte) :
    (s.respond r k c body).links = { s.links with tx := s.links.tx ++ [responseFrame r.id (requestCode k) c body] } := by
  unfold State.respond; exact s.hand_links _ (by simp [responseFrame, kindResponse, kindMetering])

/-! ## Reports -/

/-- Entering a report is entering it in the queue, with the counter's time. -/
@[simp] theorem State.report_reports (s : State) (cls : Nat) (body : ReportBody) :
    (s.report cls body).reports = (s.reports.enter cls s.cmd.seconds body).1 := (rfl)

/-- Placing adds one record. -/
theorem place_length (r : Report) (q : List Report) : (place r q).length = q.length + 1 := by
  have h := congrArg List.length (List.takeWhile_append_dropWhile (p := fun x => decide (r.cls ≤ x.cls)) (l := q))
  simp only [List.length_append] at h
  simp only [place, List.length_append, List.length_cons]; omega

/-- The records after placing are the record and those that were there. -/
theorem place_perm (r : Report) (q : List Report) : List.Perm (place r q) (r :: q) := by
  have h := List.perm_middle (a := r) (l₁ := q.takeWhile (fun x => decide (r.cls ≤ x.cls))) (l₂ := q.dropWhile (fun x => decide (r.cls ≤ x.cls)))
  rw [List.takeWhile_append_dropWhile] at h
  exact h

/-! ## The arbiter -/

/-- With a write in flight, or with nothing that waits, the arbiter grants nothing. -/
theorem State.grant_of_nothing (s : State) (h : NothingToGrant s) : s.grant = s := by
  unfold State.grant
  rcases h with h | h
  · obtain ⟨j, hj⟩ := Option.isSome_iff_exists.mp h
    simp [hj]
  · simp only [State.arbiterIdle, Bool.and_eq_true, decide_eq_true_eq, Option.isNone_iff_eq_none, Bool.not_eq_true'] at h
    obtain ⟨⟨⟨h1, h2⟩, h3⟩, h4⟩ := h
    simp [h1, h2, h3, h4]

/-- A grant changes nothing of the Tag Table but its write state and the stages of records that wait. -/
@[simp] theorem State.grant_tags (s : State) :
    s.grant.tags.slots.length = s.tags.slots.length ∧ s.grant.tags.durable = s.tags.durable := by
  unfold State.grant; repeat' split
  all_goals simp

/-- A grant changes nothing of the Table Store but what belongs to the arbiter. -/
@[simp] theorem State.grant_store (s : State) :
    s.grant.store.tables = s.store.tables ∧ s.grant.store.locks = s.store.locks ∧ s.grant.store.activeGroup = s.store.activeGroup ∧
      s.grant.store.buffer = s.store.buffer ∧ s.grant.store.nv = s.store.nv ∧ s.grant.store.recordTimer = s.store.recordTimer ∧
      s.grant.store.restoreTimer = s.store.restoreTimer := by
  unfold State.grant; repeat' split
  all_goals simp

/-- The arbiter is asked for a state-record write. -/
theorem State.requestRecordWrite_store (s : State) (c : WriteCauses) :
    (s.requestRecordWrite c).store.recordWaiting.isSome = true ∧ (s.requestRecordWrite c).store.inFlight = s.store.inFlight := by
  simp [State.requestRecordWrite]

/-! ## Charge -/

/-- A step of charge stays within 0 and Qmax. -/
theorem coulombStep_le (qmax q : Nat) (i : Int) (h : q ≤ qmax) : coulombStep qmax q i ≤ qmax := by
  unfold coulombStep; (repeat' split) <;> omega

/-! ## The sequence and the restart -/

/-- An operated RESTART takes effect exactly with its mark set, the arbiter idle and no held frame left to wait for (R178). -/
theorem State.restartReady_iff (s : State) :
    s.restartReady = true ↔ s.cmd.restartMark = true ∧ s.arbiterIdle = true ∧ s.cmd.restartAfter = some 0 := by
  simp [State.restartReady, and_assoc]

/-- The switch recorded open (R44, R28). -/
theorem State.recordOpen_recorded (s : State) : RecordedOpen s s.recordOpen := by
  unfold RecordedOpen State.recordOpen; split <;> simp_all

/-- An entry to LOCKOUT leaves the sequence there, for its reason, with s as it was (R58). -/
theorem State.enterLockout_lockedOut (s : State) (reason : LockoutReason) : LockedOut reason s (s.enterLockout reason) := by
  unfold LockedOut State.enterLockout State.applyPending State.applyGroup
  simp [SequenceController.timersStopped]
  split <;> simp_all

/-- The switch recorded closed by a close that is no reclose (R44, R33). -/
theorem State.recordClosed_byHand (s : State) (c : CloseCause) (h : c ≠ .reclose) : ClosedByHand s (s.recordClosed (some c)) := by
  unfold ClosedByHand State.recordClosed State.closeNotice
  split <;> simp_all [State.timer]
  split <;> simp_all [State.governingTable, State.governing, State.groupTable, State.table]

/-- A pending group is made active and reported, and nothing else of the Table Store changes but a request for a write (R67). -/
theorem State.applyGroup_taken (s : State) :
    s.applyGroup.seq.pendingGroup = none ∧ s.applyGroup.store.activeGroup = s.seq.pendingGroup.getD s.store.activeGroup ∧
      (s.applyGroup.store.activeGroup ≠ s.store.activeGroup → s.applyGroup.store.recordWaiting.isSome = true) ∧
      s.applyGroup.store.tables = s.store.tables ∧ s.applyGroup.store.buffer = s.store.buffer ∧
      s.applyGroup.store.inFlight = s.store.inFlight ∧ s.applyGroup.reports = s.afterGroupReport := by
  unfold State.applyGroup State.afterGroupReport
  cases h : s.seq.pendingGroup with
  | none => simp [h]
  | some g =>
    simp only [State.makeActive, State.requestRecordWrite, State.report]
    split <;> simp_all

/-! ## Sample instants -/

/-- One more sample instant is pushed into the windows and sums that the ones before it left (R14). -/
theorem MagnitudeUnit.after_append (m : MagnitudeUnit) (xs : List (Channels Int)) (x : Channels Int) :
    m.after (xs ++ [x]) =
      (Channels.zip pushWindow (m.after xs).1 x, Channels.zip3 pushSum (m.after xs).2 (m.after xs).1 x) := by
  simp [MagnitudeUnit.after, List.foldl_append]

/-- Pushing an instant, then others, is pushing them all. -/
theorem MagnitudeUnit.push_after (m : MagnitudeUnit) (x : Channels Int) (clip : Currents Bool) (xs : List (Channels Int)) :
    (m.push x clip).after xs = m.after (x :: xs) := (rfl)

/-! ## The conclusion of a tag write -/

/-- A conclusion writes the one slot (R92, R93). -/
theorem State.concludeRecord_tags (s : State) (verified : Bool) (i : Nat) (r : TagRecord) :
    (s.concludeRecord verified i r).tags = { s.tags with slots := s.tags.slots.set i (concludedRecord verified r) } := by
  cases h : r.state <;> cases verified <;> cases hq : r.request <;>
    simp [State.concludeRecord, concludedRecord, State.setSlot, State.answerTag, State.tagReport, State.report, State.respond, State.hand,
      responseFrame, kindResponse, kindMetering, h, hq]

/-- A conclusion hands the one answer (R98). -/
theorem State.concludeRecord_links (s : State) (verified : Bool) (i : Nat) (r : TagRecord) (h : r.stage = .writing) :
    (s.concludeRecord verified i r).links = { s.links with tx := s.links.tx ++ (tagAnswer verified i (some r)).toList } := by
  cases hs : r.state <;> cases verified <;> cases hq : r.request <;>
    simp [State.concludeRecord, tagAnswer, State.setSlot, State.answerTag, State.tagReport, State.report, tagBody, encOpt, enc1,
      encWord, absent1, requestCode, h, hs, hq] <;> rfl

/-! ## The ack timer that expires -/

/-- Acting on the first element that meets a condition leaves those around it (R136, R145). -/
theorem updateFirst_append {α : Type} (p : α → Bool) (f : α → Option α) (before : List α) (x : α) (rest : List α)
    (hb : ∀ y ∈ before, p y = false) (hx : p x = true) :
    updateFirst p f (before ++ x :: rest) = before ++ (f x).toList ++ rest := by
  induction before with
  | nil => cases h : f x <;> simp [updateFirst, hx, h]
  | cons y ys ih =>
    rw [List.cons_append, updateFirst, if_neg (by simp [hb y]), ih fun z hz => hb z (List.mem_cons_of_mem y hz)]
    simp

/-- A SENT record's ack timer is the next to expire exactly when no SENT record with its number is due earlier (R145). -/
theorem ReportQueue.expiresNext_iff (q : ReportQueue) (number : Word) (r : Report) :
    q.expiresNext number r = true ↔
      awaitsAck number r = true ∧ ∀ y ∈ q.records, awaitsAck number y = true → r.dueBy y = true := by
  simp [ReportQueue.expiresNext, imp_iff_not_or]

/-! ## What a failed table write leaves -/

/-- After a failed verify the array does not hold the image that was to be written (R161). -/
theorem tableLeft_ne (image : Table) (content : NvImage Table) : tableLeft image content ≠ .good image := by
  unfold tableLeft; split <;> simp_all

/-- Every content but the image itself may be left (R161, log 7). -/
theorem tableLeft_of_ne {image : Table} {content : NvImage Table} (h : content ≠ .good image) :
    tableLeft image content = content := if_neg h

/-- A failed table write changes the one image of the array, to one other than that which was to be written (R161). -/
theorem State.storeTable_failed (s : State) (id : Nat) (image : Table) :
    ∃ left, left ≠ .good image ∧
      (s.storeTable id image false).store = { s.store with nv := { s.store.nv with tables := s.store.nv.tables.set id left } } :=
  ⟨_, tableLeft_ne image (Config.tableAfterFault s.free), (rfl)⟩

end Sys2Proof.Machine
end

