-- ==== Sys2Proof/Laws/Drive.lean ====
section
/-! SUPPORT. What the shared operations of the pulses and of the sequence can do, and what the conditions that the rules
test depend on. -/

namespace Sys2Proof.Machine

/-! ## Conditions depend on few parts -/

/-- Whether the arbiter has something to grant depends on the tag table's write state and on the arbiter's own fields. -/
theorem NothingToGrant.of_eq {s t : State} (h : NothingToGrant s) (ht : t.tags.writeState = s.tags.writeState)
    (h1 : t.store.inFlight = s.store.inFlight) (h2 : t.store.recordWaiting = s.store.recordWaiting)
    (h3 : t.store.tableWaiting = s.store.tableWaiting) : NothingToGrant t := by
  simpa [NothingToGrant, State.arbiterIdle, ht, h1, h2, h3] using h

/-- The settings in force depend on the Table Store. -/
theorem State.tables_congr {s t : State} (h : t.store = s.store) :
    t.unit = s.unit ∧ t.batteryTable = s.batteryTable ∧ (∀ id, t.table id = s.table id) := by
  simp [State.unit, State.batteryTable, State.table, h]

/-- The governing group and its table depend on the latched group and the Table Store. -/
theorem State.governing_congr {s t : State} (hq : t.seq.latched = s.seq.latched) (h : t.store = s.store) :
    t.governing = s.governing ∧ t.governingTable = s.governingTable := by
  simp [State.governingTable, State.groupTable, State.governing, State.table, hq, h]

/-- Close permission depends on the tags, the view, the latch, the Supply Monitor and the UNIT table. -/
theorem State.permission_congr {s t : State} (h1 : t.tags = s.tags) (h2 : t.sample.view = s.sample.view)
    (h3 : t.act.latch = s.act.latch) (h4 : t.supply = s.supply) (h5 : t.store = s.store) : t.permission = s.permission := by
  simp [State.permission, State.partialPermission, State.powerCloses, State.fresh, State.tripReady, State.closeReady, State.unit,
    State.table, h1, h2, h3, h4, h5]

/-! ## Pulses change only the disagree timer of the Sample Interface -/

/-- Everything of the Sample Interface but its disagree timer is the same. -/
def SampleInterface.sameBut (a b : SampleInterface) : Prop :=
  a.stream = b.stream ∧ a.expected = b.expected ∧ a.last = b.last ∧ a.lastStatus = b.lastStatus ∧ a.run = b.run ∧
    a.phase = b.phase ∧ a.absence = b.absence ∧ a.sensorLoss = b.sensorLoss ∧ a.view = b.view

theorem State.pulseStarted_sample (s : State) : s.pulseStarted.sample.sameBut s.sample := by
  simp [State.pulseStarted, SampleInterface.sameBut]

theorem State.pulseEnded_sample (s : State) : s.pulseEnded.sample.sameBut s.sample := by
  unfold State.pulseEnded; split <;> simp [SampleInterface.sameBut]

theorem State.dropTrip_sample (s : State) : s.dropTrip.sample.sameBut s.sample := by
  unfold State.dropTrip; dsimp only; split
  · exact State.pulseEnded_sample _
  · simp [SampleInterface.sameBut]

theorem State.dropClose_sample (s : State) : s.dropClose.sample.sameBut s.sample := by
  unfold State.dropClose; dsimp only; split
  · exact State.pulseEnded_sample _
  · simp [SampleInterface.sameBut]

theorem State.startClose_sample (s : State) : s.startClose.sample.sameBut s.sample := by
  unfold State.startClose; exact State.pulseStarted_sample _

theorem State.secondTrip_sample (s : State) : s.secondTrip.sample.sameBut s.sample := by
  unfold State.secondTrip; dsimp only; split
  · simp [SampleInterface.sameBut]
  · exact State.pulseStarted_sample _

/-- The TRIP line falls, and nothing else of the Actuator Control changes. -/
@[simp] theorem State.dropTrip_act (s : State) : s.dropTrip.act = { s.act with trip := false, tripTimer := none } := by
  unfold State.dropTrip; dsimp only; split <;> simp

/-- The CLOSE line falls, and nothing else of the Actuator Control changes. -/
@[simp] theorem State.dropClose_act (s : State) : s.dropClose.act = { s.act with close := false, closeTimer := none } := by
  unfold State.dropClose; dsimp only; split <;> simp

/-! ## Leaving IDLE, and what is pending at a rest of the sequence -/

/-- Outside IDLE nothing is told to the Battery Unit. -/
theorem State.leaveIdle_of_ne (s : State) (h : s.seq.state ≠ .idle) : s.leaveIdle = s := by
  simp [State.leaveIdle, h]

/-- With nothing pending, leaving IDLE touches the Battery Unit, the links and the reports at most. -/
theorem State.leaveIdle_of_nothingPending (s : State) (h : s.nothingPending) :
    s.leaveIdle.sample = s.sample ∧ s.leaveIdle.mag = s.mag ∧ s.leaveIdle.store = s.store := by
  unfold State.nothingPending at h
  unfold State.leaveIdle State.abortTest State.noticeTestEnded
  split <;> (try split) <;> simp [h]

/-- With no commit and no group pending, nothing is applied. -/
theorem State.applyPending_of_nothing (s : State) (h : s.nothingPending) (hg : s.seq.pendingGroup = none) : s.applyPending = s := by
  unfold State.nothingPending at h
  simp [State.applyPending, State.applyGroup, State.noticeSequenceRests, hg, h]

/-- A test of the open confirm never changes a line, a pulse timer or the held trip. -/
theorem State.tripTest_lines (s : State) :
    s.tripTest.act.trip = s.act.trip ∧ s.tripTest.act.close = s.act.close ∧ s.tripTest.act.heldTrip = s.act.heldTrip ∧
      s.tripTest.act.tripTimer = s.act.tripTimer ∧ s.tripTest.act.latch = s.act.latch := by
  unfold State.tripTest; split <;> simp

/-! ## CHARGER frames -/

/-- A CHARGER update changes of the Battery Unit at most the content sent and the repeat timer. -/
theorem State.chargerUpdate_battery (s : State) :
    s.chargerUpdate.battery = s.battery ∨
      s.chargerUpdate.battery = { s.battery with sent := s.chargerContent, repeatTimer := s.timer (sec 1) } := by
  unfold State.chargerUpdate State.chargerSend; split
  · left; rfl
  · right; simp

@[simp] theorem State.chargerUpdate_fields (s : State) :
    s.chargerUpdate.battery.charge = s.battery.charge ∧ s.chargerUpdate.battery.q = s.battery.q ∧
      s.chargerUpdate.battery.heldQ = s.battery.heldQ ∧ s.chargerUpdate.battery.prevCurrent = s.battery.prevCurrent ∧
      s.chargerUpdate.battery.testState = s.battery.testState ∧
      s.chargerUpdate.battery.testOrigin = s.battery.testOrigin ∧ s.chargerUpdate.battery.vRest = s.battery.vRest ∧
      s.chargerUpdate.battery.vMin = s.battery.vMin ∧ s.chargerUpdate.battery.dischargeSum = s.battery.dischargeSum ∧
      s.chargerUpdate.battery.frameCount = s.battery.frameCount ∧
      s.chargerUpdate.battery.testTimer = s.battery.testTimer ∧
      s.chargerUpdate.battery.retryTimer = s.battery.retryTimer ∧
      s.chargerUpdate.battery.lastResult = s.battery.lastResult ∧
      s.chargerUpdate.battery.lastTime = s.battery.lastTime ∧ s.chargerUpdate.battery.health = s.battery.health ∧
      s.chargerUpdate.battery.failCount = s.battery.failCount ∧
      s.chargerUpdate.battery.tempState = s.battery.tempState ∧
      s.chargerUpdate.battery.heldTemp = s.battery.heldTemp ∧
      s.chargerUpdate.battery.holdTimer = s.battery.holdTimer ∧
      s.chargerUpdate.battery.rebulkTimer = s.battery.rebulkTimer ∧
      s.chargerUpdate.battery.absorbTimer = s.battery.absorbTimer ∧
      s.chargerUpdate.battery.floatFullTimer = s.battery.floatFullTimer ∧
      s.chargerUpdate.battery.disconnect = s.battery.disconnect := by
  rcases s.chargerUpdate_battery with h | h <;> simp [h]

/-- After a CHARGER update the content sent is the content of the state. -/
theorem State.chargerUpdate_sent (s : State) : s.chargerUpdate.battery.sent = s.chargerContent := by
  unfold State.chargerUpdate State.chargerSend; split
  · next h => exact h.symm
  · simp

end Sys2Proof.Machine
end

