-- ==== Sys2Proof/Tests/Slice0.lean ====
section
/-! SUPPORT. Tests of the model: the well-formedness checks, the manual's worked examples, one step of each family, and for
every obligation with hypotheses a state and operands that meet them. -/

namespace Sys2Proof.Tests

open Sys2Proof Sys2Proof.Machine

/-! ## States -/

/-- What a command leaves, in a test. -/
def after (i : Instr) (s : State) : State :=
  match exec i s with
  | .next t => t
  | _ => s

/-- A request from the panel and one from the radio. -/
def panel : Req := ⟨.panel, 5⟩
def radio : Req := ⟨.radio, 6⟩

/-- Restored, supplied and fresh; the stream VALID and the switch CLOSED. -/
def up : State :=
  ((((State.reset.setSupply { bootSupply with
      restoreMark := true, power := .normal, freshness := .fresh, remote := true, lastSeq := some 9,
      meas := ⟨2400, 2600, 500, 250, true, 2000, 2400⟩ }).setSample { bootSample with
      stream := .valid, phase := 3, expected := some 7, view := .closed }).setSeq { bootSequence with
      state := .idle, recorded := some .closed }).setReports { bootReports .powerOn 0 with budget := 1000 }).setStore
    { bootStore blankNv with restoreTimer := none }

/-- A running timer. -/
def ran : Countdown := ⟨100, 40⟩

/-- `up` with the sequence in a state. -/
def upIn (q : SeqState) : State := up.setSeq { up.seq with state := q }

/-- `up` with the switch open, in a state. -/
def openIn (q : SeqState) : State := (upIn q).setSample { up.sample with view := .opened }

/-- `up` with a block of the actuator, the battery, the store or the tags replaced. -/
def upAct (a : ActuatorControl) : State := up.setAct a
def upBattery (b : BatteryUnit) : State := up.setBattery b

/-- A tag record. -/
def tag7 (st : TagState) (w : WriteStage) : TagRecord := ⟨7, .closeBlock, .panel, 0, st, w, some panel⟩

/-- `up` with one tag. -/
def upTagged (r : TagRecord) : State := up.setTags ⟨[some r, none, none, none, none, none], .idle, true⟩

/-- `up` with a held selection. -/
def upSelected (tg : Target) : State := up.setCmd { up.cmd with slot := some ⟨.panel, tg, 3⟩, selectTimer := some ran }

/-- `up` with a staging buffer. -/
def upBuffer (b : StagingBuffer) : State := up.setStore { up.store with buffer := b }

/-- A complete load of the default of a table. -/
def loadOf (id : Nat) : StagingBuffer :=
  ⟨.loading, id, (romTable id).length, .panel, romTable id, (romTable id).map fun _ => true, some ran, none⟩

/-- `up` with records in the queue. -/
def upReports (rs : List Report) : State := up.setReports { up.reports with records := rs }

/-- A SENT record of class 6, and a STATUS record. -/
def sentRecord (sends : Nat) : Report := ⟨4, 6, true, 0, .start .restart, .sent, sends, none, some ran⟩
def statusRecord : Report := newRecord 8 1 0 (up.statusBody)

/-- Another SENT record with the number of `sentRecord`, due one half millisecond after it. -/
def laterRecord : Report := { sentRecord 1 with ack := some ⟨100, 41⟩ }

/-- A kept fault record with a number. -/
def keptFault (n : Word) : FaultRecord :=
  ⟨n, 0, 0, 1, .all 0, false, ⟨true, false, false, false, false⟩, .all true, 4, .tripped, 0⟩

/-- SAMPLE frames: switch CLOSED, and switch OPEN. -/
def closedFrame (seq : Byte) (ia : Word) : SampleFrame := ⟨seq, 2, ia, 0, 0, 0, 0, 0, 0⟩
def openFrame (seq : Byte) : SampleFrame := ⟨seq, 1, 0, 0, 0, 0, 0, 0, 0⟩

/-- A CABINET frame. -/
def cabinet (seq : Byte) (current : Word) : CabinetFrame := ⟨seq, 2400, 2600, current, 250, 2000, 2400, 5⟩

/-! ## Well-formedness -/

theorem test_wf_data_too_long : WellFormed (.tableData panel 0 (List.replicate 49 0)) = false := by decide
theorem test_wf_data_full : WellFormed (.tableData panel 0 (List.replicate 48 0)) = true := by decide
theorem test_wf_bad_request_that_parses : WellFormed (.badRequest panel 6 []) = false := by decide
theorem test_wf_bad_request_too_long : WellFormed (.badRequest panel 200 (List.replicate 118 0)) = false := by decide
theorem test_wf_bad_request : WellFormed (.badRequest panel 6 [1]) = true := by decide

/-! ## Worked examples of the manual -/

/-- Curve C1 of spec/02 section 2.11. -/
def c1 : Table := [4, 0, 0, 1, 0, 0, 1024, 999, 2048, 6990, 4096, 27961, 10242, 8737]

/-- C1 with reset mode DECAY and a reset rate of 100,000 (spec/02 section 2.11.4). -/
def c1Decay : Table := [4, 1, 1, 34464, 0, 0, 1024, 999, 2048, 6990, 4096, 27961, 10242, 8737]

theorem test_c1_is_valid : imageValid 7 c1 = true := by decide

/-- spec/02 section 2.11.2. -/
theorem test_c1_rates : [16, 32, 40, 48, 64, 100, 160, 640].map (rateAt (curvePoints c1))
    = [1000, 6991, 12233, 17476, 27962, 69905, 139810, 139810] := by decide

/-- R22: 199 A gives 15, 200 A and 212 A give 16 at a pickup of 200 A. -/
theorem test_multiples : [199, 200, 212, 32767].map (fun a => multiple a 200) = [15, 16, 16, 640] := by decide

/-- spec/02 section 2.11.3: with CL8 = 12 the pickup is 300 A, and 280 A is 14 sixteenths. -/
theorem test_cold_load : multiple 280 (effectivePickup 200 12) = 14 ∧ multiple 280 (effectivePickup 200 8) = 22 := by decide

/-- spec/02 section 2.11.1: evaluation 961 saturates and operates; evaluation 960 stands 256 below. -/
theorem test_operates_at_961 :
    let a : Accumulator := ⟨16776960, true, 960⟩
    a.met c1 = false ∧ a.step c1 48 = ⟨16777216, true, 961⟩ ∧ (a.step c1 48).met c1 = true := by decide

/-- R27 in DECAY: the drop-out evaluation takes the reset rate and clears the count. -/
theorem test_decay : (⟨400000, true, 300⟩ : Accumulator).step c1Decay 14 = ⟨300000, false, 0⟩ := by decide

/-- R15: the root is truncated. -/
theorem test_magnitude : isqrt 1073676289 = 32767 ∧ isqrt 99 = 9 ∧ isqrt 100 = 10 ∧ magnitude (32 * 600 * 600) = 600 := by decide

/-- spec/07 section 7.9.1: absorb, float and test minimum at -5.0, -32.0, 25.0, 25.3 and 41.5 °C. -/
theorem test_compensation :
    [-50, -320, 250, 253, 415].map (compensate 2880 36) = [29880, 30420, 28800, 28789, 28206] ∧
    [-50, -320, 250, 253, 415].map (compensate 2700 36) = [28080, 28620, 27000, 26989, 26406] ∧
    [-50, -320, 250, 253, 415].map (compensate 2300 36) = [24080, 24620, 23000, 22989, 22406] := by decide

/-- R117: +4000 mA credits 379, -2350 mA debits 235; a discharge is rounded up. -/
theorem test_coulombs : coulombStep 144000000 0 4000 = 379 ∧ coulombStep 144000000 1000 (-2350) = 765 ∧
    coulombStep 144000000 1000 (-1) = 999 := by decide

/-- spec/07 section 7.9.2: SoC 31 and 30. -/
theorem test_soc : socOf 44640265 144000000 = 31 ∧ socOf 44639554 144000000 = 30 := by decide

/-- spec/01 section 1.10.2: 17 - 21 = 252 mod 256. -/
theorem test_late_number : seqDelta 17 21 = 252 := by decide

set_option maxRecDepth 4000 in
/-- R180 gives the polynomial and the start; 29B1h is the published check value of that CRC for "123456789". -/
theorem test_crc : crc16 [0x31, 0x32, 0x33, 0x34, 0x35, 0x36, 0x37, 0x38, 0x39] = 0x29B1 := by decide

set_option maxRecDepth 4000 in
/-- R180: 7Eh is sent as 7Dh 5Eh and 7Dh as 7Dh 5Dh after the start delimiter. -/
theorem test_stuffing : (OutFrame.wire ⟨0x33, [0x7E, 0x7D, 0]⟩).take 8 = [0x7E, 0x33, 3, 0x7D, 0x5E, 0x7D, 0x5D, 0] := by decide

/-- R163: words 8, 9, 0 and 1 of a ten-word curve. -/
theorem test_read_wraps : (after (.tableRead panel 7 8 4) up).links.tx
    = [responseFrame 5 8 .ok [4, 0xA0, 0x02, 0x22, 0x21, 0, 2, 0, 0]] := by decide

/-! ## One step of each family -/

theorem test_power_on_clears_latch : (after .powerOn (upAct { up.act with latch := true })).act.latch = false := by decide
theorem test_restart_needs_its_mark : after .restart up = up := by decide
theorem test_restart_waits_for_its_response :
    after .restart (up.setCmd { up.cmd with restartMark := true, restartAfter := some 1 }) =
      up.setCmd { up.cmd with restartMark := true, restartAfter := some 1 } := by decide
theorem test_first_frame_fills : (after (.sampleFrame (closedFrame 200 100)) State.reset).sample.expected = some 201 := by decide
theorem test_frame_of_least_sample : (frameSamples (closedFrame 0 0x8000)).ia = -32767 := by decide
theorem test_cabinet_charges : (after (.cabinetFrame (cabinet 10 4000)) up).battery.q = 379 := by decide
theorem test_discard_saturates :
    (after (.discardedFrame .cabinet) (up.setLinks { up.links with cabinetDiscards := 65535 })).links.cabinetDiscards = 65535 := by
  decide
theorem test_bad_request : (after (.badRequest panel 99 [1]) up).links.tx = [⟨0x33, [5, 99, 3]⟩] := by decide
set_option maxRecDepth 4000 in
theorem test_status_read : (after (.statusRead panel) up).statusReadBody.length = 95 := by decide
theorem test_time_set : (after (.timeSet panel 0xFFFFFFFF) up).cmd.seconds = 0xFFFFFFFF := by decide
theorem test_unlock_identity : (after (.tableUnlock panel 0) up).links.tx = [responseFrame 5 3 .locked []] := by decide
theorem test_begin_locked : (after (.tableBegin panel 1 32) up).links.tx = [responseFrame 5 4 .locked []] := by decide
theorem test_commit_applies : (after (.tableCommit panel) (upBuffer (loadOf 3))).store.inFlight = some (.table 3 (romTable 3)) := by
  decide
theorem test_abort_locks : (after (.tableAbort panel) (upBuffer (loadOf 3))).store.buffer.state = .empty := by decide
theorem test_group_select : (after (.groupSelect panel 2) up).store.activeGroup = 2 := by decide
theorem test_select_close_closed : (after (.select panel 1 3) up).links.tx = [responseFrame 5 10 .refusedPosition []] := by decide
theorem test_operate_open : (after (.operateOpen panel 3) (upSelected .opened)).act.trip = true := by decide
theorem test_operate_no_select : (after (.operateNoSelect panel 3) up).links.tx = [responseFrame 5 11 .noSelect []] := by decide
theorem test_tag_place : (after (.tagPlace panel 77 1) up).tags.count = 1 := by decide
theorem test_tag_remove_unknown : (after (.tagRemove panel 77) up).tags = up.tags := by decide
theorem test_tag_list : (after (.tagList radio) up).links.tx = [responseFrame 6 14 .ok [0, 0]] := by decide
theorem test_battery_test_refused : (after (.batteryTest panel) up).links.tx = [responseFrame 5 15 .refusedState []] := by decide
set_option maxRecDepth 4000 in
theorem test_poll_sends_start : (after (.reportPoll radio) up).reports.records = [] := by decide
theorem test_ack_unknown : (after (.reportAck radio 9) up).links.tx = [responseFrame 6 17 .unknownReport []] := by decide
theorem test_ack_expiry_of_second : (after (.ackTimerExpiry 4) (upReports [laterRecord, sentRecord 4])).reports.records = [laterRecord] := by decide
theorem test_fault_read_empty : (after (.faultRead radio 0) up).links.tx = [responseFrame 6 18 .unknownRecord []] := by decide
theorem test_whole_second : (after .wholeSecond (up.setCmd { up.cmd with seconds := 0xFFFFFFFF })).cmd.seconds = 0 := by decide
set_option maxRecDepth 4000 in
theorem test_write_completes : (after (.tableWriteComplete true)
    (up.setStore { up.store with inFlight := some (.table 7 c1), writeTimer := some ran })).store.nv.tables.getD 7 .missing = .good c1 := by
  decide
theorem test_failed_table_write : (after (.tableWriteComplete false)
    (up.setStore { up.store with inFlight := some (.table 7 c1), writeTimer := some ran })).store.nv.tables.getD 7 .missing ≠ .good c1 :=
  tableLeft_ne _ _
theorem test_restore : (after .restoreComplete State.reset).supply.restoreMark = true := by decide
set_option maxRecDepth 4000 in
theorem test_receiver_takes_request :
    Receiver.feedAll .cabinet .hunting (OutFrame.wire ⟨0x22, [1, 5, 12, 0x7E, 0x7D, 1]⟩) = (.hunting, [.tagPlace panel 0x7E7D 1]) := by
  decide
set_option maxRecDepth 4000 in
theorem test_receiver_drops_bad_origin :
    Receiver.feedAll .cabinet .hunting (OutFrame.wire ⟨0x22, [2, 5, 16]⟩) = (.hunting, [.discardedFrame .cabinet]) := by decide
theorem test_step_takes_front : step (up.setPending [.tagList radio, .statusRead panel])
    = exec (.tagList radio) (up.setPending [.statusRead panel]) := by rfl

/-! ## Witnesses: states that meet the hypotheses of the statements -/

theorem witness_StepTakesFrontOrTicks :
    (∃ s : State, s.pending = [.powerOn]) ∧ (∃ s : State, s.pending = [] ∧ s.due = []) ∧
    (∃ s : State, s.pending = [] ∧ s.due = [.wholeSecond]) :=
  ⟨⟨up.setPending [.powerOn], by decide⟩, ⟨up.setBattery { up.battery with holdTimer := none, repeatTimer := none }, by decide⟩,
    ⟨(up.setBattery { up.battery with holdTimer := none, repeatTimer := none }).setNextSecond 0, by decide⟩⟩

theorem witness_EveryCommandCompletes : ∃ (i : Instr) (s : State), timerOf s i = some none := ⟨.deadTimerExpiry, up, by decide⟩

theorem witness_SampleFrameStartsRun :
    (∃ s : State, s.sample.stream = .absent ∧ s.nothingPending) ∧ (∃ s : State, s.sample.stream = .stale ∧ s.nothingPending) ∧
    (∀ st ∈ [StreamState.filling, .valid], ∀ d ∈ [(4 : Nat), 127],
      let s := up.setSample { up.sample with stream := st, run := 20 }
      (s.sample.stream = .filling ∨ s.sample.stream = .valid) ∧ s.nothingPending ∧ s.sample.expected = some 7 ∧
      seqDelta (closedFrame (7 + BitVec.ofNat 8 d) 0).seq 7 = d) :=
  ⟨⟨State.reset, by decide, by decide⟩, ⟨up.setSample { up.sample with stream := .stale }, by decide, by decide⟩, by decide⟩

/-- `up` just before an evaluation instant. -/
def upLast : State := up.setSample { up.sample with phase := 7 }

theorem witness_EvaluationInstant :
    (∃ (f : SampleFrame) (s : State), s.sample.stream = .filling ∧ s.sample.run = 31 ∧ s.sample.expected = some f.seq ∧
      s.nothingPending) ∧
    (∃ (f : SampleFrame) (s : State), s.sample.stream = .valid ∧ s.sample.phase = 7 ∧ s.sample.expected = some f.seq ∧
      s.nothingPending ∧ s.sample.view = .closed ∧ rawPosition (sampleStatus f.status) = some .closed) ∧
    (∀ v ∈ [View.opened, .closed],
      let s := (upIn .init).setSample { up.sample with stream := .filling, run := 31, view := v }
      s.sample.stream = .filling ∧ s.sample.run = 31 ∧ s.sample.expected = some (closedFrame 7 0).seq ∧ s.seq.state = .init ∧
      s.supply.restoreMark = true ∧ s.seq.pendingGroup = none ∧ s.act.supervision = .none ∧ s.sample.view = v ∧
      s.nothingPending) :=
  ⟨⟨closedFrame 7 0, up.setSample { up.sample with stream := .filling, run := 31 }, by decide, by decide, by decide, by decide⟩,
    ⟨closedFrame 7 0, upLast, by decide, by decide, by decide, by decide, by decide, by decide⟩, by decide⟩

/-- `up` in a stream state, at a phase and a count of the run. -/
def gapIn (st : StreamState) (phase run : Nat) : State := up.setSample { up.sample with stream := st, phase := phase, run := run }

theorem witness_ShortGapIsFilled :
    (∀ d ∈ [(1 : Nat), 2, 3], seqDelta (closedFrame (7 + BitVec.ofNat 8 d) 0).seq 7 = d ∧
      (gapIn .filling 0 20).sample.run + d + 1 < 32 ∧ (gapIn .valid 3 0).sample.phase + d + 1 < 8 ∧
      (∀ k ∈ [(1 : Nat), d, d + 1], (gapIn .valid (8 - k) 0).sample.phase + k = 8 ∧ (gapIn .filling 0 (32 - k)).sample.run + k = 32)) ∧
    (∀ st ∈ [StreamState.filling, .valid], ∀ k ∈ [(1 : Nat), 4],
      (gapIn st (8 - k) (32 - k)).sample.stream = st ∧ (gapIn st (8 - k) (32 - k)).sample.expected = some 7 ∧
      (gapIn st (8 - k) (32 - k)).nothingPending ∧ (gapIn st (8 - k) (32 - k)).sample.view = .closed) ∧
    rawPosition (sampleStatus (closedFrame 8 0).status) = some .closed :=
  ⟨by decide, by decide, by decide⟩

/-- `up` in a state of the sequence, with a view and a supervision; a frame of number 7 is in order. -/
def viewing (q : SeqState) (v : View) (sup : Supervision) : State :=
  ((upIn q).setSample { up.sample with view := v }).setAct { up.act with supervision := sup }

/-- What the statement of the view changes asks of a frame and a state. -/
abbrev viewReady (f : SampleFrame) (s : State) : Prop :=
  s.sample.stream = .valid ∧ s.sample.phase + 1 < 8 ∧ s.sample.expected = some f.seq ∧ s.nothingPending ∧
  s.seq.pendingGroup = none ∧ s.battery.testState = .idle ∧ NothingToGrant s

/-- A trip and a close in progress, of a kind. -/
def trippingFor (k : TripKind) : State :=
  (viewing .tripping .closed .tripWait).setSeq { (viewing .tripping .closed .tripWait).seq with tripKind := k }
def closingFor (k : CloseKind) : State :=
  (viewing .closing .opened .closeWait).setSeq { (viewing .closing .opened .closeWait).seq with closeKind := k }

/-- What it asks besides where no close and no trip is in progress. -/
abbrev viewQuiet (q : SeqState) (s : State) : Prop :=
  s.act.trip = false ∧ s.act.close = false ∧ s.act.supervision = .none ∧ s.seq.state = q ∧ s.supply.restoreMark = true

theorem witness_ViewChangesTaken :
    (rawPosition (sampleStatus (openFrame 7).status) = some .opened ∧
      rawPosition (sampleStatus (closedFrame 7 0).status) = some .closed) ∧
    (∀ q ∈ [SeqState.idle, .timing, .reclaim, .init, .mechFail], ∀ v ∈ [View.closed, .disagree, .unknown],
      viewReady (openFrame 7) (viewing q v .none) ∧ viewQuiet q (viewing q v .none) ∧ (viewing q v .none).sample.view ≠ .opened) ∧
    (∀ k ∈ [TripKind.startup, .manual, .sensor],
      viewReady (openFrame 7) (trippingFor k) ∧ (trippingFor k).sample.view ≠ .opened ∧ (trippingFor k).seq.tripKind = k ∧
      (trippingFor k).seq.state = .tripping ∧ (trippingFor k).act.supervision = .tripWait) ∧
    (∀ q ∈ [SeqState.lockout, .dead, .init],
      viewReady (closedFrame 7 0) (viewing q .opened .none) ∧ viewQuiet q (viewing q .opened .none) ∧
      (viewing q .opened .none).sample.view ≠ .closed) ∧
    (∀ k ∈ [CloseKind.reclose, .manual],
      viewReady (closedFrame 7 0) (closingFor k) ∧ (closingFor k).seq.closeKind = k ∧ (closingFor k).seq.state = .closing ∧
      (closingFor k).act.supervision = .closeWait ∧ (closingFor k).act.heldTrip = false ∧ (closingFor k).sample.view ≠ .closed) :=
  ⟨by decide, by decide, by decide, by decide, by decide⟩

theorem witness_AbsenceAndDisagreeExpire :
    (∃ s : State, s.sample.absence = some ran ∧ NothingToGrant s) ∧ (∃ s : State, s.sample.disagree = some ran ∧ NothingToGrant s) :=
  ⟨⟨up.setSample { up.sample with absence := some ran }, by decide, .inr (by decide)⟩,
    ⟨up.setSample { up.sample with disagree := some ran }, by decide, .inr (by decide)⟩⟩

/-- `up` with a broken stream. -/
def upStale : State := up.setSample { up.sample with stream := .stale, sensorLoss := some ran }

theorem witness_SensorLossActs :
    (∃ s : State, s.sample.sensorLoss = some ran ∧ s.act.supervision = .none ∧
      (s.seq.state ≠ .idle ∧ s.seq.state ≠ .timing ∧ s.seq.state ≠ .reclaim) ∧ NothingToGrant s) ∧
    (∃ s : State, s.sample.sensorLoss = some ran ∧ s.act.supervision = .none ∧ sensorLossTrips s.unit = true ∧ s.seq.state = .idle ∧
      s.sample.stream = .stale ∧ s.act.latch = false ∧ s.act.trip = false ∧ s.act.close = false ∧ s.nothingPending ∧ NothingToGrant s) :=
  ⟨⟨upStale.setSeq { up.seq with state := .lockout }, by decide, by decide, by decide, .inr (by decide)⟩,
    ⟨upStale, by decide, by decide, by decide, by decide, by decide, by decide, by decide, by decide, by decide, .inr (by decide)⟩⟩

theorem witness_MagnitudeIsFloorRoot : ∃ sum : Nat, 0 < sum ∧ sum / 32 < 2 ^ 30 := ⟨34357641248, by decide, by decide⟩

theorem witness_RangesKept : ∃ s t : State, WindowsExact s ∧ ElementsInRange s ∧ ChargeBounded s ∧ step s = .next t :=
  ⟨up, up.tick, by unfold WindowsExact WindowExact; decide, by unfold ElementsInRange Accumulator.inRange; decide,
    by unfold ChargeBounded; decide, rfl⟩

/-- `up` with charging in FLOAT, so that a due test can start. -/
def upFloat : State := upBattery { up.battery with charge := .float }

theorem witness_WholeSecondCounts :
    (∃ s : State, NothingToGrant s ∧ s.testDue = true ∧ s.testReady = true ∧ s.battery.testState = .idle ∧ s.battery.retryTimer = none) ∧
    (∃ s : State, NothingToGrant s ∧ s.testDue = true ∧ s.testReady = false ∧ s.battery.testState = .idle ∧ s.battery.retryTimer = none) ∧
    (∃ s : State, NothingToGrant s ∧ s.testDue = false) ∧
    (∃ s : State, NothingToGrant s ∧ s.sample.stream ≠ .valid ∧ s.supply.power ≠ .cutoff ∧ s.links.waitingBytes < 1024) :=
  ⟨⟨upFloat, by decide⟩, ⟨up, by decide⟩, ⟨upBattery { up.battery with lastTime := some 0 }, by decide⟩, ⟨State.reset, by decide⟩⟩

theorem witness_ElementsAfterEvaluation :
    (∃ irms peff : Nat, 0 < peff ∧ 16 * irms < 640 * peff) ∧ (∃ irms peff : Nat, 0 < peff ∧ 640 * peff ≤ 16 * irms) ∧
    (∃ (a : Accumulator) (m : Nat), m = 15 ∧ a.picked = true) ∧ (∃ (a : Accumulator) (m : Nat), m = 15 ∧ a.picked = false) :=
  ⟨⟨199, 200, by decide, by decide⟩, ⟨8000, 200, by decide, by decide⟩, ⟨⟨5, true, 1⟩, 15, by decide, by decide⟩,
    ⟨⟨5, false, 0⟩, 15, by decide, by decide⟩⟩

theorem witness_CurveRates :
    (∃ (t : Table) (m : Nat), imageValid 7 t = true ∧ pointMultiple t (pointCount t - 1) ≤ m) ∧
    (∃ (t : Table) (m k : Nat), imageValid 7 t = true ∧ k + 1 < pointCount t ∧ pointMultiple t k ≤ m ∧ m < pointMultiple t (k + 1)) ∧
    (∃ (t : Table) (m n : Nat), imageValid 7 t = true ∧ 16 ≤ m ∧ m ≤ n) :=
  ⟨⟨c1, 160, by decide, by decide⟩, ⟨c1, 159, 2, by decide, by decide, by decide, by decide⟩,
    ⟨c1, 16, 640, by decide, by decide, by decide⟩⟩

theorem witness_ConstantCurrentOperateTime : ∃ m n : Nat, 16 ≤ m ∧ 0 < n := ⟨48, 961, by decide, by decide⟩

/-- A commit of a table's default that is PENDING, and a UNIT image with the other nominal frequency. -/
def pendingOf (id : Nat) : StagingBuffer := { loadOf id with state := .pending, timer := none }
def otherFrequency : StagingBuffer := { pendingOf 1 with image := romUnit.set 0 (if nominalFrequency romUnit = 50 then 60 else 50) }

/-- The energy wait and the reclaim time running, with a pending group and a buffer. -/
def waiting (g : Option (Fin 4)) (b : StagingBuffer) : State :=
  (upBuffer b).setSeq { up.seq with state := .dead, energyWait := some ran, pendingGroup := g }
def reclaiming (g : Option (Fin 4)) (b : StagingBuffer) : State :=
  (upBuffer b).setSeq { up.seq with state := .reclaim, reclaim := some ran, s := 1, pendingGroup := g }

theorem witness_SequenceTimersEnd :
    (∃ s : State, s.oc.coldTimer = some ran ∧ NothingToGrant s) ∧
    (∀ g ∈ [none, some (3 : Fin 4)], ∀ b ∈ [emptyBuffer, pendingOf 2, pendingOf 14, otherFrequency],
      (waiting g b).seq.energyWait = some ran ∧ (waiting g b).seq.state = .dead ∧ NothingToGrant (waiting g b) ∧
      (reclaiming g b).seq.reclaim = some ran ∧ (reclaiming g b).seq.state = .reclaim ∧ (reclaiming g b).oc.active = false ∧
      NothingToGrant (reclaiming g b) ∧ (reclaiming g b).seq.pendingGroup = g) ∧
    (otherFrequency.state = .pending ∧ nominalFrequency otherFrequency.image ≠ nominalFrequency up.unit ∧
      firstInvalid 1 otherFrequency.image = none ∧ up.streamLive = true) :=
  ⟨⟨up.setOc { up.oc with coldTimer := some ran, coldOpen := true }, by decide⟩, by decide, by decide⟩

/-- `upLast` with W of IA at 1,000 A, a high-set pickup of 800 A on phase at count 1, and high-set enabled in entry 1. -/
def faulted : State :=
  (upLast.setMag { up.mag with sums := { up.mag.sums with ia := 32 * 1000 * 1000 } }).setStore
    { up.store with tables := up.store.tables.set 3 ((((romGroup.set 2 800).set 4 1).set 13 256)) }

/-- `upLast` with W of IA at 400 A, the pickup of the default group. -/
def pickedUp : State := upLast.setMag { up.mag with sums := { up.mag.sums with ia := 32 * 400 * 400 } }

/-- `upLast` with the hot-line over flag set and no current, in a state, with L of the group and entry 1 coordinating. -/
def dropping (q : SeqState) (ops : Word) : State :=
  ((upLast.setOc { up.oc with hotLineOver := true, active := true }).setSeq { up.seq with state := q }).setStore
    { up.store with tables := up.store.tables.set 3 ((romGroup.set 7 ops).set 13 1) }

/-- What the statement of the evaluations asks of a frame and a state. -/
abbrev evalReady (f : SampleFrame) (s : State) : Prop :=
  s.sample.stream = .valid ∧ s.sample.phase = 7 ∧ s.sample.expected = some f.seq ∧ s.sample.view = .closed ∧
  rawPosition (sampleStatus f.status) = some .closed ∧ s.supply.restoreMark = true ∧ s.nothingPending ∧ NothingToGrant s

theorem witness_ProtectionTripsAndConfirms :
    (∃ (f : SampleFrame) (s : State), evalReady f s ∧
      (s.oc.evaluate (s.evalInput ((Channels.zip3 pushSum s.mag.sums s.mag.windows (frameSamples f)).map magnitude).currents)).elements.any
        = true ∧ s.seq.state = .idle ∧ s.seq.s < opsToLockout s.governingTable ∧ s.act.latch = false ∧ s.act.trip = false ∧
      s.act.close = false ∧ s.act.supervision = .none) ∧
    (∃ (f : SampleFrame) (s : State), evalReady f s ∧
      (let o := s.oc.evaluate (s.evalInput ((Channels.zip3 pushSum s.mag.sums s.mag.windows (frameSamples f)).map magnitude).currents)
       o.elements.any = false ∧ o.unit.active = s.oc.active)) ∧
    (∃ (f : SampleFrame) (s : State), evalReady f s ∧ s.oc.active = false ∧
      s.battery.testState = .idle ∧ s.seq.state = .idle ∧
      (let o := s.oc.evaluate (s.evalInput ((Channels.zip3 pushSum s.mag.sums s.mag.windows (frameSamples f)).map magnitude).currents)
       o.elements.any = false ∧ o.unit.active = true)) ∧
    (∃ (f : SampleFrame) (s : State), evalReady f s ∧ s.oc.active = true ∧
      s.seq.pendingGroup = none ∧ s.seq.state = .timing ∧
      (let o := s.oc.evaluate (s.evalInput ((Channels.zip3 pushSum s.mag.sums s.mag.windows (frameSamples f)).map magnitude).currents)
       o.elements.any = false ∧ o.unit.active = false) ∧
      entryCoordinating s.governingTable (s.seq.s + 1) = true ∧ s.seq.s + 1 < s.effectiveOps) ∧
    (∃ (f : SampleFrame) (s : State), evalReady f s ∧ s.oc.active = true ∧ s.seq.pendingGroup = none ∧ s.seq.state = .reclaim ∧
      (let o := s.oc.evaluate (s.evalInput ((Channels.zip3 pushSum s.mag.sums s.mag.windows (frameSamples f)).map magnitude).currents)
       o.elements.any = false ∧ o.unit.active = false) ∧
      ¬ (entryCoordinating s.governingTable (s.seq.s + 1) = true ∧ s.seq.s + 1 < s.effectiveOps)) ∧
    (∃ (f : SampleFrame) (s : State), s.sample.stream = .valid ∧ s.sample.phase + 1 < 8 ∧ s.sample.expected = some f.seq ∧
      rawPosition (sampleStatus f.status) = some .opened ∧ s.sample.view ≠ .opened ∧ s.seq.state = .tripping ∧
      s.seq.tripKind = .protection ∧ s.act.supervision = .tripWait ∧ s.nothingPending ∧ NothingToGrant s ∧ s.tags.isEmpty = true ∧
      s.seq.s < opsToLockout s.governingTable) :=
  ⟨⟨closedFrame 7 1000, faulted, by decide⟩, ⟨closedFrame 7 0, upLast, by decide⟩,
    ⟨closedFrame 7 0, pickedUp, by decide⟩, ⟨closedFrame 7 0, dropping .timing 2, by decide⟩, ⟨closedFrame 7 0, dropping .reclaim 1, by decide⟩,
    ⟨openFrame 7, (upIn .tripping).setAct { up.act with trip := true, supervision := .tripWait }, by decide, by decide, by decide, by decide,
      by decide, by decide, by decide, by decide, by decide, .inr (by decide), by decide, by decide⟩⟩

/-- The switch open in DEAD with the dead timer running. -/
def dead : State := (openIn .dead).setSeq { up.seq with state := .dead, dead := some ran }

theorem witness_DeadTimerRecloses :
    (∃ s : State, s.seq.dead = some ran ∧ s.seq.state = .dead ∧ s.act.trip = false ∧ s.nothingPending ∧ s.seq.pendingGroup = none ∧
      NothingToGrant s ∧ s.permission = none) ∧
    (∃ s : State, s.seq.dead = some ran ∧ s.seq.state = .dead ∧ s.act.trip = false ∧ s.nothingPending ∧ s.seq.pendingGroup = none ∧
      NothingToGrant s ∧ s.permission = some .closeEnergy ∧ s.seq.energyWait = none ∧ closeEnergyWait s.unit ≠ 0) :=
  ⟨⟨dead, by decide, by decide, by decide, by decide, by decide, .inr (by decide), by decide⟩,
    ⟨dead.setSupply { up.supply with meas := { up.supply.meas with closeCap := 1999 } }, by decide, by decide, by decide, by decide,
      by decide, .inr (by decide), by decide, by decide, by decide⟩⟩

/-- A state with the remote switch off. -/
def remoteOff (s : State) : State := s.setSupply { s.supply with remote := false }

theorem witness_GroupSelectTakesGroup :
    (∃ (r : Req) (s : State), s.supply.restoreMark = true ∧ s.remoteRefused r = false ∧ s.sequenceRests = true) ∧
    (∃ (r : Req) (s : State), s.supply.restoreMark = true ∧ s.remoteRefused r = false ∧ s.sequenceRests = false) ∧
    (NothingToGrant State.reset ∧ State.reset.supply.restoreMark = false) ∧
    (NothingToGrant (remoteOff up) ∧ (remoteOff up).supply.restoreMark = true ∧ (remoteOff up).remoteRefused radio = true) ∧
    (4 ≤ (4 : Byte).toNat ∧ (3 : Byte).toNat < 4) :=
  ⟨⟨panel, up, by decide, by decide, by decide⟩, ⟨radio, upIn .dead, by decide, by decide, by decide⟩, by decide, by decide, by decide⟩

theorem witness_PermissionOrder :
    (∃ s : State, s.tags.isEmpty = false) ∧ (∃ s : State, s.tags.isEmpty = true ∧ s.sample.view ≠ .opened) ∧
    (∃ s : State, s.permission = none) ∧
    (∃ s : State, s.tags.isEmpty = true ∧ s.sample.view = .opened ∧ s.act.latch = false ∧ s.supply.power = .normal ∧
      s.supply.freshness = .fresh ∧ tripReadyLevel s.unit ≤ s.supply.meas.tripCap ∧ ¬ closeReadyLevel s.unit ≤ s.supply.meas.closeCap) :=
  ⟨⟨upTagged (tag7 .held .none), by decide⟩, ⟨up, by decide⟩, ⟨dead, by decide⟩,
    ⟨dead.setSupply { up.supply with meas := { up.supply.meas with closeCap := 1999 } }, by decide⟩⟩

/-- LOCKOUT after a trip, its pulse still running, with a manual close deferred behind it. -/
def deferring : State :=
  ((openIn .lockout).setAct { up.act with trip := true, tripTimer := some ran, deferred := some .manual }).setCmd
    { up.cmd with deferredClose := some panel }

theorem witness_PulsesEnd :
    (∃ s : State, s.act.tripTimer = some ran ∧ s.act.deferred = none ∧ NothingToGrant s) ∧
    (∃ s : State, s.act.closeTimer = some ran ∧ s.act.heldTrip = false ∧ NothingToGrant s) ∧
    (∃ s : State, s.act.closeTimer = some ran ∧ s.act.heldTrip = true ∧ NothingToGrant s) ∧
    (∃ s : State, s.act.tripTimer = some ran ∧ s.act.deferred = some .reclose ∧ s.permission = none ∧ NothingToGrant s) ∧
    (∃ s : State, s.act.tripTimer = some ran ∧ s.act.deferred = some .manual ∧ s.cmd.deferredClose = some panel ∧ NothingToGrant s ∧
      s.permission = none) ∧
    (∃ s : State, s.act.tripTimer = some ran ∧ s.act.deferred = some .manual ∧ s.cmd.deferredClose = some panel ∧ NothingToGrant s ∧
      s.permission = some .tag) :=
  ⟨⟨upAct { up.act with trip := true, tripTimer := some ran }, by decide, by decide, .inr (by decide)⟩,
    ⟨upAct { up.act with close := true, closeTimer := some ran }, by decide, by decide, .inr (by decide)⟩,
    ⟨upAct { up.act with close := true, closeTimer := some ran, heldTrip := true }, by decide, by decide, .inr (by decide)⟩,
    ⟨dead.setAct { up.act with trip := true, tripTimer := some ran, deferred := some .reclose }, by decide, by decide, by decide,
      .inr (by decide)⟩,
    ⟨deferring, by decide⟩, ⟨deferring.setTags (upTagged (tag7 .held .none)).tags, by decide⟩⟩

theorem witness_ConfirmLimits :
    (∃ s : State, s.act.confirm = .running ran ∧ s.act.supervision = .tripWait ∧ s.act.retry = false ∧ s.sample.stream ≠ .stale ∧
      NothingToGrant s) ∧
    (∃ s : State, s.act.confirm = .running ran ∧ s.act.supervision = .tripWait ∧ s.act.retry = true ∧ s.settled .opened = false ∧
      s.seq.state ≠ .idle ∧ NothingToGrant s) ∧
    (∃ s : State, s.act.confirm = .running ran ∧ s.act.supervision = .closeWait ∧ s.settled .opened = false ∧ s.seq.state ≠ .idle ∧
      NothingToGrant s) :=
  ⟨⟨(upIn .tripping).setAct { up.act with confirm := .running ran, supervision := .tripWait }, by decide, by decide, by decide,
      by decide, .inr (by decide)⟩,
    ⟨(upIn .tripping).setAct { up.act with confirm := .running ran, supervision := .tripWait, retry := true }, by decide, by decide,
      by decide, by decide, by decide, .inr (by decide)⟩,
    ⟨(upIn .closing).setAct { up.act with confirm := .running ran, supervision := .closeWait }, by decide, by decide, by decide,
      by decide, .inr (by decide)⟩⟩

theorem witness_CoilSafetyKept : ∃ s t : State, PulsesApart s ∧ LatchHolds s ∧ s.act.latch = true ∧ step s = .next t :=
  ⟨upAct { up.act with latch := true }, (upAct { up.act with latch := true }).tick, by unfold PulsesApart; decide,
    by unfold LatchHolds; decide, by decide, rfl⟩

theorem witness_TagStopsEveryClose :
    ∃ (i : Instr) (s t : State), s.tags.isEmpty = false ∧ s.act.close = false ∧ exec i s = .next t :=
  ⟨.discardedFrame .sensor, upTagged (tag7 .held .none), after (.discardedFrame .sensor) (upTagged (tag7 .held .none)), by decide,
    by decide, rfl⟩

/-- Six tags. -/
def fullTags : State :=
  up.setTags ⟨[1, 2, 3, 4, 5, 6].map fun c => some ⟨c, .hotLine, .radio, 0, .held, .none, none⟩, .idle, true⟩

theorem witness_TagPlaceAnswers :
    (∃ (r : Req) (s : State), s.supply.restoreMark = true ∧ tagKindOf 0 = some .hotLine ∧ (7 : Word) ≠ 0 ∧ s.remoteRefused r = false ∧
      s.tags.find 7 = none ∧ s.tags.freeSlot = some 0 ∧ s.act.close = false ∧ s.seq.state ≠ .dead) ∧
    (∃ (r : Req) (s : State), s.supply.restoreMark = true ∧ tagKindOf 1 = some .closeBlock ∧ s.remoteRefused r = false ∧
      s.tags.find 7 = none ∧ s.tags.freeSlot = some 0 ∧ s.act.close = false ∧ s.seq.state = .dead) ∧
    (∃ s : State, NothingToGrant s ∧ s.supply.restoreMark = false) ∧ tagKindOf 2 = none ∧
    (∃ (r : Req) (s : State), NothingToGrant s ∧ s.supply.restoreMark = true ∧ tagKindOf 1 ≠ none ∧ s.remoteRefused r = true) ∧
    (∃ (r : Req) (s : State), NothingToGrant s ∧ s.supply.restoreMark = true ∧ s.remoteRefused r = false ∧ s.tags.find 7 ≠ none) ∧
    (∃ (r : Req) (s : State), NothingToGrant s ∧ s.supply.restoreMark = true ∧ s.remoteRefused r = false ∧ s.tags.find 7 = none ∧
      s.tags.freeSlot = none) :=
  ⟨⟨panel, up, by decide⟩, ⟨panel, dead, by decide⟩, ⟨State.reset, .inr (by decide), by decide⟩, by decide,
    ⟨radio, remoteOff up, .inr (by decide), by decide, by decide, by decide⟩,
    ⟨panel, upTagged (tag7 .held .none), .inr (by decide), by decide, by decide, by decide⟩,
    ⟨panel, fullTags, .inr (by decide), by decide, by decide, by decide, by decide⟩⟩

/-- A tag of an origin placed in slot 0. -/
def tagOf (o : Origin) : State := upTagged { tag7 .held .none with origin := o }

theorem witness_TagRemoveBegins :
    (∃ (r : Req) (rec : TagRecord) (s : State), s.supply.restoreMark = true ∧ s.tags.find 7 = some 0 ∧ s.tags.at 0 = some rec ∧
      rec.state = .held ∧ ¬ (rec.origin = .panel ∧ r.origin = .radio) ∧ s.remoteRefused r = false) ∧
    (∃ s : State, NothingToGrant s ∧ s.supply.restoreMark = false) ∧
    (∃ s : State, NothingToGrant s ∧ s.supply.restoreMark = true ∧ s.tags.find 9 = none) ∧
    (∃ (rec : TagRecord) (s : State), NothingToGrant s ∧ s.supply.restoreMark = true ∧ s.tags.find 7 = some 0 ∧ s.tags.at 0 = some rec ∧
      rec.state = .placing) ∧
    (∃ (rec : TagRecord) (s : State), (NothingToGrant s ∧ s.supply.restoreMark = true ∧ s.tags.find 7 = some 0) ∧ s.tags.at 0 = some rec ∧
      rec.state = .held ∧ rec.origin = .panel ∧ radio.origin = .radio) ∧
    (∃ (rec : TagRecord) (s : State), (NothingToGrant s ∧ s.supply.restoreMark = true ∧ s.tags.find 7 = some 0) ∧ s.tags.at 0 = some rec ∧
      rec.state = .held ∧ rec.origin = .radio ∧ s.remoteRefused radio = true) :=
  ⟨⟨panel, tag7 .held .none, upTagged (tag7 .held .none), by decide⟩, ⟨State.reset, by decide⟩, ⟨tagOf .panel, by decide⟩,
    ⟨tag7 .placing .writing, upTagged (tag7 .placing .writing), by decide⟩, ⟨_, tagOf .panel, by decide, rfl, by decide⟩,
    ⟨_, remoteOff (tagOf .radio), by decide, rfl, by decide⟩⟩

/-- A tag write in flight that carries one record. -/
def tagWriting (r : TagRecord) : State :=
  (up.setTags ⟨[some r, none, none, none, none, none], .inFlight, true⟩).setStore
    { up.store with inFlight := some (.tag []), writeTimer := some ran }

theorem witness_TagWriteConcludes :
    (∀ st ∈ [TagState.placing, .removing], ∀ w ∈ [WriteStage.none, .writing, .waiting],
      (tagWriting (tag7 st w)).store.inFlight = some (.tag []) ∧ (tagWriting (tag7 st w)).store.writeTimer = some ran ∧
      (tagWriting (tag7 st w)).tags.at 0 = some (tag7 st w) ∧ (tag7 st w).stage = w ∧ (tag7 st w).state = st ∧
      (tagWriting (tag7 st w)).tags.at 1 = none ∧ (tagWriting (tag7 st w)).supply.stage ≠ .draining) ∧
    (∀ st w, TagTableSound (tagWriting (tag7 st w))) ∧
    (∀ r ∈ (tagWriting (tag7 .removing .writing)).tags.records, r.stage ≠ .waiting) ∧
    (∃ r ∈ (tagWriting (tag7 .removing .waiting)).tags.records, r.stage = .waiting) :=
  ⟨by decide, fun st w => by unfold TagTableSound; cases st <;> cases w <;> decide, by decide, ⟨tag7 .removing .waiting, by decide, by decide⟩⟩

/-- R92, R98, R100: a verified removal frees its slot, answers the crew code, the slot and all ones for the state, and reports the
count that is left. -/
theorem test_removal_concludes :
    (after (.tagWriteComplete true) (tagWriting (tag7 .removing .writing))).links.tx = [responseFrame 5 13 .ok [0, 7, 0, 0xFF]] ∧
    (after (.tagWriteComplete true) (tagWriting (tag7 .removing .writing))).reports.records.head?.map Report.body =
      some (.tag .removed (some ⟨7, .closeBlock, .panel, some .panel, 0, 0⟩) 0 true) := by decide

theorem witness_TablesAndQueuesStaySound :
    ∃ s t : State, TagTableSound s ∧ QueueSound s ∧ FaultRingSound s ∧ s.faults.ring ≠ [] ∧ step s = .next t :=
  ⟨(upTagged (tag7 .held .none)).setFaults ⟨[keptFault 65535], none, 0⟩,
    ((upTagged (tag7 .held .none)).setFaults ⟨[keptFault 65535], none, 0⟩).tick, by unfold TagTableSound; decide,
    by unfold QueueSound; decide, by unfold FaultRingSound; decide, by decide, rfl⟩

/-- `up` in a power state, and frames that show the supply absent, at a battery voltage. -/
def inPower (p : PowerState) : State := up.setSupply { up.supply with power := p }
def absentAt (v current : Word) : CabinetFrame := { cabinet 10 current with supply := 0, battery := v }

theorem witness_CabinetFrameTaken :
    (∃ (f : CabinetFrame) (s : State), s.cabinetGap f = some (some 0) ∧ s.nothingPending ∧ s.supply.restoreMark = true) ∧
    (∃ (f : CabinetFrame) (s : State), (s.cabinetGap f).isSome = true ∧ s.nothingPending ∧ s.supply.restoreMark = false ∧
      s.supply.power = .start) ∧
    (∀ q ∈ [Qualification.unqualified, .qualifying, .qualified], ∀ p ∈ [PowerState.start, .normal, .carry, .conserve, .cutoff],
      let s := (inPower p).setSupply { (inPower p).supply with qualification := q }
      supplyPresentLevel s.unit ≤ (cabinet 10 0).supply.toNat ∧ ¬ supplyPresentLevel s.unit ≤ (absentAt 2000 0).supply.toNat ∧
      (s.cabinetGap (cabinet 10 0)) = some (some 0) ∧ (s.cabinetGap (absentAt 2000 0)) = some (some 0) ∧ s.nothingPending ∧
      s.battery.testState = .idle ∧ s.seq.energyWait = none ∧ NothingToGrant s) ∧
    (up.cabinetGap (cabinet 20 0) = some (some 10) ∧ up.cabinetGap (cabinet 21 0) = some (some 11)) ∧
    (let s := (inPower .carry).setBattery { up.battery with q := 1 }
     ((s.takeMeasurements (absentAt 2600 0xFFFF)).exhaustedBy (some 0)) = true ∧ coulombStep (qMax s.batteryTable) 1 (-1) = 0) ∧
    ((absentAt (BitVec.ofNat 16 (cutoffVoltage up.batteryTable)) 0).battery.toNat ≤ cutoffVoltage up.batteryTable) :=
  ⟨⟨cabinet 10 4000, up, by decide⟩, ⟨cabinet 77 0, State.reset, by decide⟩, by decide, by decide, by decide, by decide⟩

/-- What the statement of a CABINET frame asks for its clauses about charging: NORMAL, the supply present. -/
abbrev chargeReady (f : CabinetFrame) (s : State) : Prop :=
  s.cabinetGap f = some (some 0) ∧ s.nothingPending ∧ s.supply.restoreMark = true ∧ s.supply.power = .normal ∧
  supplyPresentLevel s.unit ≤ f.supply.toNat

/-- `up` in a charge state with no test, and with a test running; frames at a battery voltage, a temperature, flags, a trip capacitor. -/
def charging (c : ChargeState) : State := upBattery { up.battery with charge := c, q := qMax up.batteryTable }
def inTest : State := upBattery { up.battery with charge := .test, testState := .running }
def frameAt (battery current temperature tripCap : Word) (flags : Byte) : CabinetFrame :=
  { cabinet 10 current with battery := battery, temperature := temperature, tripCap := tripCap, flags := flags }
def calmFrame : CabinetFrame := frameAt 2600 0 250 2000 5

theorem witness_CabinetFrameTaken_charge :
    (∀ c ∈ [ChargeState.off, .rest, .bulk, .absorb, .float], ∀ f ∈ [calmFrame, frameAt 2600 0 250 2000 7, frameAt 3000 30000 250 2000 5],
      chargeReady f (charging c) ∧ (charging c).battery.testState = .idle ∧ (charging c).battery.charge = c) ∧
    (let s := charging .rest
     FrameLeavesRest calmFrame s (after (.cabinetFrame calmFrame) s) ∧
     ¬ FrameLeavesRest (frameAt 2600 0 250 2000 7) s (after (.cabinetFrame (frameAt 2600 0 250 2000 7)) s)) ∧
    (let f := frameAt 3000 30000 250 2000 5
     let t := after (.cabinetFrame f) (charging .bulk)
     ¬ FrameRests f (charging .bulk) t ∧ t.absorbTarget ≤ 10 * (f.battery.toNat : Int)) ∧
    (let t := after (.cabinetFrame calmFrame) (charging .bulk)
     ¬ FrameRests calmFrame (charging .bulk) t ∧ 10 * (calmFrame.battery.toNat : Int) < t.absorbTarget) ∧
    (calmFrame.current.toInt ≤ (absorbEndCurrent up.batteryTable : Int) ∧
      (absorbEndCurrent up.batteryTable : Int) < (frameAt 3000 30000 250 2000 5).current.toInt) ∧
    (let t := after (.cabinetFrame calmFrame) (charging .float)
     ¬ FrameRests calmFrame (charging .float) t ∧ 90 ≤ t.soc) ∧
    (let s := upBattery { up.battery with charge := .float }
     let t := after (.cabinetFrame calmFrame) s
     chargeReady calmFrame s ∧ t.battery.tempState ≠ .fault ∧ t.soc < 90) ∧
    (let s := charging .off
     let t := after (.cabinetFrame calmFrame) s
     t.chargerContent = s.battery.sent) ∧
    (let s := charging .bulk
     let t := after (.cabinetFrame calmFrame) s
     t.chargerContent ≠ s.battery.sent) :=
  ⟨by decide, by decide, by decide, by decide, by decide, by decide, by decide, by decide, by decide⟩

theorem witness_CabinetFrameTaken_test :
    (∀ f ∈ [calmFrame, frameAt 2600 0 250 0 5, frameAt 2600 0 250 0 7, frameAt 2600 0 700 2000 5, frameAt 2600 0 250 2000 7],
      chargeReady f inTest ∧ inTest.battery.testState = .running ∧ inTest.battery.charge = .test ∧ inTest.seq.energyWait = none) ∧
    (tripReadyLevel up.unit ≤ calmFrame.tripCap.toNat ∧ ¬ tripReadyLevel up.unit ≤ (frameAt 2600 0 250 0 5).tripCap.toNat) ∧
    ¬ FrameRests calmFrame inTest (after (.cabinetFrame calmFrame) inTest) ∧
    OutsideWindow inTest (after (.cabinetFrame (frameAt 2600 0 700 2000 5)) inTest) ∧
    ¬ OutsideWindow inTest (after (.cabinetFrame (frameAt 2600 0 250 2000 7)) inTest) :=
  ⟨by decide, by decide, by decide, by decide, by decide⟩

/-- DEAD in energy wait. -/
def energyWaiting : State := dead.setSeq { dead.seq with dead := none, energyWait := some ran }

theorem witness_CabinetFrameTaken_recheck :
    (∀ s ∈ [energyWaiting, energyWaiting.setTags (upTagged (tag7 .held .none)).tags, energyWaiting.setSample up.sample,
        energyWaiting.setAct { up.act with latch := true }, energyWaiting.setAct { up.act with trip := true }],
      s.cabinetGap calmFrame = some (some 0) ∧ s.nothingPending ∧ s.seq.state = .dead ∧ s.seq.energyWait.isSome = true) ∧
    (let p (s : State) (f : CabinetFrame) := (s.setSupply (after (.cabinetFrame f) s).supply).permission
     p energyWaiting calmFrame = none ∧ p energyWaiting (frameAt 2600 0 250 0 5) = some .tripEnergy ∧
     p energyWaiting { calmFrame with closeCap := 0 } = some .closeEnergy ∧
     p (energyWaiting.setTags (upTagged (tag7 .held .none)).tags) calmFrame = some .tag ∧
     p (energyWaiting.setSample up.sample) calmFrame = some .position ∧
     p (energyWaiting.setAct { up.act with latch := true }) calmFrame = some .mechanism ∧
     p (energyWaiting.setSupply { up.supply with power := .conserve }) calmFrame = some .power) ∧
    (after (.cabinetFrame (absentAt 2600 0)) inTest).supply.power ≠ .normal :=
  ⟨by decide, by decide, by decide⟩

theorem witness_FreshnessLost :
    (∃ s : State, s.supply.freshTimer = some ran ∧ s.nothingPending ∧ NothingToGrant s ∧ s.battery.testState = .idle) ∧
    (∃ s : State, s.supply.freshTimer = some ran ∧ s.nothingPending ∧ NothingToGrant s ∧ s.battery.testState = .running) :=
  ⟨⟨up.setSupply { up.supply with freshTimer := some ran }, by decide, by decide, .inr (by decide), by decide⟩,
    ⟨(upBattery { up.battery with testState := .running, charge := .test }).setSupply { up.supply with freshTimer := some ran }, by decide,
      by decide, .inr (by decide), by decide⟩⟩

theorem witness_SupplyQualifies :
    (∃ s : State, s.supply.qualifyTimer = some ran ∧ NothingToGrant s ∧ s.supply.power = .carry) ∧
    (∃ s : State, s.supply.qualifyTimer = some ran ∧ NothingToGrant s ∧ s.supply.power ≠ .carry ∧ s.supply.power ≠ .conserve) :=
  ⟨⟨up.setSupply { up.supply with qualifyTimer := some ran, power := .carry }, by decide, .inr (by decide), by decide⟩,
    ⟨up.setSupply { up.supply with qualifyTimer := some ran }, by decide, .inr (by decide), by decide, by decide⟩⟩

theorem witness_CutoffThenDisconnect :
    (∃ s : State, s.supply.cutoffTimer = some ran ∧ s.supply.power = .conserve ∧ s.battery.testState = .idle) ∧
    (∃ s : State, s.supply.finalTimer = some ran ∧ s.arbiterIdle = true ∧ s.supply.stage = .draining) :=
  ⟨⟨up.setSupply { up.supply with cutoffTimer := some ran, power := .conserve }, by decide⟩,
    ⟨up.setSupply { up.supply with finalTimer := some ran, power := .cutoff, stage := .draining }, by decide⟩⟩

theorem witness_CoulombStepRounds : ∃ qmax q : Nat, q ≤ qmax ∧ 0 < qmax := ⟨144000000, 144000000, by decide, by decide⟩

theorem witness_ChargeTimersEnd :
    (∃ s : State, s.battery.holdTimer = some ran ∧ NothingToGrant s ∧ s.battery.charge = .bulk) ∧
    (∃ s : State, NothingToGrant s ∧ s.battery.absorbTimer = some ran ∧ s.battery.charge = .absorb) ∧
    (∃ s : State, NothingToGrant s ∧ s.battery.rebulkTimer = some ran ∧ s.battery.charge = .float ∧ s.battery.tempState ≠ .fault) ∧
    (∃ s : State, NothingToGrant s ∧ s.battery.floatFullTimer = some ran) ∧
    (∃ s : State, NothingToGrant s ∧ s.battery.repeatTimer = some ran) :=
  ⟨⟨upBattery { up.battery with holdTimer := some ran, charge := .bulk }, by decide, .inr (by decide), by decide⟩,
    ⟨upBattery { up.battery with absorbTimer := some ran, charge := .absorb }, .inr (by decide), by decide, by decide⟩,
    ⟨upBattery { up.battery with rebulkTimer := some ran, charge := .float }, .inr (by decide), by decide, by decide, by decide⟩,
    ⟨upBattery { up.battery with floatFullTimer := some ran }, .inr (by decide), by decide⟩,
    ⟨upBattery { up.battery with repeatTimer := some ran }, .inr (by decide), by decide⟩⟩

/-- A running test of 300 frames at a mean load of 2 A, with a rest and a lowest voltage. -/
def testing (lowest : Nat) : State :=
  upBattery { up.battery with
    testState := .running, charge := .test, testTimer := some ran, vRest := some 2600, vMin := some lowest, dischargeSum := 600000,
    frameCount := 300 }

theorem witness_BatteryTestConcludes :
    (∃ s : State, s.battery.testTimer = some ran ∧ s.battery.testState = .running ∧ s.nothingPending ∧ NothingToGrant s ∧
      0 < s.battery.load ∧ s.testPasses = true) ∧
    (∃ s : State, s.battery.testTimer = some ran ∧ s.battery.testState = .running ∧ s.nothingPending ∧ NothingToGrant s ∧
      0 < s.battery.load ∧ s.testPasses = false) ∧
    (∃ s : State, s.battery.testTimer = some ran ∧ s.battery.testState = .running ∧ s.nothingPending ∧ NothingToGrant s ∧
      s.battery.load ≤ 0) :=
  ⟨⟨testing 2300, by decide, by decide, by decide, .inr (by decide), by decide, by decide⟩,
    ⟨testing 2299, by decide, by decide, by decide, .inr (by decide), by decide, by decide⟩,
    ⟨upBattery { up.battery with testState := .running, testTimer := some ran }, by decide, by decide, by decide, .inr (by decide),
      by decide⟩⟩

theorem witness_BatteryTestStarts :
    (∃ s : State, s.battery.retryTimer = some ran ∧ s.battery.testState = .idle ∧ NothingToGrant s ∧ s.testDue = true ∧
      s.testReady = true ∧ s.battery.disconnect = false) ∧
    (∃ s : State, s.battery.retryTimer = some ran ∧ s.battery.testState = .idle ∧ NothingToGrant s ∧ s.testDue = true ∧
      s.testReady = false) ∧
    (∃ s : State, s.battery.retryTimer = some ran ∧ s.battery.testState = .idle ∧ NothingToGrant s ∧ s.testDue = false) ∧
    (∃ (r : Req) (s : State), NothingToGrant s ∧ s.remoteRefused r = false ∧ s.testReady = true) ∧
    (∃ (r : Req) (s : State), NothingToGrant s ∧ s.remoteRefused r = true) :=
  ⟨⟨upBattery { up.battery with retryTimer := some ran, charge := .float }, by decide, by decide, .inr (by decide), by decide, by decide,
      by decide⟩,
    ⟨upBattery { up.battery with retryTimer := some ran }, by decide, by decide, .inr (by decide), by decide, by decide⟩,
    ⟨upBattery { up.battery with retryTimer := some ran, lastTime := some 0 }, by decide, by decide, .inr (by decide), by decide⟩,
    ⟨panel, upBattery { up.battery with charge := .float }, .inr (by decide), by decide, by decide⟩,
    ⟨radio, State.reset, .inr (by decide), by decide⟩⟩

/-- A queue of 32 QUEUED records of one class. -/
def fullQueue (cls : Nat) : ReportQueue :=
  { up.reports with records := List.replicate 32 (newRecord 0 cls 0 (.start .restart)) }

theorem witness_FullQueueEvicts :
    (∃ q : ReportQueue, q.records.length = 32 ∧ (ReportBody.start .restart).isStatus = false ∧
      ∃ x ∈ q.records, x.state = .queued ∧ x.cls < 5) ∧
    (∃ q : ReportQueue, q.records.length = 32 ∧ (ReportBody.start .restart).isStatus = false ∧
      ∀ x ∈ q.records, x.state = .queued → 5 ≤ x.cls) :=
  ⟨⟨fullQueue 4, by decide, by decide, by decide⟩, ⟨fullQueue 5, by decide, by decide, by decide⟩⟩

/-- `up` with records and the status-interval timer running. -/
def statusDue (rs : List Report) : State := up.setReports { up.reports with records := rs, statusTimer := some ran }

theorem witness_StatusReportEntered :
    (∃ s : State, s.reports.statusTimer = some ran ∧ NothingToGrant s ∧ ∃ x ∈ s.reports.records, x.body.isStatus = true) ∧
    (∃ s : State, s.reports.statusTimer = some ran ∧ NothingToGrant s ∧ (∀ x ∈ s.reports.records, x.body.isStatus = false) ∧
      s.reports.records.length < 32) :=
  ⟨⟨statusDue [statusRecord], by decide, .inr (by decide), by decide⟩,
    ⟨statusDue [sentRecord 1], by decide, .inr (by decide), by decide, by decide⟩⟩

/-- A class 7 record that is the final report of a shutdown under way, and a class 4 record with a budget of 0. -/
def drained : State :=
  (upReports [newRecord 3 7 0 (.start .restart)]).setSupply
    { up.supply with power := .cutoff, stage := .draining, finalReport := some 3, finalTimer := some ran }
def outOfBudget : State := up.setReports { up.reports with records := [newRecord 3 4 0 (.start .restart)], budget := 0 }

set_option maxRecDepth 4000 in
theorem witness_PollAnswers :
    (∃ (s : State) (before : List Report) (x : Report) (rest : List Report), s.reports.records = before ++ x :: rest ∧
      (∀ y ∈ before, s.sendable y = false) ∧ s.sendable x = true ∧ s.supply.restoreMark = true ∧
      budgetAllows s.reports.budget (airtimeCeiling s.unit) x.cls (s.cost x) = true ∧ s.supply.stage ≠ .draining ∧ NothingToGrant s) ∧
    (∃ s : State, (∀ x, s.reports.records = [x] → s.sendable x = true ∧ s.supply.restoreMark = true ∧
      budgetAllows s.reports.budget (airtimeCeiling s.unit) x.cls (s.cost x) = true ∧ s.supply.finalReport = some x.number) ∧
      s.reports.records.length = 1 ∧ s.supply.stage = .draining ∧ s.arbiterIdle = true) ∧
    (∃ s : State, (∀ x, s.reports.records = [x] → s.sendable x = true ∧
      budgetAllows s.reports.budget (airtimeCeiling s.unit) x.cls (s.cost x) = false) ∧ s.reports.records.length = 1 ∧ NothingToGrant s) ∧
    (∃ s : State, (∀ y ∈ s.reports.records, s.sendable y = false) ∧ NothingToGrant s) ∧
    (∃ s : State, s.supply.restoreMark = false ∧ NothingToGrant s) :=
  ⟨⟨upReports [sentRecord 1, newRecord 3 4 0 (.start .powerOn)], [sentRecord 1], newRecord 3 4 0 (.start .powerOn), [], by decide, by decide,
      by decide, by decide, by decide, by decide, .inr (by decide)⟩,
    ⟨drained, fun x h => by cases h; decide, by decide⟩, ⟨outOfBudget, fun x h => by cases h; decide, by decide⟩,
    ⟨upReports [sentRecord 1], by decide, .inr (by decide)⟩, ⟨State.reset, by decide, .inr (by decide)⟩⟩

theorem witness_AckRemovesFirst :
    (∃ (s : State) (before : List Report) (x : Report) (rest : List Report), NothingToGrant s ∧
      s.reports.records = before ++ x :: rest ∧ x.number = 4 ∧ ∀ y ∈ before, y.number ≠ 4) ∧
    (∃ s : State, NothingToGrant s ∧ ∀ y ∈ s.reports.records, y.number ≠ 4) :=
  ⟨⟨upReports [statusRecord, sentRecord 1], [statusRecord], sentRecord 1, [], .inr (by decide), by decide, by decide, by decide⟩,
    ⟨up, .inr (by decide), by decide⟩⟩

theorem witness_AckTimeoutRequeues :
    (∃ (s : State) (x : Report), s.reports.records = [] ++ x :: [] ∧ x.state = .sent ∧ x.ack = some ran ∧ NothingToGrant s ∧ x.sends = 3) ∧
    (∃ (s : State) (x : Report), s.reports.records = [] ++ x :: [] ∧ x.state = .sent ∧ x.ack = some ran ∧ NothingToGrant s ∧ x.sends = 4) ∧
    (∃ (s : State) (w x y : Report), s.reports.records = [w] ++ x :: [y] ∧ x.state = .sent ∧ x.ack = some ran ∧ NothingToGrant s ∧
      w.number = x.number ∧ w.state = .sent ∧ (∀ d, w.ack = some d → ran.due < d.due) ∧
      y.number = x.number ∧ y.state = .sent ∧ (∀ d, y.ack = some d → ran.due ≤ d.due)) :=
  ⟨⟨upReports [sentRecord 3], sentRecord 3, by decide, by decide, by decide, .inr (by decide), by decide⟩,
    ⟨upReports [sentRecord 4], sentRecord 4, by decide, by decide, by decide, .inr (by decide), by decide⟩,
    ⟨upReports [laterRecord, sentRecord 4, sentRecord 3], laterRecord, sentRecord 4, sentRecord 3, by decide, by decide, by decide,
      .inr (by decide), by decide, by decide, by rintro d ⟨⟩; decide, by decide, by decide, by rintro d ⟨⟩; decide⟩⟩

theorem witness_FaultReadAnswers :
    (∃ (s : State) (x : FaultRecord), NothingToGrant s ∧ s.faults.ring = [] ++ x :: [] ∧ x.number = 2) ∧
    (∃ s : State, NothingToGrant s ∧ ∀ y ∈ s.faults.ring, y.number ≠ 2) :=
  ⟨⟨up.setFaults ⟨[keptFault 2], none, 3⟩, keptFault 2, .inr (by decide), by decide, by decide⟩, ⟨up, .inr (by decide), by decide⟩⟩

theorem witness_TableLoadRequests :
    (∃ (r : Req) (s : State), s.supply.restoreMark = true ∧ s.remoteRefused r = false ∧ NothingToGrant s ∧ s.store.buffer.state = .empty ∧
      s.store.locked 14 = false ∧ lengthFits 14 70 = true) ∧
    (∃ (r : Req) (s : State), s.supply.restoreMark = true ∧ s.remoteRefused r = false ∧ NothingToGrant s ∧ s.store.buffer.state = .loading ∧
      s.store.buffer.origin = r.origin ∧ ([1, 2] : List Word) ≠ [] ∧ 8 + 2 ≤ s.store.buffer.length) ∧
    (NothingToGrant State.reset ∧ State.reset.supply.restoreMark = false) ∧
    (NothingToGrant (remoteOff up) ∧ (remoteOff up).supply.restoreMark = true ∧ (remoteOff up).remoteRefused radio = true) ∧
    (14 < (15 : Byte).toNat ∧ (14 : Byte).toNat ≤ 14 ∧ 48 < (List.replicate 49 (0 : Word)).length) ∧
    (up.supply.restoreMark = true ∧ NothingToGrant up ∧ up.store.buffer.state = .empty ∧ up.store.locked 14 = true) ∧
    (∃ s : State, s.supply.restoreMark = true ∧ NothingToGrant s ∧ s.store.buffer.state = .empty ∧ s.store.locked 14 = false ∧
      lengthFits 14 71 = false) ∧
    (∃ s : State, s.supply.restoreMark = true ∧ NothingToGrant s ∧ s.store.buffer.state = .loading ∧ s.store.buffer.origin ≠ radio.origin ∧
      s.remoteRefused radio = false ∧ s.store.buffer.length < 255 + 1) :=
  ⟨⟨panel, up.setStore { up.store with locks := List.replicate 15 false }, by decide, by decide, .inr (by decide), by decide, by decide,
      by decide⟩,
    ⟨panel, upBuffer (loadOf 7), by decide, by decide, .inr (by decide), by decide, by decide, by decide, by decide⟩,
    by decide, by decide, by decide, by decide,
    ⟨up.setStore { up.store with locks := List.replicate 15 false }, by decide⟩, ⟨upBuffer (loadOf 7), by decide⟩⟩

/-- A load with a word not written, and one with a word out of range. -/
def gapLoad : StagingBuffer := { loadOf 3 with mask := (loadOf 3).mask.set 39 false }
def badLoad : StagingBuffer := { loadOf 3 with image := romGroup.set 0 9 }

/-- A load of a UNIT table with the other nominal frequency, and of a BATTERY table with the least capacity and limit and no test
interval. -/
def otherFrequencyLoad : StagingBuffer :=
  { loadOf 1 with image := romUnit.set 0 (if nominalFrequency romUnit = 50 then 60 else 50) }
def smallBatteryLoad : StagingBuffer := { loadOf 2 with image := ((romBattery.set 0 10).set 1 100).set 11 0 }

theorem witness_TableCommitOutcomes :
    (∀ b ∈ [gapLoad, badLoad, loadOf 1, otherFrequencyLoad, loadOf 2, smallBatteryLoad, loadOf 3, loadOf 14],
      (upBuffer b).supply.restoreMark = true ∧ (upBuffer b).remoteRefused panel = false ∧ b.state = .loading ∧
      b.origin = panel.origin ∧ NothingToGrant (upBuffer b) ∧ (upBuffer b).sequenceRests = true ∧ (upBuffer b).battery.testState = .idle) ∧
    gapLoad.unwritten = some 39 ∧ (badLoad.unwritten = none ∧ firstInvalid badLoad.table badLoad.image = some 0) ∧
    (∀ b ∈ [loadOf 1, otherFrequencyLoad, loadOf 2, smallBatteryLoad, loadOf 3, loadOf 14],
      b.unwritten = none ∧ firstInvalid b.table b.image = none) ∧
    ((loadOf 1).table = 1 ∧ (loadOf 2).table = 2 ∧ (loadOf 3).table ≠ 1 ∧ (loadOf 3).table ≠ 2) ∧
    (nominalFrequency (after (.tableCommit panel) (upBuffer otherFrequencyLoad)).unit ≠ nominalFrequency up.unit ∧ up.streamLive = true) ∧
    (let s := (upBuffer smallBatteryLoad).setBattery { up.battery with charge := .bulk, q := qMax up.batteryTable }
     let t := after (.tableCommit panel) s
     t.battery.q < s.battery.q ∧ testInterval t.batteryTable = 0 ∧ t.chargerContent ≠ s.battery.sent) ∧
    (((upBuffer (loadOf 14)).setSeq { up.seq with state := .reclaim }).sequenceRests = false) ∧
    ((NothingToGrant State.reset ∧ State.reset.supply.restoreMark = false) ∧
      (NothingToGrant (remoteOff up) ∧ (remoteOff up).supply.restoreMark = true ∧ (remoteOff up).remoteRefused radio = true) ∧
      (NothingToGrant up ∧ up.remoteRefused panel = false ∧ up.store.buffer.state ≠ .loading)) :=
  ⟨by decide, by decide, by decide, by decide, by decide, by decide, by decide, by decide, by decide⟩

theorem witness_TableAbortOutcomes :
    (∃ s : State, s.supply.restoreMark = false ∧ NothingToGrant s) ∧
    (∃ s : State, s.supply.restoreMark = true ∧ NothingToGrant s ∧ s.store.buffer.state = .empty) ∧
    (∃ s : State, s.supply.restoreMark = true ∧ NothingToGrant s ∧ s.store.buffer.state = .pending ∧ s.store.buffer.origin = panel.origin) ∧
    (∃ s : State, s.supply.restoreMark = true ∧ NothingToGrant s ∧ s.store.buffer.state = .loading ∧ s.store.buffer.origin ≠ radio.origin) :=
  ⟨⟨State.reset, by decide⟩, ⟨up, by decide, .inr (by decide), by decide⟩,
    ⟨upBuffer { loadOf 3 with state := .pending }, by decide, .inr (by decide), by decide, by decide⟩,
    ⟨upBuffer (loadOf 3), by decide, .inr (by decide), by decide, by decide⟩⟩

theorem witness_TableReadWraps :
    (∃ (id o n : Byte) (s : State), s.supply.restoreMark = true ∧ n.toNat ≤ 48 ∧ NothingToGrant s ∧ id.toNat ≤ 14 ∧
      o.toNat < (s.table id.toNat).length ∧ n ≠ 0) ∧
    (∃ (id o n : Byte) (s : State), s.supply.restoreMark = true ∧ n.toNat ≤ 48 ∧ NothingToGrant s ∧
      (s.table id.toNat).length ≤ o.toNat ∧ n ≠ 0 ∧ id.toNat ≤ 14) :=
  ⟨⟨14, 9, 48, up, by decide, by decide, .inr (by decide), by decide, by decide, by decide⟩,
    ⟨14, 10, 1, up, by decide, by decide, .inr (by decide), by decide, by decide, by decide⟩⟩

/-- `up` with a write in flight. -/
def writing (j : NvJob) : State := up.setStore { up.store with inFlight := some j, writeTimer := some ran, recordTimer := some ran }

theorem witness_StoreTimersEnd :
    (∃ s : State, s.store.buffer.timer = some ran ∧ NothingToGrant s) ∧
    (∃ s : State, s.store.recordTimer = some ran ∧ s.arbiterIdle = true) ∧
    (∃ s : State, s.store.recordTimer = some ran ∧ s.store.inFlight.isSome = true) :=
  ⟨⟨upBuffer (loadOf 3), by decide, .inr (by decide)⟩, ⟨up.setStore { up.store with recordTimer := some ran }, by decide⟩,
    ⟨writing (.table 3 romGroup), by decide⟩⟩

theorem witness_WritesComplete :
    (∃ s : State, s.store.writeTimer = some ran ∧ s.store.inFlight = some (.record up.stateRecord ⟨true, false, false⟩)) ∧
    (∃ s : State, s.store.writeTimer = some ran ∧ s.store.inFlight = some (.table 3 romGroup) ∧ s.store.buffer.request = none) ∧
    (∃ s : State, s.store.writeTimer = some ran ∧ s.store.inFlight = some (.table 3 romGroup) ∧ s.store.buffer.request = some radio) :=
  ⟨⟨writing (.record up.stateRecord ⟨true, false, false⟩), by decide⟩, ⟨writing (.table 3 romGroup), by decide⟩,
    ⟨(writing (.table 3 romGroup)).setBuffer { emptyBuffer with request := some radio }, by decide⟩⟩

theorem witness_ActiveTablesStayValid : ∃ s t : State, TablesValid s ∧ BufferSound s ∧ s.store.buffer.state = .loading ∧ step s = .next t :=
  ⟨upBuffer (loadOf 3), (upBuffer (loadOf 3)).tick,
    ⟨by decide, fun id h1 h2 => by interval_cases id <;> decide⟩, by unfold BufferSound; decide, by decide, rfl⟩

theorem witness_ArbiterStaysSound : ∃ s t : State, ArbiterSound s ∧ s.store.inFlight.isSome = true ∧ step s = .next t :=
  ⟨tagWriting (tag7 .placing .writing), (tagWriting (tag7 .placing .writing)).tick,
    ⟨by decide, by constructor <;> intro _ <;> first | exact ⟨[], rfl⟩ | decide, by decide⟩, by decide, rfl⟩

theorem witness_SelectHoldsSlot :
    (∃ (r : Req) (tg : Target) (s : State), NothingToGrant s ∧ s.remoteRefused r = false ∧ s.cmd.slot = none ∧ tg = .close ∧
      s.partialPermission = none) ∧
    (∃ s : State, NothingToGrant s ∧ s.cmd.selectTimer = some ran) ∧ 3 ≤ (3 : Byte).toNat ∧
    (∃ s : State, NothingToGrant s ∧ s.remoteRefused radio = true) ∧
    (∃ (s : State) (sel : Selection), NothingToGrant s ∧ s.remoteRefused radio = false ∧ s.cmd.slot = some sel ∧ sel.origin ≠ radio.origin) ∧
    (∃ s : State, NothingToGrant s ∧ s.remoteRefused panel = false ∧ s.cmd.slot = none ∧ s.partialPermission = some .position) :=
  ⟨⟨panel, .close, openIn .lockout, by decide⟩, ⟨upSelected .opened, by decide⟩, by decide, ⟨remoteOff up, by decide⟩,
    ⟨upSelected .opened, ⟨.panel, .opened, 3⟩, by decide⟩, ⟨up, by decide⟩⟩

theorem witness_OperateOpenTrips :
    (∃ (r : Req) (s : State), s.remoteRefused r = false ∧ s.cmd.slot = some ⟨r.origin, .opened, 3⟩ ∧ NothingToGrant s ∧
      s.seq.state = .lockout) ∧
    (∃ (r : Req) (s : State), s.remoteRefused r = false ∧ s.cmd.slot = some ⟨r.origin, .opened, 3⟩ ∧ NothingToGrant s ∧
      s.seq.state = .idle ∧ s.act.latch = false ∧ s.act.trip = false ∧ s.act.close = false ∧ s.act.supervision = .none ∧
      s.sample.view ≠ .opened ∧ s.nothingPending) ∧
    (∀ q ∈ [SeqState.init, .idle, .timing, .reclaim, .tripping, .dead, .closing, .lockout, .mechFail],
      let s := (upSelected .opened).setSeq { up.seq with state := q }
      s.seq.state = q ∧ s.cmd.slot = some ⟨panel.origin, .opened, 3⟩ ∧ s.remoteRefused panel = false ∧ NothingToGrant s ∧
      s.seq.pendingGroup = none ∧ s.nothingPending ∧ s.act.latch = false ∧ s.act.trip = false ∧ s.act.supervision = .none ∧
      s.sample.view ≠ .opened ∧ s.seq.tripRequested = false) ∧
    (let s := ((upSelected .opened).setSeq { up.seq with state := .closing }).setAct { up.act with supervision := .closeWait }
     s.seq.state = .closing ∧ s.cmd.slot = some ⟨panel.origin, .opened, 3⟩ ∧ s.remoteRefused panel = false ∧ NothingToGrant s ∧
     s.seq.tripRequested = false ∧ s.act.latch = false ∧ s.act.trip = false ∧ s.act.close = false ∧ s.act.supervision = .closeWait ∧ s.sample.view ≠ .opened) ∧
    (let s := ((upSelected .opened).setSeq { up.seq with state := .closing }).setAct { up.act with close := true }
     s.seq.state = .closing ∧ s.cmd.slot = some ⟨panel.origin, .opened, 3⟩ ∧ s.remoteRefused panel = false ∧ NothingToGrant s ∧
     s.seq.tripRequested = false ∧ s.act.latch = false ∧ s.act.trip = false ∧ s.act.close = true) :=
  ⟨⟨panel, (upSelected .opened).setSeq { up.seq with state := .lockout }, by decide, by decide, .inr (by decide), by decide⟩,
    ⟨panel, upSelected .opened, by decide, by decide, .inr (by decide), by decide⟩, by decide, by decide, by decide⟩

/-- LOCKOUT, switch open, a CLOSE selection held. -/
def toClose : State :=
  ((upSelected .close).setSeq { up.seq with state := .lockout }).setSample { up.sample with view := .opened }

theorem witness_OperateCloseCloses :
    (∃ s : State, s.remoteRefused panel = false ∧ s.cmd.slot = some ⟨panel.origin, .close, 3⟩ ∧ NothingToGrant s ∧ s.seq.state ≠ .lockout) ∧
    (∃ s : State, s.remoteRefused panel = false ∧ s.cmd.slot = some ⟨panel.origin, .close, 3⟩ ∧ NothingToGrant s ∧
      s.seq.state = .lockout ∧ s.act.deferred = none ∧ s.act.trip = false ∧ s.permission = none) ∧
    (∃ s : State, s.remoteRefused panel = false ∧ s.cmd.slot = some ⟨panel.origin, .close, 3⟩ ∧ NothingToGrant s ∧
      s.seq.state = .lockout ∧ s.act.deferred = none ∧ s.act.trip = false ∧ s.permission = some .tag) ∧
    (∃ s : State, s.remoteRefused panel = false ∧ s.cmd.slot = some ⟨panel.origin, .close, 3⟩ ∧ NothingToGrant s ∧
      s.seq.state = .lockout ∧ s.act.deferred = none ∧ s.act.trip = true) :=
  ⟨⟨upSelected .close, by decide, by decide, .inr (by decide), by decide⟩, ⟨toClose, by decide, by decide, .inr (by decide), by decide⟩,
    ⟨toClose.setTags fullTags.tags, by decide, by decide, .inr (by decide), by decide⟩,
    ⟨toClose.setAct { up.act with trip := true }, by decide, by decide, .inr (by decide), by decide⟩⟩

theorem witness_OperateRestartOrNothing :
    (∃ s : State, NothingToGrant s ∧ s.remoteRefused panel = false ∧ s.cmd.slot = some ⟨panel.origin, .restart, 3⟩) ∧
    (∃ s : State, NothingToGrant s ∧ ∀ sel, s.cmd.slot = some sel → sel.origin = panel.origin → sel.token ≠ 4) :=
  ⟨⟨upSelected .restart, .inr (by decide), by decide, by decide⟩,
    ⟨upSelected .restart, .inr (by decide), fun sel h _ => by cases h; decide⟩⟩

theorem witness_ReadAndTimeRequests :
    (∃ s : State, NothingToGrant s ∧ testInterval s.batteryTable ≠ 0) ∧
    (∃ s : State, NothingToGrant s ∧ (s.setCmd { s.cmd with seconds := 9 }).testDue = true ∧ (s.setCmd { s.cmd with seconds := 9 }).testReady = true) :=
  ⟨⟨up, by decide⟩, ⟨upFloat, by decide⟩⟩

theorem witness_MalformedInputsCounted :
    (∃ s : State, NothingToGrant s) ∧
    (∃ (f : SampleFrame) (s : State), s.sample.stream = .valid ∧ s.sample.expected = some 7 ∧ seqDelta f.seq 7 = 128 ∧ NothingToGrant s) ∧
    (∃ (f : SampleFrame) (s : State), s.sample.stream = .filling ∧ s.sample.expected = some 7 ∧ seqDelta f.seq 7 = 255 ∧ NothingToGrant s) ∧
    (∃ (f : CabinetFrame) (s : State), s.supply.lastSeq = some 9 ∧ s.supply.freshness = .fresh ∧ f.seq = 9 ∧ NothingToGrant s) ∧
    (∃ (f : CabinetFrame) (s : State), s.supply.lastSeq = some 9 ∧ s.supply.freshness = .fresh ∧ seqDelta f.seq 9 = 128 ∧ NothingToGrant s) :=
  ⟨⟨State.reset, .inr (by decide)⟩,
    ⟨closedFrame 135 0, up, by decide, by decide, by decide, .inr (by decide)⟩,
    ⟨closedFrame 6 0, up.setSample { up.sample with stream := .filling }, by decide, by decide, by decide, .inr (by decide)⟩,
    ⟨cabinet 9 0, up, by decide, by decide, by decide, .inr (by decide)⟩,
    ⟨cabinet 137 0, up, by decide, by decide, by decide, .inr (by decide)⟩⟩

/-- `up` with an operated RESTART waiting. -/
def restarting : State := up.setCmd { up.cmd with restartMark := true, restartAfter := some 0 }

theorem witness_ResetsClearActuatorAndLog : ∃ s : State, s.restartReady = true ∧ s.supply ≠ bootSupply := ⟨restarting, by decide⟩

theorem witness_ResetsDiffer :
    (∃ s : State, s.cmd.restartMark = true ∧ s.arbiterIdle = true ∧ s.cmd.restartAfter = some 0) ∧
    (∃ s : State, s.cmd.restartMark = false) ∧
    (∃ s : State, s.cmd.restartMark = true ∧ s.arbiterIdle = true ∧ s.cmd.restartAfter = some 1) :=
  ⟨⟨restarting, by decide⟩, ⟨up, by decide⟩, ⟨up.setCmd { up.cmd with restartMark := true, restartAfter := some 1 }, by decide⟩⟩

/-- The reset state with images of the state record and of the tags in the NV array. -/
def withImages (r : StateRecord) (tags : List TagImageRecord) : State :=
  State.reset.setStore { State.reset.store with nv := { blankNv with record := .good r, tags := .good tags } }

/-- A state record with its codes at the top of their ranges, and six distinct tags. -/
def topRecord : StateRecord := { group := 3, q := 5000, lastResult := 3, lastTime := none, health := 2, failCount := 255 }
def sixTags : List TagImageRecord := [1, 2, 3, 4, 5, 65535].map fun c => ⟨c, 1, .radio, 9⟩

/-- What the statement of the restore asks of a state, with nothing under way. -/
abbrev restoreReady (s : State) : Prop :=
  s.store.restoreTimer = some ⟨600, 600⟩ ∧ s.store.tables.length = 15 ∧ s.nothingPending ∧ s.seq.pendingGroup = none ∧
  s.battery.testState = .idle

theorem witness_RestorePutsImages :
    (∃ s : State, restoreReady s ∧ s.seq.state = .init ∧ s.sample.stream ≠ .valid ∧ s.act.close = false ∧
      s.supply.lastSeq = none) ∧
    (∃ s : State, restoreReady s ∧ s.store.nv.record = .good topRecord ∧ topRecord.group.toNat < 4 ∧ topRecord.health.toNat < 3 ∧
      topRecord.lastResult.toNat < 4 ∧ s.store.nv.tags = .good sixTags ∧ sixTags.length ≤ 6 ∧
      (∀ x ∈ sixTags, x.crew ≠ 0 ∧ x.kind.toNat ≤ 1) ∧ (sixTags.map TagImageRecord.crew).Nodup) ∧
    (∃ s : State, restoreReady s ∧ s.store.nv.record = .good { topRecord with group := 4 } ∧
      s.store.nv.tags = .good (sixTags ++ [⟨9, 0, .panel, 0⟩])) ∧
    (∃ s : State, restoreReady s ∧ s.supply.power = .start ∧ s.supply.lastSeq.isSome = true) :=
  ⟨⟨State.reset, by decide⟩, ⟨withImages topRecord sixTags, by decide⟩,
    ⟨withImages { topRecord with group := 4 } (sixTags ++ [⟨9, 0, .panel, 0⟩]), by decide⟩,
    ⟨State.reset.setSupply { bootSupply with lastSeq := some 0 }, by decide⟩⟩

theorem witness_InboundFramesRoundTrip :
    (∃ (i : Instr) (payload : List Byte), WellFormed i = true ∧ requestPayload i = some payload) ∧
    (∃ (i : Instr) (payload : List Byte), WellFormed i = true ∧ requestPayload i = some payload ∧ payload.length = 101) :=
  ⟨⟨.badRequest panel 19 [], [1, 5, 19], by decide, by decide⟩,
    ⟨.tableData panel 0 (List.replicate 48 0x7E7D), _, by decide, rfl, by decide⟩⟩

end Sys2Proof.Tests
end

