-- ==== Sys2Proof/Proofs/OvercurrentElements.lean ====
section
/-! The arithmetic of one evaluation of the overcurrent elements (spec/02): the multiple of pickup, an accumulator's three
cases, the high-set counters and the hot-line flag, and the unit put together from them. -/

namespace Sys2Proof.Machine

/-! ## The multiple of pickup (R22) -/

theorem multiple_le (irms peff : Nat) : multiple irms peff ≤ 640 := Nat.min_le_left _ _

/-- At 40 times the pickup and beyond, the multiple is the limit. -/
theorem multiple_of_limit_le {irms peff : Nat} (hp : 0 < peff) (h : 640 * peff ≤ 16 * irms) : multiple irms peff = 640 :=
  Nat.min_eq_left ((Nat.le_div_iff_mul_le hp).2 h)

/-- Below the limit the multiple is the truncated quotient. -/
theorem multiple_of_lt_limit {irms peff : Nat} (hp : 0 < peff) (h : 16 * irms < 640 * peff) :
    multiple irms peff = 16 * irms / peff :=
  Nat.min_eq_right ((Nat.div_lt_iff_lt_mul hp).2 h).le

/-- The truncated quotient in terms of products. -/
theorem multiple_bounds {irms peff : Nat} (hp : 0 < peff) (h : 16 * irms < 640 * peff) :
    multiple irms peff * peff ≤ 16 * irms ∧ 16 * irms < (multiple irms peff + 1) * peff := by
  rw [multiple_of_lt_limit hp h]
  exact ⟨Nat.div_mul_le_self _ _, Nat.lt_mul_of_div_lt (Nat.lt_succ_self _) hp⟩

/-! ## The pickup state and an accumulator (R23, R25, R27) -/

theorem nextPicked_of_ge (picked : Bool) {m : Nat} (h : 16 ≤ m) : nextPicked picked m = true := by
  simp [nextPicked, h]

theorem nextPicked_of_le (picked : Bool) {m : Nat} (h : m ≤ 14) : nextPicked picked m = false := by
  have h16 : ¬ 16 ≤ m := by omega
  have h15 : m ≠ 15 := by omega
  simp [nextPicked, h16, h15]

/-- A multiple of 15 lies in the hysteresis of the pickup. -/
@[simp] theorem nextPicked_fifteen (picked : Bool) : nextPicked picked 15 = picked := by simp [nextPicked]

/-- The pickup state is the new one in every case of the update. -/
@[simp] theorem Accumulator.step_picked (a : Accumulator) (curve : Table) (m : Nat) :
    (a.step curve m).picked = nextPicked a.picked m := by
  unfold Accumulator.step
  split
  case isTrue h => split <;> exact h.symm
  case isFalse h => exact (Bool.eq_false_iff.2 h).symm

/-- At the pickup or above it the accumulator runs. -/
theorem Accumulator.step_of_ge (a : Accumulator) (curve : Table) {m : Nat} (h : 16 ≤ m) :
    a.step curve m =
      ⟨min fullScale (a.value + rateAt (curvePoints curve) m), true, min 65535 (a.count + 1)⟩ := by
  simp [Accumulator.step, nextPicked_of_ge, h]

/-- In the hysteresis a PICKED accumulator holds. -/
theorem Accumulator.step_hold {a : Accumulator} (curve : Table) (hp : a.picked = true) : a.step curve 15 = a := by
  cases a
  simp_all [Accumulator.step]

/-- An accumulator that is DROPPED after the evaluation is reset. -/
theorem Accumulator.step_of_dropped {a : Accumulator} (curve : Table) {m : Nat} (h : nextPicked a.picked m = false) :
    a.step curve m = ⟨resetValue curve a.value, false, 0⟩ := by
  simp [Accumulator.step, h]

/-! ## The instantaneous elements (R30, R32) -/

theorem EvalInput.highSetOver_anyPhase (i : EvalInput) :
    i.highSetOver.anyPhase = true ↔ phaseHighSet i.group ≠ 0 ∧
      (phaseHighSet i.group ≤ i.mags.a ∨ phaseHighSet i.group ≤ i.mags.b ∨ phaseHighSet i.group ≤ i.mags.c) := by
  simp [EvalInput.highSetOver, Currents.anyPhase, atOrAbove, and_or_left, or_assoc]

theorem EvalInput.highSetOver_n (i : EvalInput) :
    i.highSetOver.n = true ↔ groundHighSet i.group ≠ 0 ∧ groundHighSet i.group ≤ i.mags.n := by
  simp [EvalInput.highSetOver, atOrAbove]

theorem EvalInput.hotOver_any (i : EvalInput) :
    i.hotOver.any = true ↔ i.hotLine = true ∧
      (hotLinePhase i.group ≤ i.mags.a ∨ hotLinePhase i.group ≤ i.mags.b ∨ hotLinePhase i.group ≤ i.mags.c ∨
        hotLineGround i.group ≤ i.mags.n) := by
  simp [EvalInput.hotOver, Currents.any, atOrAbove, and_or_left, or_assoc]

/-! ## The unit after an evaluation -/

@[simp] theorem OvercurrentUnit.stepped_accs (u : OvercurrentUnit) (i : EvalInput) : (u.stepped i).accs = u.steppedAccs i := rfl
@[simp] theorem OvercurrentUnit.stepped_hotLineOver (u : OvercurrentUnit) (i : EvalInput) :
    (u.stepped i).hotLineOver = i.hotOver.any := rfl
@[simp] theorem OvercurrentUnit.stepped_coldOpen (u : OvercurrentUnit) (i : EvalInput) : (u.stepped i).coldOpen = u.coldOpen := rfl
@[simp] theorem OvercurrentUnit.stepped_coldTimer (u : OvercurrentUnit) (i : EvalInput) : (u.stepped i).coldTimer = u.coldTimer := rfl

/-- The unit is active exactly while some element of the updated unit is out of its idle state. -/
theorem OvercurrentUnit.stepped_active (u : OvercurrentUnit) (i : EvalInput) : (u.stepped i).active = (u.stepped i).anyOut := rfl

theorem OvercurrentUnit.stepped_highSetPhase (u : OvercurrentUnit) (i : EvalInput) :
    (u.stepped i).highSetPhase =
      (if phaseHighSet i.group ≠ 0 ∧
          (phaseHighSet i.group ≤ i.mags.a ∨ phaseHighSet i.group ≤ i.mags.b ∨ phaseHighSet i.group ≤ i.mags.c) then
        min 255 (u.highSetPhase + 1) else 0) := by
  have hstep : (u.stepped i).highSetPhase = highSetStep u.highSetPhase (phaseHighSet i.group) i.highSetOver.anyPhase := rfl
  simp only [hstep, highSetStep, i.highSetOver_anyPhase, and_self_left]

theorem OvercurrentUnit.stepped_highSetGround (u : OvercurrentUnit) (i : EvalInput) :
    (u.stepped i).highSetGround =
      (if groundHighSet i.group ≠ 0 ∧ groundHighSet i.group ≤ i.mags.n then min 255 (u.highSetGround + 1) else 0) := by
  have hstep : (u.stepped i).highSetGround = highSetStep u.highSetGround (groundHighSet i.group) i.highSetOver.n := rfl
  simp only [hstep, highSetStep, i.highSetOver_n, and_self_left]

/-- The unit has nothing out exactly when each of its elements is idle (R35). -/
theorem OvercurrentUnit.anyOut_eq_false (u : OvercurrentUnit) :
    u.anyOut = false ↔
      u.accs.a.picked = false ∧ u.accs.b.picked = false ∧ u.accs.c.picked = false ∧ u.accs.n.picked = false ∧
        u.highSetPhase = 0 ∧ u.highSetGround = 0 ∧ u.hotLineOver = false := by
  simp [OvercurrentUnit.anyOut, and_assoc]

/-- Settles O12: each clause is the rule of one operation of the evaluation. -/
theorem elementsAfterEvaluation : Obligations.ElementsAfterEvaluation := by
  unfold Obligations.ElementsAfterEvaluation
  refine ⟨fun irms peff hp => ?multiple, fun a curve m => ?pickup, fun a curve m => ?accumulator, fun u i => ?unit⟩
  case multiple => exact ⟨multiple_le irms peff, multiple_bounds hp, multiple_of_limit_le hp⟩
  case pickup =>
    rw [a.step_picked]
    refine ⟨nextPicked_of_ge _, nextPicked_of_le _, ?_⟩
    rintro rfl
    exact nextPicked_fifteen _
  case accumulator =>
    refine ⟨fun h => ?_, ?_, fun h => ?_⟩
    · rw [a.step_of_ge curve h]
      exact ⟨rfl, rfl⟩
    · rintro rfl hp
      exact Accumulator.step_hold curve hp
    · have hdrop : nextPicked a.picked m = false := by
        rcases h with h | ⟨rfl, hp⟩
        · exact nextPicked_of_le _ h
        · rw [nextPicked_fifteen, hp]
      rw [Accumulator.step_of_dropped curve hdrop]
      exact ⟨rfl, rfl⟩
  case unit =>
    refine ⟨u.stepped_accs i, u.stepped_highSetPhase i, u.stepped_highSetGround i, ?_, ?_, u.stepped_coldOpen i, u.stepped_coldTimer i⟩
    · rw [u.stepped_hotLineOver i, i.hotOver_any]
    · rw [u.stepped_active i, OvercurrentUnit.anyOut_eq_false]

end Sys2Proof.Machine
end

