-- ==== Sys2Proof/Proofs/Resets.lean ====
section
/-! The two resets (R167, R178): the boot state that each of them arrives at, and what that state holds in the Actuator
Control (R87), the Fault Log (R154) and the report queue (R139). -/

namespace Sys2Proof.Machine

/-! ## What the two commands do -/

/-- A POWER_ON resets in every state; a write in flight is lost with its image. -/
theorem exec_powerOn (s : State) :
    exec .powerOn s =
      .next (bootState .powerOn (s.store.nv.interrupted s.store.inFlight) 0 none s.free s.pending) := by rfl

/-- A RESTART that is ready resets, keeping the NV array and the seconds counter and holding Q aside. -/
theorem exec_restart_of_ready {s : State} (h : s.restartReady = true) :
    exec .restart s =
      .next (bootState .restart s.store.nv s.cmd.seconds (some s.battery.aside) s.free s.pending) :=
  if_pos h

/-- Either reset arrives at a boot state, whatever the state before it. -/
theorem exec_reset_boots {i : Instr} {s : State} (h : i = .powerOn ∨ i = .restart ∧ s.restartReady = true) :
    ∃ kind nv seconds held, exec i s = .next (bootState kind nv seconds held s.free s.pending) := by
  rcases h with rfl | ⟨rfl, hready⟩
  · exact ⟨_, _, _, _, exec_powerOn s⟩
  · exact ⟨_, _, _, _, exec_restart_of_ready hready⟩

/-! ## What a boot state holds -/

section
variable (kind : ResetKind) (nv : NvArray) (seconds : Long) (held : Option Nat) (free : Nat) (pending : List Instr)

@[simp] theorem bootState_act : (bootState kind nv seconds held free pending).act = bootActuator := (rfl)
@[simp] theorem bootState_faults : (bootState kind nv seconds held free pending).faults = bootFaultLog := (rfl)
@[simp] theorem bootState_reports : (bootState kind nv seconds held free pending).reports = bootReports kind seconds := (rfl)

/-- The queue after a reset holds the START report alone (R139). -/
@[simp] theorem mem_bootReports (x : Report) : x ∈ (bootReports kind seconds).records ↔ x = startReport kind seconds :=
  List.mem_singleton

/-- The START report is no FAULT report. -/
theorem startReport_body_ne_fault (f : FaultRecord) : (startReport kind seconds).body ≠ .fault f := by
  rintro ⟨⟩

end

/-- Settles O56: both resets arrive at a boot state, whose Actuator Control, Fault Log and queue are the reset values. -/
theorem resetsClearActuatorAndLog : Obligations.ResetsClearActuatorAndLog := by
  unfold Obligations.ResetsClearActuatorAndLog
  intro i s hreset
  obtain ⟨kind, nv, seconds, held, hboot⟩ := exec_reset_boots hreset
  refine ⟨_, hboot, ?_⟩
  simp only [bootState_act, bootState_faults, bootState_reports, mem_bootReports, forall_eq]
  exact ⟨rfl, rfl, rfl, rfl, rfl, rfl, rfl, rfl, rfl, rfl, rfl, rfl, rfl, startReport_body_ne_fault kind seconds⟩

end Sys2Proof.Machine
end

