-- ==== Sys2Proof/Proofs/ReportAckFaultRead.lean ====
section
/-! The two requests that look a record up by its number (spec/08): REPORT_ACK in the report queue (R144) and FAULT_READ in
the ring of kept fault records (R153). -/

namespace Sys2Proof.Machine

/-! ## An answer that asks nothing of the arbiter -/

/-- A change outside the Tag Table and the Table Store gives the arbiter nothing to grant. -/
theorem NothingToGrant.of_arrays {s t : State} (h : NothingToGrant s) (hsame : SameArrays s t) : NothingToGrant t := by
  obtain ⟨htags, hstore⟩ := hsame
  exact h.of_eq (by rw [htags]) (by rw [hstore]) (by rw [hstore]) (by rw [hstore])

/-- With nothing to grant before, the grant after such a change leaves it as it is. -/
theorem State.grant_of_arrays {s t : State} (h : NothingToGrant s) (hsame : SameArrays s t) : t.grant = t :=
  t.grant_of_nothing (h.of_arrays hsame)

/-- A response changes the links alone. -/
theorem State.respond_onlyLinksAndCommand (s : State) (q : Req) (k : RequestKind) (c : ResultCode) (body : List Byte) :
    OnlyLinksAndCommand s (s.respond q k c body) := by
  simp [OnlyLinksAndCommand, SamePath, SameDrive, SamePower, SameLogs, SameArrays, SameClock]

/-! ## REPORT_ACK (R144) -/

@[simp] theorem requestCode_reportAck : requestCode .reportAck = 17 := (rfl)

theorem exec_reportAck (r : Req) (n : Word) (s : State) : exec (.reportAck r n) s = .next (s.acknowledge r n).grant := (rfl)

theorem State.acknowledge_sameArrays (s : State) (q : Req) (n : Word) : SameArrays s (s.acknowledge q n) := by
  simp [SameArrays]

theorem exec_reportAck_of_nothing {s : State} (r : Req) (n : Word) (h : NothingToGrant s) :
    exec (.reportAck r n) s = .next (s.acknowledge r n) := by
  rw [exec_reportAck, State.grant_of_arrays h (s.acknowledge_sameArrays r n)]

/-- Where a record has the number, the first one is taken out and the answer is OK. -/
theorem State.acknowledge_of_first {s : State} {before after : List Report} {x : Report} {n : Word} (q : Req)
    (hsplit : s.reports.records = before ++ x :: after) (hx : x.number = n) (hbefore : ∀ y ∈ before, y.number ≠ n) :
    s.acknowledge q n =
      (s.setReports { s.reports with records := before ++ after }).respond q .reportAck .ok [] := by
  have hany : s.reports.records.any (fun r => r.number == n) = true := by
    simp [hsplit, hx]
  have hremoved : updateFirst (fun r => r.number == n) (fun _ => none) s.reports.records = before ++ after := by
    rw [hsplit, updateFirst_append _ _ before x after (fun y hy => beq_false_of_ne (hbefore y hy)) (beq_iff_eq.2 hx)]
    simp
  rw [State.acknowledge, if_pos hany, hremoved]

/-- Where no record has the number, nothing is taken out and the answer is UNKNOWN_REPORT. -/
theorem State.acknowledge_of_absent {s : State} {n : Word} (q : Req) (h : ∀ y ∈ s.reports.records, y.number ≠ n) :
    s.acknowledge q n = s.respond q .reportAck .unknownReport [] := by
  have hany : ¬ s.reports.records.any (fun r => r.number == n) = true := by
    simpa using h
  rw [State.acknowledge, if_neg hany]

/-- Settles O39: the arbiter grants nothing after it, and the two clauses are the two branches of the acknowledgement. -/
theorem ackRemovesFirst : Obligations.AckRemovesFirst := by
  unfold Obligations.AckRemovesFirst
  intro r n s hgrant
  have hexec := exec_reportAck_of_nothing r n hgrant
  refine ⟨fun before x after hsplit hx hbefore => ?found, fun habsent => ?absent⟩
  case found =>
    rw [State.acknowledge_of_first r hsplit hx hbefore] at hexec
    refine ⟨_, hexec, ?_⟩
    simp [SamePath, SameDrive, SamePower, SameArrays, SameClock, Handed]
  case absent =>
    rw [State.acknowledge_of_absent r habsent] at hexec
    exact ⟨_, hexec, s.respond_links r _ _ _, s.respond_onlyLinksAndCommand r _ _ _, by simp⟩

/-! ## FAULT_READ (R153) -/

theorem exec_faultRead (r : Req) (n : Word) (s : State) :
    exec (.faultRead r n) s = .next ((s.cancelSlot r.origin).faultRead r n).grant := (rfl)

/-- FAULT_READ, with the end of a selection before it (R177), changes the links and the Command Unit alone. -/
theorem State.faultRead_cancelSlot_onlyLinksAndCommand (s : State) (o : Origin) (q : Req) (n : Word) :
    OnlyLinksAndCommand s ((s.cancelSlot o).faultRead q n) := by
  simp [OnlyLinksAndCommand, SamePath, SameDrive, SamePower, SameLogs, SameArrays, SameClock]

theorem exec_faultRead_of_nothing {s : State} (r : Req) (n : Word) (h : NothingToGrant s) :
    exec (.faultRead r n) s = .next ((s.cancelSlot r.origin).faultRead r n) := by
  obtain ⟨_, _, _, _, harrays, _⟩ := s.faultRead_cancelSlot_onlyLinksAndCommand r.origin r n
  rw [exec_faultRead, State.grant_of_arrays h harrays]

/-- The first kept record with the number is the one that is answered. -/
theorem State.faultRead_handed_of_first {s : State} {before after : List FaultRecord} {x : FaultRecord} {n : Word} (q : Req)
    (hsplit : s.faults.ring = before ++ x :: after) (hx : x.number = n) (hbefore : ∀ y ∈ before, y.number ≠ n) :
    Handed (responseFrame q.id 18 .ok (encFault x)) s (s.faultRead q n) := by
  have hfind : s.faults.ring.find? (fun r => r.number == n) = some x :=
    List.find?_eq_some_iff_append.2 ⟨beq_iff_eq.2 hx, before, after, hsplit, fun y hy => by simpa using hbefore y hy⟩
  rw [State.faultRead, hfind]
  exact s.respond_links q .faultRead .ok (encFault x)

theorem State.faultRead_handed_of_absent {s : State} {n : Word} (q : Req) (h : ∀ y ∈ s.faults.ring, y.number ≠ n) :
    Handed (responseFrame q.id 18 .unknownRecord []) s (s.faultRead q n) := by
  have hfind : s.faults.ring.find? (fun r => r.number == n) = none :=
    List.find?_eq_none.2 fun y hy => by simpa using h y hy
  rw [State.faultRead, hfind]
  exact s.respond_links q .faultRead .unknownRecord []

/-- The end of a selection leaves the links, so that an answer after it is one from the state before it. -/
theorem Handed.of_cancelSlot {frame : OutFrame} {s t : State} {o : Origin} (h : Handed frame (s.cancelSlot o) t) :
    Handed frame s t := by
  simpa [Handed] using h

/-- Settles O41: the ring is the one before the request, and the two clauses are the two outcomes of the search in it. -/
theorem faultReadAnswers : Obligations.FaultReadAnswers := by
  unfold Obligations.FaultReadAnswers
  intro r n s hgrant
  have hexec := exec_faultRead_of_nothing r n hgrant
  have honly := s.faultRead_cancelSlot_onlyLinksAndCommand r.origin r n
  have hring : (s.cancelSlot r.origin).faults.ring = s.faults.ring := by simp
  refine ⟨fun before x after hsplit hx hbefore => ?found, fun habsent => ?absent⟩
  case found =>
    have hanswer := State.faultRead_handed_of_first r (hring.trans hsplit) hx hbefore
    exact ⟨_, hexec, Handed.of_cancelSlot hanswer, honly⟩
  case absent =>
    rw [← hring] at habsent
    have hanswer := State.faultRead_handed_of_absent r habsent
    exact ⟨_, hexec, Handed.of_cancelSlot hanswer, honly⟩

end Sys2Proof.Machine
end

