-- ==== Sys2Proof/Proofs/TableRead.lean ====
section
/-! TABLE_READ (R163): the words that a read lists, and the two answers of the request once the restore is complete. -/

namespace Sys2Proof.Machine

/-! ## The words of a read -/

@[simp] theorem readWords_length (t : Table) (offset count : Nat) : (readWords t offset count).length = count := by
  simp [readWords]

/-- Word `k` of a read lies `k` words past the offset, counted around the end of the table. -/
theorem readWords_getElem (t : Table) (offset count : Nat) {k : Nat} (h : k < (readWords t offset count).length) :
    (readWords t offset count)[k] = wordAt t ((offset + k) % t.length) := by
  simp [readWords]

/-- The one-byte field of a byte's own value is that byte. -/
@[simp] theorem enc1_toNat (b : Byte) : enc1 b.toNat = [b] := by
  simp [enc1]

/-! ## The request -/

theorem State.tableReadRequest_of_inRange {s : State} {table offset count : Nat} (q : Req)
    (hrestored : s.supply.restoreMark = true) (htable : table ≤ 14) (hoffset : offset < (s.table table).length)
    (hpos : count ≠ 0) (hcount : count ≤ 48) :
    s.tableReadRequest q table offset count =
      s.respond q .tableRead .ok (enc1 count ++ (readWords (s.table table) offset count).flatMap encWord) := by
  have hinRange : ¬ (14 < table ∨ (s.table table).length ≤ offset ∨ count = 0 ∨ 48 < count) := by omega
  rw [State.tableReadRequest, hrestored, if_neg (by decide), if_neg hinRange]

theorem State.tableReadRequest_of_outOfRange {s : State} {table offset count : Nat} (q : Req)
    (hrestored : s.supply.restoreMark = true) (hout : 14 < table ∨ (s.table table).length ≤ offset ∨ count = 0) :
    s.tableReadRequest q table offset count = s.respond q .tableRead .outOfRange [] := by
  have houtOfRange : 14 < table ∨ (s.table table).length ≤ offset ∨ count = 0 ∨ 48 < count := by omega
  rw [State.tableReadRequest, hrestored, if_neg (by decide), if_pos houtOfRange]

/-! ## The command -/

theorem exec_tableRead (r : Req) (id o n : Byte) (s : State) :
    exec (.tableRead r id o n) s =
      .next ((s.cancelSlot r.origin).tableReadRequest r id.toNat o.toNat n.toNat).grant := (rfl)

/-- TABLE_READ, with the end of a selection before it (R177), changes the links and the Command Unit alone. -/
theorem State.tableReadRequest_cancelSlot_onlyLinksAndCommand (s : State) (org : Origin) (q : Req)
    (table offset count : Nat) : OnlyLinksAndCommand s ((s.cancelSlot org).tableReadRequest q table offset count) := by
  simp [OnlyLinksAndCommand, SamePath, SameDrive, SamePower, SameLogs, SameArrays, SameClock]

theorem exec_tableRead_of_nothing {s : State} (r : Req) (id o n : Byte) (h : NothingToGrant s) :
    exec (.tableRead r id o n) s = .next ((s.cancelSlot r.origin).tableReadRequest r id.toNat o.toNat n.toNat) := by
  obtain ⟨_, _, _, _, harrays, _⟩ :=
    s.tableReadRequest_cancelSlot_onlyLinksAndCommand r.origin r id.toNat o.toNat n.toNat
  rw [exec_tableRead, State.grant_of_arrays h harrays]

/-- The end of a selection leaves the active copies. -/
@[simp] theorem State.cancelSlot_table (s : State) (o : Origin) (id : Nat) : (s.cancelSlot o).table id = s.table id := by
  simp [State.table]

/-- Settles O45: the arbiter grants nothing after it, and the two clauses are the two answers of the request, made from the
tables before it. -/
theorem tableReadWraps : Obligations.TableReadWraps := by
  unfold Obligations.TableReadWraps
  intro r id o n s hmark hcount hgrant
  have hrestored : (s.cancelSlot r.origin).supply.restoreMark = true := by simpa using hmark
  refine ⟨_, exec_tableRead_of_nothing r id o n hgrant, fun hid hoffset hn => ?inRange, fun hout => ?outOfRange,
    s.tableReadRequest_cancelSlot_onlyLinksAndCommand r.origin r _ _ _⟩
  case inRange =>
    have hpos : n.toNat ≠ 0 := fun h => hn (BitVec.eq_of_toNat_eq h)
    rw [← s.cancelSlot_table r.origin] at hoffset
    refine ⟨readWords (s.table id.toNat) o.toNat n.toNat, readWords_length _ _ _, fun k => readWords_getElem _ _ _, ?_⟩
    rw [State.tableReadRequest_of_inRange r hrestored hid hoffset hpos hcount, enc1_toNat, s.cancelSlot_table r.origin]
    exact Handed.of_cancelSlot (State.respond_links _ r .tableRead .ok _)
  case outOfRange =>
    rw [← s.cancelSlot_table r.origin] at hout
    have hzero : n = 0 → n.toNat = 0 := fun h => by simp [h]
    rw [State.tableReadRequest_of_outOfRange r hrestored (hout.imp_right (Or.imp_right hzero))]
    exact Handed.of_cancelSlot (State.respond_links _ r .tableRead .outOfRange _)

end Sys2Proof.Machine
end

