-- ==== Sys2Proof/Proofs/Queue.lean ====
section
/-! The Report Queue: placing a record by its class, and what entering a report does to a full queue (R136, R138). -/

namespace Sys2Proof.Machine

/-! ## Placing (R136) -/

/-- Classes that do not rise from the front of a queue to its end. -/
abbrev ClassesFall (q : List Report) : Prop := q.Pairwise fun a b => b.cls ≤ a.cls

theorem place_nil (r : Report) : place r [] = [r] := rfl

theorem place_cons (r x : Report) (q : List Report) :
    place r (x :: q) = if r.cls ≤ x.cls then x :: place r q else r :: x :: q := by
  unfold place
  split
  · next h => simp [h]
  · next h => simp [h]

theorem ClassesFall.place {q : List Report} (r : Report) (h : ClassesFall q) : ClassesFall (place r q) := by
  induction q with
  | nil => simp [place_nil]
  | cons x q ih =>
    obtain ⟨hx, hq⟩ := List.pairwise_cons.1 h
    rw [place_cons]
    split
    · next hr =>
      refine List.pairwise_cons.2 ⟨fun y hy => ?_, ih hq⟩
      rcases List.mem_cons.1 ((place_perm r q).mem_iff.1 hy) with rfl | hy
      · exact hr
      · exact hx y hy
    · next hr =>
      refine List.pairwise_cons.2 ⟨fun y hy => ?_, h⟩
      rcases List.mem_cons.1 hy with rfl | hy
      · omega
      · have := hx y hy
        omega

/-! ## The victim of a full queue (R138) -/

theorem displaceable_iff (cls : Nat) (x : Report) : displaceable cls x = true ↔ x.state = .queued ∧ x.cls < cls := by
  simp [displaceable]

/-- The lowest class is that of a record which can be displaced, and no such record has a lower one. -/
theorem lowestClass_eq_some {cls c : Nat} {q : List Report} (h : lowestClass cls q = some c) :
    (∃ x ∈ q, displaceable cls x = true ∧ x.cls = c) ∧ ∀ x ∈ q, displaceable cls x = true → c ≤ x.cls := by
  obtain ⟨hmem, hle⟩ := List.min?_eq_some_iff.1 h
  constructor
  · obtain ⟨x, hx, rfl⟩ := List.mem_map.1 hmem
    obtain ⟨hq, hd⟩ := List.mem_filter.1 hx
    exact ⟨x, hq, hd, rfl⟩
  · exact fun x hx hd => hle _ (List.mem_map_of_mem (List.mem_filter.2 ⟨hx, hd⟩))

theorem lowestClass_eq_none {cls : Nat} {q : List Report} :
    lowestClass cls q = none ↔ ∀ x ∈ q, displaceable cls x = false := by
  simp [lowestClass, List.filter_eq_nil_iff]

/-- The victim is the first displaceable record of the lowest class, and the rest of the queue stays. -/
theorem withoutVictim_eq_some {cls : Nat} {q rest : List Report} (h : withoutVictim cls q = some rest) :
    ∃ before v after, q = before ++ v :: after ∧ rest = before ++ after ∧ displaceable cls v = true ∧
      (∀ x ∈ q, displaceable cls x = true → v.cls ≤ x.cls) ∧
      ∀ x ∈ before, ¬ (displaceable cls x = true ∧ x.cls = v.cls) := by
  obtain ⟨c, hc, rfl⟩ := Option.map_eq_some_iff.1 h
  obtain ⟨⟨x, hx, hd, hxc⟩, hle⟩ := lowestClass_eq_some hc
  obtain ⟨v, before, after, hbefore, hv, hq, hrest⟩ :=
    List.exists_of_eraseP (p := fun x => displaceable cls x && x.cls == c) hx (by simp [hd, hxc])
  obtain ⟨hvd, hvc⟩ : displaceable cls v = true ∧ v.cls = c := by simpa using hv
  refine ⟨before, v, after, hq, hrest, hvd, fun y hy hyd => hvc ▸ hle y hy hyd, fun y hy hyv => ?_⟩
  exact hbefore y hy (by simp [hyv.1, hyv.2, hvc])

theorem withoutVictim_eq_none {cls : Nat} {q : List Report} :
    withoutVictim cls q = none ↔ ∀ x ∈ q, displaceable cls x = false := by
  rw [← lowestClass_eq_none, withoutVictim, Option.map_eq_none_iff]

/-! ## Entering a report (R135, R137, R138) -/

/-- What entering a report does: a STATUS report renews the one that is there, a report finds room or takes a victim's place,
or it is dropped. -/
theorem ReportQueue.enter_cases (q : ReportQueue) (cls : Nat) (created : Long) (body : ReportBody) :
    (body.isStatus = true ∧ q.records.any (fun x => x.body.isStatus) = true ∧
        q.enter cls created body = ({ q with records := coalesce body created q.records }, none)) ∨
      ((body.isStatus && q.records.any fun x => x.body.isStatus) = false ∧
        ((q.records.length < 32 ∧ q.enter cls created body = (q.placed q.records cls created body, some q.nextNumber)) ∨
          (32 ≤ q.records.length ∧ ∃ rest, withoutVictim cls q.records = some rest ∧
            q.enter cls created body = (q.drop.placed rest cls created body, some q.nextNumber)) ∨
          (32 ≤ q.records.length ∧ withoutVictim cls q.records = none ∧ q.enter cls created body = (q.drop, none)))) := by
  unfold ReportQueue.enter
  split
  · next h => exact .inl ⟨(Bool.and_eq_true_iff.1 h).1, (Bool.and_eq_true_iff.1 h).2, rfl⟩
  · next h =>
    refine .inr ⟨Bool.eq_false_iff.2 h, ?_⟩
    split
    · next hlen => exact .inl ⟨hlen, rfl⟩
    · next hlen =>
      refine .inr ?_
      cases hv : withoutVictim cls q.records with
      | some rest => exact .inl ⟨Nat.le_of_not_lt hlen, rest, rfl, rfl⟩
      | none => exact .inr ⟨Nat.le_of_not_lt hlen, rfl, rfl⟩

/-- Renewing the STATUS record changes no class. -/
theorem coalesce_cls (body : ReportBody) (created : Long) (q : List Report) :
    (coalesce body created q).map Report.cls = q.map Report.cls := by
  unfold coalesce
  rw [List.map_map]
  refine List.map_congr_left fun x _ => ?_
  simp only [Function.comp_apply]
  split <;> rfl

/-- A queue whose records are sound. -/
abbrev RecordsSound (q : List Report) : Prop := q.length ≤ 32 ∧ ClassesFall q

theorem RecordsSound.enter {q : ReportQueue} (cls : Nat) (created : Long) (body : ReportBody) (h : RecordsSound q.records) :
    RecordsSound (q.enter cls created body).1.records := by
  obtain ⟨hlen, hfall⟩ := h
  rcases q.enter_cases cls created body with ⟨_, _, he⟩ | ⟨_, ⟨hroom, he⟩ | ⟨_, rest, hv, he⟩ | ⟨_, _, he⟩⟩ <;> rw [he]
  · have hmap := coalesce_cls body created q.records
    refine ⟨?_, ?_⟩
    · have := congrArg List.length hmap
      simp only [List.length_map] at this
      show (coalesce body created q.records).length ≤ 32
      omega
    · have hclasses : (q.records.map Report.cls).Pairwise fun a b => b ≤ a := List.pairwise_map.2 hfall
      rw [← hmap] at hclasses
      exact List.pairwise_map.1 hclasses
  · refine ⟨?_, hfall.place _⟩
    show (place _ q.records).length ≤ 32
    rw [place_length]
    omega
  · obtain ⟨before, v, after, hq, rfl, -⟩ := withoutVictim_eq_some hv
    rw [hq] at hlen hfall
    refine ⟨?_, ClassesFall.place _ (hfall.sublist ?_)⟩
    · show (place _ (before ++ after)).length ≤ 32
      rw [place_length]
      simp only [List.length_append, List.length_cons] at hlen ⊢
      omega
    · exact List.Sublist.append_left (List.sublist_cons_self v after) before
  · exact ⟨hlen, hfall⟩

/-- Settles O36: the victim is the one that the lowest class names, and the two clauses are the two ends of the search for it. -/
theorem fullQueueEvicts : Obligations.FullQueueEvicts := by
  unfold Obligations.FullQueueEvicts
  intro q cls created body hfull hbody
  have hnostatus : (body.isStatus && q.records.any fun x => x.body.isStatus) = false := by rw [hbody]; rfl
  have hexclusive : ∀ rest, withoutVictim cls q.records = some rest →
      ∃ x ∈ q.records, x.state = .queued ∧ x.cls < cls := fun rest hv => by
    obtain ⟨before, v, after, hq, -, hd, -⟩ := withoutVictim_eq_some hv
    exact ⟨v, by simp [hq], (displaceable_iff _ _).1 hd⟩
  rcases q.enter_cases cls created body with ⟨hs, -⟩ | ⟨-, ⟨hroom, -⟩ | ⟨-, rest, hv, he⟩ | ⟨-, hv, he⟩⟩
  · rw [hbody] at hs
    cases hs
  · omega
  · refine ⟨fun _ => ?_, fun hnone => ?_⟩
    · obtain ⟨before, v, after, hq, rfl, hd, hmin, hfirst⟩ := withoutVictim_eq_some hv
      obtain ⟨hqueued, hlt⟩ := (displaceable_iff _ _).1 hd
      refine ⟨before, v, after, hq, hqueued, hlt, fun x hx hxq => ?_, fun x hx ⟨hxq, hxc⟩ => ?_, ?_, ?_⟩
      · by_cases hxc : x.cls < cls
        · exact hmin x hx ((displaceable_iff _ _).2 ⟨hxq, hxc⟩)
        · omega
      · exact hfirst x hx ⟨(displaceable_iff _ _).2 ⟨hxq, by omega⟩, hxc⟩
      · rw [he]; rfl
      · rw [he]
    · obtain ⟨x, hx, hxq, hxc⟩ := hexclusive rest hv
      have := hnone x hx hxq
      omega
  · refine ⟨fun ⟨x, hx, hxq, hxc⟩ => ?_, fun _ => he⟩
    have := withoutVictim_eq_none.1 hv x hx
    rw [(displaceable_iff _ _).2 ⟨hxq, hxc⟩] at this
    cases this

end Sys2Proof.Machine
end

