-- ==== Sys2Proof/Proofs/Changes.lean ====
section
/-! What a command can do to the parts of the state that the invariants speak of: a few kinds of change, and every operation
of the model as a run of them. An invariant is then proved once for each kind of change. -/

namespace Sys2Proof.Machine

/-! ## The kinds of change -/

/-- The parts that the invariants speak of are the same. -/
structure Quiet (s t : State) : Prop where
  windows : t.mag.windows = s.mag.windows
  sums : t.mag.sums = s.mag.sums
  accs : t.oc.accs = s.oc.accs
  highSetPhase : t.oc.highSetPhase = s.oc.highSetPhase
  highSetGround : t.oc.highSetGround = s.oc.highSetGround
  act : t.act = s.act
  tags : t.tags = s.tags
  q : t.battery.q = s.battery.q
  records : t.reports.records = s.reports.records
  ring : t.faults.ring = s.faults.ring
  faultNumber : t.faults.nextNumber = s.faults.nextNumber
  tables : t.store.tables = s.store.tables
  buffer : t.store.buffer = s.store.buffer
  inFlight : t.store.inFlight = s.store.inFlight
  restoreTimer : t.store.restoreTimer = s.store.restoreTimer
  restoreMark : t.supply.restoreMark = s.supply.restoreMark

/-- An Actuator Control in which lines may have fallen and supervisions ended, but nothing has started. -/
structure ActuatorControl.Relaxed (a b : ActuatorControl) : Prop where
  trip : b.trip = true → a.trip = true
  close : b.close = true → a.close = true
  heldTrip : b.heldTrip = true → a.heldTrip = true
  supervision : b.supervision = a.supervision ∨ b.supervision = .none
  latch : b.latch = a.latch

/-- The staged image can be put into force: it is PENDING, or it has just passed the validation of its commit (R160). -/
def State.commitReady (s : State) : Prop :=
  s.store.buffer.state = .pending ∨
    s.store.buffer.state = .loading ∧ firstInvalid s.store.buffer.table s.store.buffer.image = none

/-- One change that a command can make, with what holds when it is made. -/
inductive Change (s : State) : State → Prop
  | quiet {t : State} (h : Quiet s t) : Change s t
  | push (x : Channels Int) (clip : Currents Bool) : Change s (s.setMag (s.mag.push x clip))
  | clearWindows : Change s (s.setMag s.mag.cleared)
  | evaluate (i : EvalInput) : Change s (s.setOc (s.oc.stepped i))
  | clearElements : Change s (s.setOc clearedOvercurrent)
  | relax {a : ActuatorControl} (h : s.act.Relaxed a) : Change s (s.setAct a)
  | startTrip {a : ActuatorControl} (hs : s.act.latch = false ∨ s.act.heldTrip = true) (hc : a.close = false)
      (hl : a.latch = s.act.latch) : Change s (s.setAct a)
  | repeatTrip (timer : Timer) (confirm : ConfirmTimer) (h : s.act.supervision = .tripWait) :
      Change s (s.setAct { s.act with retry := true, trip := true, tripTimer := timer, confirm := confirm })
  | holdTrip (h : s.act.latch = false) : Change s (s.setAct { s.act with heldTrip := true })
  | startClose (hp : s.permission = none) (ht : s.act.trip = false) : Change s s.startClose
  | failMechanism {a : ActuatorControl} (ht : a.trip = false) (hc : a.close = false) (hv : a.supervision = .none)
      (hh : a.heldTrip = false) : Change s (s.setAct a)
  | setQ {b : BatteryUnit} (h : s.battery.q ≤ qMax s.batteryTable → b.q ≤ qMax s.batteryTable) : Change s (s.setBattery b)
  | queue {q : ReportQueue} (h : QueueSound s → QueueSound (s.setReports q)) : Change s (s.setReports q)
  | keepFault (r : OpenRecord) (outcome : FaultOutcome) :
      Change s (s.setFaults { s.faults with
        ring := keepRecord s.faults.ring (r.close s.faults.nextNumber outcome s.cmd.seconds), openRecord := none,
        nextNumber := s.faults.nextNumber + 1 })
  | commit (req : Option Req) (h : s.commitReady) : Change s (s.applyCommit req)
  | stage {b : StagingBuffer} (h : BufferSound s → BufferSound (s.setBuffer b)) : Change s (s.setBuffer b)
  | placeTag (i : Nat) {r : TagRecord} (h : s.tags.find r.crew = none) : Change s (s.setSlot i (some r))
  | amendTag (i : Nat) {r r' : TagRecord} (h : s.tags.at i = some r) (hc : r'.crew = r.crew) : Change s (s.setSlot i (some r'))
  | requestTagWrite (h : s.supply.restoreMark = true) : Change s s.requestTagWrite
  | endJob (h : ∀ image, s.store.inFlight ≠ some (.tag image)) : Change s s.endJob
  | restoreImages : Change s s.restoreTables.restoreRecord
  | startTimers : Change s s.startTimers
  | markRestored (h : s.store.restoreTimer = none) : Change s (s.setSupply { s.supply with restoreMark := true })

/-- A run of changes. -/
inductive Evolves (s : State) : State → Prop
  | refl : Evolves s s
  | step {t u : State} (h : Evolves s t) (c : Change t u) : Evolves s u

theorem Change.evolves {s t : State} (h : Change s t) : Evolves s t := .step .refl h

theorem Evolves.trans {s t u : State} (h : Evolves s t) (k : Evolves t u) : Evolves s u := by
  induction k with
  | refl => exact h
  | step _ c ih => exact .step ih c

theorem Quiet.trans {s t u : State} (h : Quiet s t) (k : Quiet t u) : Quiet s u where
  windows := k.windows.trans h.windows
  sums := k.sums.trans h.sums
  accs := k.accs.trans h.accs
  highSetPhase := k.highSetPhase.trans h.highSetPhase
  highSetGround := k.highSetGround.trans h.highSetGround
  act := k.act.trans h.act
  tags := k.tags.trans h.tags
  q := k.q.trans h.q
  records := k.records.trans h.records
  ring := k.ring.trans h.ring
  faultNumber := k.faultNumber.trans h.faultNumber
  tables := k.tables.trans h.tables
  buffer := k.buffer.trans h.buffer
  inFlight := k.inFlight.trans h.inFlight
  restoreTimer := k.restoreTimer.trans h.restoreTimer
  restoreMark := k.restoreMark.trans h.restoreMark

theorem Quiet.evolves {s t : State} (h : Quiet s t) : Evolves s t := (Change.quiet h).evolves

/-- What each change keeps, a run of changes keeps. -/
theorem Evolves.keeps {P : State → Prop} (hP : ∀ s t, Change s t → P s → P t) {s t : State} (h : Evolves s t) (hs : P s) : P t := by
  induction h with
  | refl => exact hs
  | step _ c ih => exact hP _ _ c ih

/-- One of two runs by a condition. -/
theorem Evolves.ite {c : Prop} [Decidable c] {s a b : State} (ha : c → Evolves s a) (hb : ¬ c → Evolves s b) :
    Evolves s (if c then a else b) := by
  split
  · next h => exact ha h
  · next h => exact hb h

/-- A run that continues under a condition. -/
theorem Evolves.andIf {c : Prop} [Decidable c] {s t u : State} (h : Evolves s t) (hc : c → Evolves t u) :
    Evolves s (if c then u else t) := Evolves.ite (fun k => h.trans (hc k)) fun _ => h

section
variable (s : State)

/-! ## Writes of one part that change nothing an invariant speaks of -/

theorem State.setSeq_evolves (x : SequenceController) : Evolves s (s.setSeq x) := Quiet.evolves (by constructor <;> simp)
theorem State.setSample_evolves (x : SampleInterface) : Evolves s (s.setSample x) := Quiet.evolves (by constructor <;> simp)
theorem State.setCmd_evolves (x : CommandUnit) : Evolves s (s.setCmd x) := Quiet.evolves (by constructor <;> simp)
theorem State.setLinks_evolves (x : Links) : Evolves s (s.setLinks x) := Quiet.evolves (by constructor <;> simp)
theorem State.setNextSecond_evolves (x : Nat) : Evolves s (s.setNextSecond x) := Quiet.evolves (by constructor <;> simp)
theorem State.advanceTo_evolves (m : Nat) : Evolves s (s.advanceTo m) := Quiet.evolves (by constructor <;> simp)
theorem State.hand_evolves (f : OutFrame) : Evolves s (s.hand f) := Quiet.evolves (by constructor <;> simp)
theorem State.respond_evolves (r : Req) (k : RequestKind) (c : ResultCode) (body : List Byte) :
    Evolves s (s.respond r k c body) := Quiet.evolves (by constructor <;> simp)

theorem State.setSupply_evolves {x : SupplyMonitor} (h : x.restoreMark = s.supply.restoreMark) : Evolves s (s.setSupply x) :=
  Quiet.evolves (by constructor <;> simp [h])

theorem State.setBattery_evolves {x : BatteryUnit} (h : x.q = s.battery.q) : Evolves s (s.setBattery x) :=
  Quiet.evolves (by constructor <;> simp [h])

/-! ## Reports and the Fault Log -/

theorem ReportQueue.enter_evolves (cls : Nat) (created : Long) (body : ReportBody) :
    Evolves s (s.setReports (s.reports.enter cls created body).1) :=
  (Change.queue fun h => RecordsSound.enter cls created body h).evolves

theorem State.report_evolves (cls : Nat) (body : ReportBody) : Evolves s (s.report cls body) :=
  ReportQueue.enter_evolves s cls s.cmd.seconds body

/-- A write of the queue's counts and timers, its records kept. -/
theorem State.setReports_evolves {x : ReportQueue} (h : x.records = s.reports.records) : Evolves s (s.setReports x) :=
  Quiet.evolves (by constructor <;> simp [h])

/-- A write of the open record of the Fault Log. -/
theorem State.setOpenRecord_evolves (o : Option OpenRecord) : Evolves s (s.setFaults { s.faults with openRecord := o }) :=
  Quiet.evolves (by constructor <;> simp)

theorem State.faultOpen_evolves : Evolves s s.faultOpen := by
  unfold State.faultOpen; split
  · exact .refl
  · exact s.setOpenRecord_evolves _

theorem State.faultSummary_evolves (m : Summary) : Evolves s (s.faultSummary m) := s.setOpenRecord_evolves _

theorem State.faultDecision_evolves (e : Elements) : Evolves s (s.faultDecision e) := s.setOpenRecord_evolves _

theorem State.faultClose_evolves (outcome : FaultOutcome) : Evolves s (s.faultClose outcome) := by
  unfold State.faultClose; split
  · exact .refl
  · exact (Change.keepFault _ outcome).evolves.trans (State.report_evolves _ _ _)

theorem State.faultAllDropped_evolves : Evolves s s.faultAllDropped := by
  unfold State.faultAllDropped; split
  · exact Evolves.ite (fun _ => .refl) fun _ => s.setOpenRecord_evolves _
  · exact .refl

/-! ## CHARGER frames and the arbiter's requests -/

theorem State.chargerUpdate_evolves : Evolves s s.chargerUpdate := Quiet.evolves (by constructor <;> simp)

theorem State.setCharge_evolves (c : ChargeState) : Evolves s (s.setCharge c) :=
  s.setBattery_evolves (by rfl)

theorem State.requestRecordWrite_evolves (c : WriteCauses) : Evolves s (s.requestRecordWrite c) :=
  Quiet.evolves (by constructor <;> simp [State.requestRecordWrite])

theorem State.makeActive_evolves (g : Fin 4) : Evolves s (s.makeActive g) :=
  Quiet.evolves (by constructor <;> simp [State.makeActive, State.requestRecordWrite] <;> split <;> rfl)

/-! ## What is pending -/

theorem State.restartStream_evolves : Evolves s s.restartStream := by
  unfold State.restartStream
  exact Evolves.refl.andIf fun _ => Change.clearWindows.evolves.trans (State.setSample_evolves _ _)

theorem State.noticeTestEnded_evolves : Evolves s s.noticeTestEnded := by
  unfold State.noticeTestEnded
  exact Evolves.refl.andIf fun h => (Change.commit none (.inl h.1)).evolves

theorem State.noticeSequenceRests_evolves : Evolves s s.noticeSequenceRests := by
  unfold State.noticeSequenceRests
  exact Evolves.refl.andIf fun h => (Change.commit none (.inl h.1)).evolves

theorem State.applyGroup_evolves : Evolves s s.applyGroup := by
  unfold State.applyGroup; split
  · exact .refl
  · exact ((s.setSeq_evolves _).trans (State.makeActive_evolves _ _)).trans (State.report_evolves _ _ _)

theorem State.applyPending_evolves : Evolves s s.applyPending :=
  s.applyGroup_evolves.trans (State.noticeSequenceRests_evolves _)

/-! ## Transitions of the sequence -/

theorem State.abortTest_evolves (cause : AbortCause) (charge : ChargeState) : Evolves s (s.abortTest cause charge) := by
  unfold State.abortTest
  exact Evolves.refl.andIf fun _ => (((s.setBattery_evolves (by rfl)).trans (State.chargerUpdate_evolves _)).trans
    (State.noticeTestEnded_evolves _)).trans (State.report_evolves _ _ _)

theorem State.leaveIdle_evolves : Evolves s s.leaveIdle := by
  unfold State.leaveIdle
  exact Evolves.refl.andIf fun _ => s.abortTest_evolves _ _

theorem State.recordOpen_evolves : Evolves s s.recordOpen :=
  (s.setSeq_evolves _).trans Change.clearElements.evolves

theorem State.closeNotice_evolves (cause : CloseCause) (openTime : Nat) : Evolves s (s.closeNotice cause openTime) := by
  unfold State.closeNotice
  exact Evolves.refl.andIf fun _ => Quiet.evolves (by constructor <;> simp)

theorem State.recordClosed_evolves (cause : Option CloseCause) : Evolves s (s.recordClosed cause) := by
  unfold State.recordClosed
  refine Evolves.ite (fun _ => .refl) fun _ => ?_
  cases cause with
  | none => exact s.setSeq_evolves _
  | some c => exact (s.setSeq_evolves _).trans (State.closeNotice_evolves _ _ _)

theorem State.latch_evolves : Evolves s s.latch := s.setSeq_evolves _

theorem State.enterLockout_evolves (reason : LockoutReason) : Evolves s (s.enterLockout reason) :=
  ((s.leaveIdle_evolves.trans (State.setSeq_evolves _ _)).trans (State.applyPending_evolves _)).trans (State.report_evolves _ _ _)

theorem State.enterTiming_evolves : Evolves s s.enterTiming :=
  (s.leaveIdle_evolves.trans (State.latch_evolves _)).trans (State.setSeq_evolves _ _)

theorem State.enterIdle_evolves : Evolves s s.enterIdle := by
  unfold State.enterIdle
  exact ((s.setSeq_evolves _).trans (State.applyPending_evolves _)).andIf fun _ =>
    (State.enterTiming_evolves _).trans (State.faultOpen_evolves _)

theorem State.enterReclaim_evolves (cause : ReclaimCause) : Evolves s (s.enterReclaim cause) := s.setSeq_evolves _

theorem State.enterTripping_evolves (kind : TripKind) (raise : Bool) : Evolves s (s.enterTripping kind raise) :=
  (s.leaveIdle_evolves.trans (State.latch_evolves _)).trans (State.setSeq_evolves _ _)

theorem State.enterClosing_evolves (kind : CloseKind) : Evolves s (s.enterClosing kind) := s.setSeq_evolves _

theorem State.initTest_evolves : Evolves s s.initTest := by
  unfold State.initTest
  refine Evolves.refl.andIf fun _ => Evolves.ite (fun _ => ?_) fun _ => Evolves.refl.andIf fun _ => ?_
  · exact (s.recordClosed_evolves _).trans (State.enterIdle_evolves _)
  · exact s.recordOpen_evolves.trans (State.enterLockout_evolves _ _)

theorem State.mechTest_evolves : Evolves s s.mechTest := by
  unfold State.mechTest
  exact Evolves.refl.andIf fun _ => s.recordOpen_evolves.trans (State.enterLockout_evolves _ _)

theorem State.mechFailure_evolves (cause : MechCause) : Evolves s (s.mechFailure cause) :=
  (((s.leaveIdle_evolves.trans (State.setSeq_evolves _ _)).trans (State.report_evolves _ _ _)).trans
    (State.faultClose_evolves _ _)).trans (State.mechTest_evolves _)

theorem State.enterDead_evolves : Evolves s s.enterDead := s.setSeq_evolves _

theorem State.openConfirm_evolves : Evolves s s.openConfirm := by
  unfold State.openConfirm
  refine Evolves.refl.andIf fun _ => s.recordOpen_evolves.trans ?_
  split
  · refine Evolves.trans ?_ (State.faultClose_evolves _ _)
    exact Evolves.ite (fun _ => State.enterLockout_evolves _ _) fun _ =>
      Evolves.ite (fun _ => State.enterDead_evolves _) fun _ => State.enterLockout_evolves _ _
  · exact State.enterLockout_evolves _ _
  · exact (State.enterLockout_evolves _ _).trans (State.faultClose_evolves _ _)
  · exact (State.enterLockout_evolves _ _).trans (State.faultClose_evolves _ _)

theorem State.closeConfirm_evolves : Evolves s s.closeConfirm := by
  unfold State.closeConfirm
  refine Evolves.refl.andIf fun _ => ?_
  cases s.seq.closeKind with
  | reclose =>
    exact ((s.recordClosed_evolves _).trans (State.enterReclaim_evolves _ _)).andIf fun _ => State.faultOpen_evolves _
  | manual => exact (s.recordClosed_evolves _).trans (State.enterIdle_evolves _)

theorem State.tripStart_evolves : Evolves s s.tripStart := by
  unfold State.tripStart; split
  · exact s.enterTripping_evolves _ _
  · exact s.enterTripping_evolves _ _
  · exact s.enterTripping_evolves _ _
  · exact s.enterTripping_evolves _ _
  · exact .refl

theorem State.externalOpen_evolves : Evolves s s.externalOpen :=
  (s.recordOpen_evolves.trans (State.enterLockout_evolves _ _)).trans (State.faultClose_evolves _ _)

theorem State.externalClose_evolves : Evolves s s.externalClose :=
  (s.recordClosed_evolves _).trans (State.enterIdle_evolves _)

/-! ## The Actuator Control -/

theorem State.pulseEnded_evolves : Evolves s s.pulseEnded := by
  unfold State.pulseEnded
  exact Evolves.refl.andIf fun _ => s.setSample_evolves _

theorem State.tripTest_evolves : Evolves s s.tripTest := by
  unfold State.tripTest
  exact Evolves.refl.andIf fun _ => (Change.relax (by constructor <;> simp)).evolves.trans (State.openConfirm_evolves _)

theorem State.startTrip_evolves (reported : Bool) (hs : s.act.latch = false ∨ s.act.heldTrip = true) (hc : s.act.close = false) :
    Evolves s (s.startTrip reported) :=
  (((Change.startTrip hs (by exact hc) (by rfl)).evolves.trans (State.setSample_evolves _ _)).andIf fun _ => State.tripStart_evolves _).trans
    (State.tripTest_evolves _)

theorem State.requestTrip_evolves : Evolves s s.requestTrip := by
  unfold State.requestTrip
  refine Evolves.ite (fun _ => s.mechFailure_evolves _) fun hl => Evolves.ite (fun _ => ?_) fun hc => Evolves.ite (fun _ => .refl) fun _ => ?_
  · exact (Change.holdTrip (Bool.eq_false_iff.2 hl)).evolves
  · exact s.startTrip_evolves _ (.inl (Bool.eq_false_iff.2 hl)) (Bool.eq_false_iff.2 hc)

theorem State.dropClose_evolves : Evolves s s.dropClose :=
  (Change.relax (by constructor <;> simp)).evolves.andIf fun _ => State.pulseEnded_evolves _

theorem State.dropTrip_evolves : Evolves s s.dropTrip :=
  (Change.relax (by constructor <;> simp)).evolves.andIf fun _ => State.pulseEnded_evolves _

theorem State.startHeld_evolves (reported : Bool) (hc : s.act.close = false) : Evolves s (s.startHeld reported) := by
  unfold State.startHeld
  exact Evolves.refl.andIf fun hh => s.startTrip_evolves _ (.inr hh) hc

theorem State.endClosePulse_evolves : Evolves s s.endClosePulse :=
  s.dropClose_evolves.trans (State.startHeld_evolves _ _ (by simp))

theorem State.closeTest_evolves : Evolves s s.closeTest := by
  unfold State.closeTest
  exact Evolves.refl.andIf fun _ => (((Change.relax (by constructor <;> simp)).evolves.trans (State.dropClose_evolves _)).trans
    (State.closeConfirm_evolves _)).trans (State.startHeld_evolves _ _ (by simp))

theorem State.confirmTest_evolves : Evolves s s.confirmTest := by
  unfold State.confirmTest; split
  · exact .refl
  · exact s.tripTest_evolves
  · exact s.closeTest_evolves

theorem State.suspendConfirm_evolves : Evolves s s.suspendConfirm := (Change.relax (by constructor <;> simp)).evolves

theorem State.resumeConfirm_evolves : Evolves s s.resumeConfirm := (Change.relax (by constructor <;> simp)).evolves

theorem State.sequenceStreamChange_evolves : Evolves s s.sequenceStreamChange :=
  s.initTest_evolves.trans (State.mechTest_evolves _)

theorem State.streamChanged_evolves : Evolves s s.streamChanged :=
  (s.sequenceStreamChange_evolves.trans (State.resumeConfirm_evolves _)).trans (State.confirmTest_evolves _)

theorem State.sequenceViewChange_evolves : Evolves s s.sequenceViewChange := by
  have hopen : ∀ c : Prop, [Decidable c] → Evolves s (if c then s.externalOpen else s) := fun _ _ =>
    Evolves.refl.andIf fun _ => s.externalOpen_evolves
  have hclose : ∀ c : Prop, [Decidable c] → Evolves s (if c then s.externalClose else s) := fun _ _ =>
    Evolves.refl.andIf fun _ => s.externalClose_evolves
  unfold State.sequenceViewChange
  cases s.seq.state with
  | init => exact s.initTest_evolves
  | idle | timing | reclaim => exact hopen _
  | lockout | dead => exact hclose _
  | mechFail => exact s.mechTest_evolves
  | tripping | closing => exact .refl

theorem State.viewChanged_evolves : Evolves s s.viewChanged :=
  s.sequenceViewChange_evolves.trans (State.confirmTest_evolves _)

theorem State.confirmFailed_evolves (cause : MechCause) : Evolves s (s.confirmFailed cause) :=
  ((s.dropTrip_evolves.trans (State.dropClose_evolves _)).trans
    (Change.failMechanism (by simp) (by simp) (by rfl) (by rfl)).evolves).trans (State.mechFailure_evolves _ _)

theorem State.secondTrip_evolves (h : s.act.supervision = .tripWait) : Evolves s s.secondTrip :=
  Evolves.ite (fun _ => (Change.repeatTrip _ _ h).evolves) fun _ =>
    (Change.repeatTrip _ _ h).evolves.trans (State.setSample_evolves _ _)

theorem State.energyAnswer_evolves : Evolves s s.energyAnswer := by
  unfold State.energyAnswer
  exact Evolves.ite (fun _ => .refl) fun _ => Evolves.ite (fun _ => s.enterLockout_evolves _) fun _ => s.setSeq_evolves _

/-- An entry to CLOSING changes no item of close permission. -/
theorem State.enterClosing_permission (kind : CloseKind) : (s.enterClosing kind).permission = s.permission :=
  State.permission_congr (by simp) (by simp) (by simp) (by simp) (by simp)

/-- A permitted close starts its pulse after the entry to CLOSING. -/
theorem State.permittedClose_evolves (kind : CloseKind) (hp : s.permission = none) (ht : s.act.trip = false) :
    Evolves s (s.enterClosing kind).startClose :=
  (s.enterClosing_evolves kind).trans
    (Change.startClose ((s.enterClosing_permission kind).trans hp) (by simpa using ht)).evolves

theorem State.answerReclose_evolves (ht : s.act.trip = false) : Evolves s s.answerReclose := by
  unfold State.answerReclose
  cases hp : s.permission with
  | none => exact s.permittedClose_evolves .reclose hp ht
  | some item =>
    cases item with
    | tag | position | power | stream => exact s.enterLockout_evolves _
    | mechanism => exact s.mechFailure_evolves _
    | tripEnergy | closeEnergy => exact s.energyAnswer_evolves

theorem State.requestReclose_evolves : Evolves s s.requestReclose := by
  unfold State.requestReclose
  exact Evolves.ite (fun _ => (Change.relax (by constructor <;> simp)).evolves) fun ht =>
    s.answerReclose_evolves (Bool.eq_false_iff.2 ht)

theorem State.answerManual_evolves (ht : s.act.trip = false) : Evolves s s.answerManual.1 := by
  unfold State.answerManual
  cases hp : s.permission with
  | none => exact s.permittedClose_evolves .manual hp ht
  | some item => exact .refl

theorem State.answerDeferred_evolves (c : ResultCode) : Evolves s (s.answerDeferred c) := by
  unfold State.answerDeferred; split
  · exact .refl
  · exact (s.setCmd_evolves _).trans (State.respond_evolves _ _ _ _ _)

theorem State.deferredCheck_evolves (ht : s.act.trip = false) : Evolves s s.deferredCheck := by
  have hclear : Evolves s (s.setAct { s.act with deferred := none }) := (Change.relax (by constructor <;> simp)).evolves
  unfold State.deferredCheck
  split
  · exact .refl
  · exact hclear.trans (State.answerReclose_evolves _ ht)
  · exact (hclear.trans (State.answerManual_evolves _ ht)).trans (State.answerDeferred_evolves _ _)

/-! ## Events that ask for a trip -/

theorem State.tripFor_evolves (kind : TripKind) (raise : Bool) : Evolves s (s.tripFor kind raise) :=
  (s.enterTripping_evolves kind raise).trans (State.requestTrip_evolves _)

theorem State.sequencePickup_evolves : Evolves s s.sequencePickup := by
  unfold State.sequencePickup; split
  · exact s.enterTiming_evolves
  · exact s.setSeq_evolves _
  · exact .refl

theorem State.coordinationAdvance_evolves : Evolves s s.coordinationAdvance :=
  ((s.setSeq_evolves _).trans (State.faultClose_evolves _ _)).trans (State.enterReclaim_evolves _ _)

theorem State.sequenceAllDropped_evolves : Evolves s s.sequenceAllDropped := by
  unfold State.sequenceAllDropped; split
  · exact Evolves.ite (fun _ => s.coordinationAdvance_evolves) fun _ => s.enterIdle_evolves
  · exact Evolves.ite (fun _ => s.coordinationAdvance_evolves) fun _ => s.setSeq_evolves _
  · exact .refl

theorem State.tripInClosing_evolves (kind : TripKind) : Evolves s (s.tripInClosing kind) := by
  unfold State.tripInClosing
  exact Evolves.ite (fun _ => Evolves.refl.andIf fun _ => s.setSeq_evolves _) fun _ =>
    (s.latch_evolves.trans (State.setSeq_evolves _ _)).trans (State.requestTrip_evolves _)

theorem State.sequenceDecision_evolves : Evolves s s.sequenceDecision := by
  unfold State.sequenceDecision
  cases s.seq.state with
  | init | timing | reclaim => exact s.tripFor_evolves _ _
  | idle => exact s.enterTiming_evolves.trans (State.tripFor_evolves _ _ _)
  | closing => exact s.tripInClosing_evolves _
  | tripping | dead | lockout | mechFail => exact .refl

theorem State.manualOpen_evolves : Evolves s s.manualOpen.1 := by
  unfold State.manualOpen
  cases s.seq.state with
  | init | idle | timing | reclaim => exact s.tripFor_evolves _ _
  | closing => exact s.tripInClosing_evolves _
  | tripping => exact s.setSeq_evolves _
  | dead => exact s.enterLockout_evolves _
  | lockout | mechFail => exact .refl

theorem State.sensorLossAction_evolves : Evolves s s.sensorLossAction := by
  have htrip : ∀ c : Prop, [Decidable c] → Evolves s (if c then s.tripFor .sensor false else s) := fun _ _ =>
    Evolves.refl.andIf fun _ => s.tripFor_evolves _ _
  unfold State.sensorLossAction
  cases s.seq.state with
  | idle | timing | reclaim => exact htrip _
  | init | tripping | dead | closing | lockout | mechFail => exact .refl

theorem State.tagEntry_evolves : Evolves s s.tagEntry := by
  have hseq : Evolves s s.sequenceTagEntry := by
    unfold State.sequenceTagEntry
    exact Evolves.refl.andIf fun _ => s.enterLockout_evolves _
  exact hseq.andIf fun _ => State.endClosePulse_evolves _

/-! ## Evaluations -/

theorem State.takePickup_evolves : Evolves s s.takePickup :=
  s.sequencePickup_evolves.andIf fun _ => State.faultOpen_evolves _

theorem State.decisionOpens_evolves : Evolves s s.decisionOpens := by
  unfold State.decisionOpens
  cases s.seq.state with
  | closing | idle => exact s.faultOpen_evolves
  | init | timing | tripping | dead | reclaim | lockout | mechFail => exact .refl

theorem State.takeOutputs_evolves (wasActive : Bool) (o : EvalOutput) (m : Summary) : Evolves s (s.takeOutputs wasActive o m) := by
  unfold State.takeOutputs
  have hpickup : Evolves s (if !wasActive && o.unit.active then s.takePickup else s) :=
    Evolves.refl.andIf fun _ => s.takePickup_evolves
  refine hpickup.trans ?_
  dsimp only
  refine Evolves.ite (fun _ => ?_) fun _ => Evolves.ite (fun _ => ?_) fun _ => State.faultSummary_evolves _ _
  · exact (((State.decisionOpens_evolves _).trans (State.faultSummary_evolves _ _)).trans (State.faultDecision_evolves _ _)).trans
      (State.sequenceDecision_evolves _)
  · exact ((State.faultSummary_evolves _ _).trans (State.sequenceAllDropped_evolves _)).trans (State.faultAllDropped_evolves _)

theorem State.overcurrent_evolves (mags : Currents Nat) (clipped : Currents Bool) : Evolves s (s.overcurrent mags clipped) := by
  unfold State.overcurrent
  exact Evolves.refl.andIf fun _ => (Change.evaluate _).evolves.trans (State.takeOutputs_evolves _ _ _ _)

/-! ## The sample path -/

/-- A write of the Magnitude Unit that keeps windows and sums. -/
theorem State.setMag_evolves {x : MagnitudeUnit} (hw : x.windows = s.mag.windows) (hs : x.sums = s.mag.sums) :
    Evolves s (s.setMag x) := Quiet.evolves (by constructor <;> simp [hw, hs])

theorem State.sendMetering_evolves : Evolves s s.sendMetering :=
  (s.setMag_evolves (by rfl) (by rfl)).trans (State.hand_evolves _ _)

theorem State.metered_evolves : Evolves s s.metered := by
  unfold State.metered
  exact Evolves.refl.andIf fun _ => s.sendMetering_evolves

/-- An evaluation keeps the windows (the magnitudes stay closed terms: the root is not for evaluation). -/
theorem MagnitudeUnit.evaluated_windows (m : MagnitudeUnit) : m.evaluated.windows = m.windows := by
  cases m
  unfold MagnitudeUnit.evaluated
  generalize Channels.map magnitude _ = mags
  rfl

theorem MagnitudeUnit.evaluated_sums (m : MagnitudeUnit) : m.evaluated.sums = m.sums := by
  cases m
  unfold MagnitudeUnit.evaluated
  generalize Channels.map magnitude _ = mags
  rfl

theorem State.evaluate_evolves : Evolves s s.evaluate :=
  ((s.setMag_evolves (MagnitudeUnit.evaluated_windows _) (MagnitudeUnit.evaluated_sums _)).trans (State.metered_evolves _)).trans
    (State.overcurrent_evolves _ _ _)

theorem State.formInstant_evolves (x : Channels Int) (clip : Currents Bool) : Evolves s (s.formInstant x clip) :=
  (Change.push x clip).evolves.trans (State.setSample_evolves _ _)

theorem State.becomeValid_evolves : Evolves s s.becomeValid := by
  unfold State.becomeValid
  exact Evolves.refl.andIf fun _ => (s.setSample_evolves _).trans (State.streamChanged_evolves _)

theorem State.endInstant_evolves : Evolves s s.endInstant :=
  s.becomeValid_evolves.andIf fun _ => State.evaluate_evolves _

theorem State.fillInstant_evolves : Evolves s s.fillInstant :=
  ((s.formInstant_evolves _ _).trans (State.setSample_evolves _ _)).trans (State.endInstant_evolves _)

theorem State.fills_evolves (n : Nat) (s : State) : Evolves s (State.fills n s) := by
  induction n generalizing s with
  | zero => exact .refl
  | succ n ih => exact s.fillInstant_evolves.trans (ih _)

theorem State.readView_evolves (f : SampleFrame) (leftStale : Bool) : Evolves s (s.readView f leftStale) :=
  (s.setSample_evolves _).trans (State.setSample_evolves _ _)

theorem State.acceptFrame_evolves (f : SampleFrame) (prior : StreamState) (newRun : Bool) :
    Evolves s (s.acceptFrame f prior newRun) := by
  refine Evolves.trans ?_ (State.endInstant_evolves _)
  have hread : Evolves s (((s.takeFrame f).formInstant (frameSamples f) (sampleStatus f.status).clip).readView f (decide (prior = .stale))) :=
    ((s.setSample_evolves _).trans (State.formInstant_evolves _ _ _)).trans (State.readView_evolves _ _ _)
  exact (hread.andIf fun _ => State.streamChanged_evolves _).andIf fun _ => State.viewChanged_evolves _

theorem State.newRunFrame_evolves (f : SampleFrame) : Evolves s (s.newRunFrame f) :=
  (Change.clearWindows.evolves.trans (State.setSample_evolves _ _)).trans (State.acceptFrame_evolves _ _ _ _)

theorem State.checkedFrame_evolves (f : SampleFrame) (d : Nat) : Evolves s (s.checkedFrame f d) := by
  unfold State.checkedFrame
  refine Evolves.ite (fun _ => s.acceptFrame_evolves _ _ _) fun _ => Evolves.ite (fun _ => ?_) fun _ =>
    Evolves.refl.andIf fun _ => s.newRunFrame_evolves f
  exact (State.fills_evolves d s).trans (State.acceptFrame_evolves _ _ _ _)

theorem State.takeSample_evolves (f : SampleFrame) : Evolves s (s.takeSample f) := by
  unfold State.takeSample
  cases s.sample.stream with
  | absent | stale => exact s.newRunFrame_evolves f
  | filling | valid =>
    cases s.sample.expected with
    | none => exact s.acceptFrame_evolves _ _ _
    | some e => exact s.checkedFrame_evolves _ _

theorem State.becomeStale_evolves : Evolves s s.becomeStale :=
  (((s.setSample_evolves _).trans (State.report_evolves _ _ _)).trans (State.sequenceStreamChange_evolves _)).trans
    (State.suspendConfirm_evolves _)

theorem State.sensorLossExpiry_evolves : Evolves s s.sensorLossExpiry := by
  have hevent : ∀ u : State, Evolves u u.sensorLossEvent := fun u =>
    (Evolves.ite (fun _ => .refl) fun _ => u.confirmFailed_evolves _).trans (State.sensorLossAction_evolves _)
  exact ((s.setSample_evolves _).trans (hevent _)).trans (State.report_evolves _ _ _)

theorem State.becomeUnknown_evolves : Evolves s s.becomeUnknown :=
  ((s.setSample_evolves _).trans (State.viewChanged_evolves _)).trans (State.report_evolves _ _ _)

/-! ## Timers of the drive -/

theorem State.coldLoadExpiry_evolves : Evolves s s.coldLoadExpiry := Quiet.evolves (by constructor <;> simp [State.coldLoadExpiry])

theorem State.deadExpiry_evolves : Evolves s s.deadExpiry :=
  (s.setSeq_evolves _).andIf fun _ => State.requestReclose_evolves _

theorem State.energyWaitExpiry_evolves : Evolves s s.energyWaitExpiry :=
  (s.setSeq_evolves _).andIf fun _ => State.enterLockout_evolves _ _

theorem State.reclaimExpiry_evolves : Evolves s s.reclaimExpiry :=
  (s.setSeq_evolves _).andIf fun _ =>
    (Evolves.refl.andIf fun _ => State.report_evolves _ _ _).trans (State.enterIdle_evolves _)

theorem State.tripPulseEnd_evolves : Evolves s s.dropTrip.deferredCheck :=
  s.dropTrip_evolves.trans (State.deferredCheck_evolves _ (by simp))

theorem State.tripLimit_evolves (h : s.act.supervision = .tripWait) : Evolves s s.tripLimit := by
  unfold State.tripLimit
  exact Evolves.ite (fun _ => s.confirmFailed_evolves _) fun _ => s.secondTrip_evolves h

/-! ## The Battery Unit -/

theorem coulombSteps_le (qmax : Nat) (i : Int) (k : Nat) (p : Nat × Bool) (h : p.1 ≤ qmax) : (coulombSteps qmax i k p).1 ≤ qmax := by
  induction k generalizing p with
  | zero => exact h
  | succ k ih => exact ih _ (coulombStep_le _ _ _ h)

/-- The integration of a frame and its gap keeps Q within Qmax (R117, R118). -/
theorem State.integrate_le (gap : Gap) (h : s.battery.q ≤ qMax s.batteryTable) : (s.integrate gap).1 ≤ qMax s.batteryTable :=
  coulombStep_le _ _ _ (coulombSteps_le _ _ _ _ h)

theorem State.frameCharge_evolves (gap : Gap) : Evolves s (s.frameCharge gap) := by
  refine (Change.setQ fun h => ?_).evolves
  show (if s.belowCutoff then 0 else (s.integrate gap).1) ≤ _
  split
  · exact Nat.zero_le _
  · exact s.integrate_le gap h

theorem State.frameFloatFull_evolves : Evolves s s.frameFloatFull := by
  unfold State.frameFloatFull
  exact Evolves.refl.andIf fun _ => s.setBattery_evolves (by rfl)

theorem State.frameTemperature_evolves : Evolves s s.frameTemperature := by
  unfold State.frameTemperature
  exact Evolves.ite (fun _ => s.setBattery_evolves (by rfl)) fun _ => Evolves.refl.andIf fun _ => s.setBattery_evolves (by rfl)

theorem State.frameTest_evolves : Evolves s s.frameTest := by
  have hmeasured : Evolves s s.measureTest := s.setBattery_evolves (by rfl)
  unfold State.frameTest
  refine Evolves.refl.andIf fun _ => hmeasured.trans ?_
  exact Evolves.ite (fun _ => State.abortTest_evolves _ _ _) fun _ => Evolves.ite (fun _ => State.abortTest_evolves _ _ _) fun _ =>
    Evolves.refl.andIf fun _ => State.abortTest_evolves _ _ _

theorem State.frameBulk_evolves : Evolves s s.frameBulk := by
  unfold State.frameBulk
  exact Evolves.refl.andIf fun _ => (s.setCharge_evolves _).trans (State.setBattery_evolves _ (by rfl))

theorem State.frameAbsorb_evolves : Evolves s s.frameAbsorb := by
  unfold State.frameAbsorb
  exact Evolves.refl.andIf fun _ => s.setCharge_evolves _

theorem State.frameFloat_evolves : Evolves s s.frameFloat := by
  unfold State.frameFloat
  exact Evolves.ite (fun _ => s.setBattery_evolves (by rfl)) fun _ => Evolves.ite (fun _ => s.setCharge_evolves _) fun _ =>
    Evolves.ite (fun _ => s.setBattery_evolves (by rfl)) fun _ => s.setBattery_evolves (by rfl)

theorem State.frameRest_evolves : Evolves s s.frameRest := by
  unfold State.frameRest
  exact Evolves.refl.andIf fun _ => s.setCharge_evolves _

theorem State.frameState_evolves : Evolves s s.frameState := by
  have hrest : ∀ u : State, Evolves s u → Evolves s (if s.frameRests then s.setCharge .rest else u) := fun _ hu =>
    Evolves.ite (fun _ => s.setCharge_evolves _) fun _ => hu
  unfold State.frameState
  cases s.battery.charge with
  | off => exact .refl
  | rest => exact s.frameRest_evolves
  | bulk => exact hrest _ s.frameBulk_evolves
  | absorb => exact hrest _ s.frameAbsorb_evolves
  | float => exact hrest _ s.frameFloat_evolves
  | test => exact hrest _ .refl

theorem State.batteryFrame_evolves (gap : Gap) : Evolves s (s.batteryFrame gap) :=
  (((((s.frameCharge_evolves gap).trans (State.frameFloatFull_evolves _)).trans (State.frameTemperature_evolves _)).trans
    (State.frameTest_evolves _)).trans (State.frameState_evolves _)).trans (State.chargerUpdate_evolves _)

theorem State.batteryNotice_evolves (p : PowerState) : Evolves s (s.batteryNotice p) := by
  have hnormal : ∀ u : State, Evolves u u.noticeNormal := fun u => by
    unfold State.noticeNormal
    exact Evolves.refl.andIf fun _ => u.setCharge_evolves _
  have hnot : ∀ u : State, Evolves u u.noticeNotNormal := fun u => by
    unfold State.noticeNotNormal
    exact Evolves.ite (fun _ => u.abortTest_evolves _ _) fun _ => u.setCharge_evolves _
  exact ((s.setBattery_evolves (by rfl)).trans (Evolves.ite (fun _ => hnormal _) fun _ => hnot _)).trans (State.chargerUpdate_evolves _)

theorem State.batteryStale_evolves : Evolves s s.batteryStale := by
  refine Evolves.trans ?_ (State.chargerUpdate_evolves _)
  exact Evolves.ite (fun _ => s.abortTest_evolves _ _) fun _ => Evolves.ite (fun _ => .refl) fun _ => s.setCharge_evolves _

theorem State.holdExpiry_evolves : Evolves s s.holdExpiry :=
  ((s.setBattery_evolves (by rfl)).andIf fun _ => State.setCharge_evolves _ _).trans (State.chargerUpdate_evolves _)

theorem State.absorbExpiry_evolves : Evolves s s.absorbExpiry :=
  ((s.setBattery_evolves (by rfl)).andIf fun _ => State.setCharge_evolves _ _).trans (State.chargerUpdate_evolves _)

theorem State.rebulkExpiry_evolves : Evolves s s.rebulkExpiry :=
  ((s.setBattery_evolves (by rfl)).andIf fun _ => State.setCharge_evolves _ _).trans (State.chargerUpdate_evolves _)

theorem State.floatFullExpiry_evolves : Evolves s s.floatFullExpiry := (Change.setQ fun _ => le_rfl).evolves

theorem State.chargerSend_evolves : Evolves s s.chargerSend :=
  (s.setBattery_evolves (by rfl)).trans (State.hand_evolves _ _)

theorem State.startTest_evolves (origin : TestOrigin) : Evolves s (s.startTest origin) :=
  (s.setBattery_evolves (by rfl)).trans (State.chargerUpdate_evolves _)

theorem State.tryScheduled_evolves : Evolves s s.tryScheduled := by
  unfold State.tryScheduled
  exact Evolves.refl.andIf fun _ => Evolves.ite (fun _ => s.startTest_evolves _) fun _ => s.setBattery_evolves (by rfl)

theorem State.completeTest_evolves (pass : Bool) : Evolves s (s.completeTest pass) :=
  (((s.setBattery_evolves (by rfl)).trans (State.chargerUpdate_evolves _)).trans (State.noticeTestEnded_evolves _)).trans
    (State.report_evolves _ _ _)

theorem State.testExpiry_evolves : Evolves s s.testExpiry :=
  (s.setBattery_evolves (by rfl)).andIf fun _ =>
    Evolves.ite (fun _ => State.abortTest_evolves _ _ _) fun _ => State.completeTest_evolves _ _

theorem State.batteryTestRequest_evolves (r : Req) : Evolves s (s.batteryTestRequest r) := by
  unfold State.batteryTestRequest
  refine Evolves.ite (fun _ => s.respond_evolves _ _ _ _) fun _ => Evolves.ite (fun _ => ?_) fun _ => s.respond_evolves _ _ _ _
  exact (s.startTest_evolves _).trans (State.respond_evolves _ _ _ _ _)

/-! ## The Supply Monitor -/

theorem State.disconnectTest_evolves : Evolves s s.disconnectTest := by
  unfold State.disconnectTest
  exact Evolves.refl.andIf fun _ => ((s.setSupply_evolves (by rfl)).trans (State.setBattery_evolves _ (by rfl))).trans
    (State.chargerUpdate_evolves _)

theorem State.setPower_evolves (p : PowerState) : Evolves s (s.setPower p) :=
  (s.setSupply_evolves (by rfl)).trans (State.batteryNotice_evolves _ _)

theorem State.changePower_evolves (p : PowerState) (cause : PowerCause) : Evolves s (s.changePower p cause) :=
  (s.setPower_evolves p).trans (State.report_evolves _ _ _)

theorem State.beginDraining_evolves (body : ReportBody) : Evolves s (s.beginDraining body) :=
  (ReportQueue.enter_evolves s _ _ _).trans (State.setSupply_evolves _ (by simp))

theorem State.enterCutoff_evolves (cause : PowerCause) : Evolves s (s.enterCutoff cause) :=
  (((s.setPower_evolves _).trans (State.requestRecordWrite_evolves _ _)).trans (State.beginDraining_evolves _ _)).trans
    (State.disconnectTest_evolves _)

theorem State.endStart_evolves : Evolves s s.endStart := by
  have hchange : ∀ p c, Evolves s ((s.setSupply { s.supply with
      qualification := if s.supply.present then .qualified else .unqualified, qualifyTimer := none }).changePower p c) :=
    fun _ _ => (s.setSupply_evolves (by rfl)).trans (State.changePower_evolves _ _ _)
  exact Evolves.ite (fun _ => hchange _ _) fun _ => Evolves.ite (fun _ => hchange _ _) fun _ => hchange _ _

theorem State.startCutoff_evolves : Evolves s s.startCutoff := s.setSupply_evolves (by rfl)

theorem State.endStartOnFrame_evolves : Evolves s s.endStartOnFrame :=
  Evolves.ite (fun _ => s.endStart_evolves) fun _ => s.endStart_evolves.trans (State.startCutoff_evolves _)

theorem State.powerRules_evolves (exhausted : Bool) : Evolves s (s.powerRules exhausted) := by
  have hchange := s.changePower_evolves
  have hcutoff := s.enterCutoff_evolves
  unfold State.powerRules
  cases s.supply.power with
  | start => exact Evolves.refl.andIf fun _ => s.endStartOnFrame_evolves
  | normal => exact Evolves.ite (fun _ => .refl) fun _ => Evolves.ite (fun _ => hchange _ _) fun _ => hchange _ _
  | carry => exact Evolves.ite (fun _ => hcutoff _) fun _ => Evolves.refl.andIf fun _ => hchange _ _
  | conserve => exact Evolves.refl.andIf fun _ => hcutoff _
  | cutoff => exact Evolves.refl.andIf fun _ => (s.setSupply_evolves (by rfl)).trans (State.changePower_evolves _ _ _)

theorem State.qualify_evolves : Evolves s s.qualify := by
  unfold State.qualify
  exact Evolves.ite (fun _ => Evolves.ite (fun _ => s.setSupply_evolves (by rfl)) fun _ => s.setSupply_evolves (by rfl)) fun _ =>
    s.setSupply_evolves (by rfl)

theorem State.frameCutoff_evolves : Evolves s s.frameCutoff := by
  unfold State.frameCutoff
  exact Evolves.ite (fun _ => Evolves.ite (fun _ => .refl) fun _ => s.startCutoff_evolves) fun _ => s.setSupply_evolves (by rfl)

theorem State.passToBattery_evolves (gap : Gap) : Evolves s (s.passToBattery gap) := by
  unfold State.passToBattery
  exact Evolves.refl.andIf fun _ => s.batteryFrame_evolves gap

theorem State.energyRecheck_evolves : Evolves s s.energyRecheck := by
  unfold State.energyRecheck
  exact Evolves.refl.andIf fun _ => s.requestReclose_evolves

theorem State.acceptCabinet_evolves (f : CabinetFrame) (gap : Gap) : Evolves s (s.acceptCabinet f gap) := by
  have hmeasured : Evolves s (s.takeMeasurements f) := s.setSupply_evolves (by rfl)
  exact ((((hmeasured.trans (State.passToBattery_evolves _ gap)).trans (State.qualify_evolves _)).trans
    (State.frameCutoff_evolves _)).trans (State.powerRules_evolves _ _)).trans (State.energyRecheck_evolves _)

theorem State.takeCabinet_evolves (f : CabinetFrame) : Evolves s (s.takeCabinet f) := by
  unfold State.takeCabinet; split
  · exact .refl
  · exact s.acceptCabinet_evolves f _

theorem State.freshnessExpiry_evolves : Evolves s s.freshnessExpiry :=
  (s.setSupply_evolves (by rfl)).trans (State.batteryStale_evolves _)

theorem State.qualifyExpiry_evolves : Evolves s s.qualifyExpiry :=
  (s.setSupply_evolves (by rfl)).andIf fun _ => State.changePower_evolves _ _ _

theorem State.cutoffExpiry_evolves : Evolves s s.cutoffExpiry := by
  unfold State.cutoffExpiry
  exact Evolves.ite (fun _ => s.enterCutoff_evolves _) fun _ => s.setSupply_evolves (by rfl)

theorem State.finalReportExpiry_evolves :
    Evolves s (s.setSupply { s.supply with finalTimer := none }).disconnectTest :=
  (s.setSupply_evolves (by rfl)).trans (State.disconnectTest_evolves _)

theorem State.idleNotice_evolves : Evolves s s.idleNotice := by
  have hfence : ∀ u : State, Evolves u u.fenceRestart := fun u => by
    unfold State.fenceRestart
    exact Evolves.refl.andIf fun _ => u.setCmd_evolves _
  unfold State.idleNotice
  exact Evolves.refl.andIf fun _ => s.disconnectTest_evolves.trans (hfence _)

/-! ## Tags -/

theorem State.tagPlaceRequest_evolves (r : Req) (crew : Word) (kind : Byte) : Evolves s (s.tagPlaceRequest r crew kind) := by
  have hrefuse : ∀ c, Evolves s (s.refuseTag r .tagPlace c crew) := fun c => s.respond_evolves _ _ _ _
  unfold State.tagPlaceRequest
  refine Evolves.ite (fun _ => hrefuse _) fun hmark => ?_
  cases tagKindOf kind with
  | none => exact hrefuse _
  | some k =>
    refine Evolves.ite (fun _ => hrefuse _) fun _ => Evolves.ite (fun _ => hrefuse _) fun _ =>
      Evolves.ite (fun _ => hrefuse _) fun hfind => ?_
    cases s.tags.freeSlot with
    | none => exact hrefuse _
    | some i =>
      have hplaced : Evolves s (s.setSlot i (some (placedRecord r crew k s.cmd.seconds))).tagEntry :=
        (Change.placeTag i (by simpa [placedRecord] using hfind)).evolves.trans (State.tagEntry_evolves _)
      exact hplaced.trans (Change.requestTagWrite (by simpa using hmark)).evolves

theorem State.tagRemoveRequest_evolves (r : Req) (crew : Word) : Evolves s (s.tagRemoveRequest r crew) := by
  have hrefuse : ∀ c, Evolves s (s.refuseTag r .tagRemove c crew) := fun c => s.respond_evolves _ _ _ _
  unfold State.tagRemoveRequest
  refine Evolves.ite (fun _ => hrefuse _) fun hmark => ?_
  cases s.tags.find crew with
  | none => exact hrefuse _
  | some i =>
    dsimp only
    cases hat : s.tags.at i with
    | none => exact hrefuse _
    | some rec =>
      dsimp only
      cases s.removeRefusal r rec with
      | some c => exact hrefuse _
      | none =>
        show Evolves s (s.beginRemoval i rec r)
        exact (Change.amendTag i hat (by rfl)).evolves.trans (Change.requestTagWrite (by simpa using hmark)).evolves

/-! ## Reports -/

/-- Acting on the first record of a condition keeps the queue sound, where what takes its place has its class. -/
theorem RecordsSound.updateFirst {q : List Report} (p : Report → Bool) {f : Report → Option Report}
    (hf : ∀ x y, f x = some y → y.cls = x.cls) (h : RecordsSound q) : RecordsSound (updateFirst p f q) := by
  have hsub : List.Sublist ((Machine.updateFirst p f q).map Report.cls) (q.map Report.cls) := by
    clear h
    induction q with
    | nil => exact List.Sublist.refl _
    | cons x q ih =>
      unfold Machine.updateFirst
      split
      · split
        · exact List.sublist_cons_self _ _
        · next y hy => simp [hf x y hy]
      · exact ih.cons_cons _
  obtain ⟨hlen, hfall⟩ := h
  refine ⟨?_, ?_⟩
  · have := hsub.length_le
    simp only [List.length_map] at this
    omega
  · exact List.pairwise_map.1 (List.Pairwise.sublist (R := fun a b => b ≤ a) hsub (List.pairwise_map.2 hfall))

theorem State.poll_evolves (q : Req) : Evolves s (s.poll q) := by
  have hnone : Evolves s (s.respond q .reportPoll .none s.noneBody) := s.respond_evolves _ _ _ _
  have hcls : ∀ (u : State) (x y : Report), u.afterSending x = some y → y.cls = x.cls := fun u x y h => by
    unfold State.afterSending at h
    split at h
    · cases h; rfl
    · cases h
  have hsent : ∀ (u : State) (r : Report), Evolves u (u.chargeSent r) := fun u r =>
    (Change.queue (by exact RecordsSound.updateFirst _ (hcls u))).evolves
  have hfinal : ∀ (u : State) (n : Word), Evolves u (u.finalNotice n) := fun u n => by
    unfold State.finalNotice
    exact Evolves.refl.andIf fun _ => (u.setSupply_evolves (by rfl)).trans (State.disconnectTest_evolves _)
  unfold State.poll; split
  · exact hnone
  · exact Evolves.ite (fun _ => (((s.respond_evolves _ _ _ _).trans (State.hand_evolves _ _)).trans (hsent _ _)).trans (hfinal _ _))
      fun _ => hnone

theorem State.acknowledge_evolves (q : Req) (number : Word) : Evolves s (s.acknowledge q number) := by
  unfold State.acknowledge
  refine Evolves.ite (fun _ => ?_) fun _ => s.respond_evolves _ _ _ _
  exact (Change.queue (by exact RecordsSound.updateFirst _ (by simp))).evolves.trans (State.respond_evolves _ _ _ _ _)

theorem State.ackExpiry_evolves (number : Word) : Evolves s (s.ackExpiry number) := by
  have hcls : ∀ x y : Report, s.afterTimeout x = some y → y.cls = x.cls := fun x y hy => by
    unfold State.afterTimeout at hy
    split at hy
    · cases hy
    · cases hy; rfl
  exact (Change.queue (by split <;> exact RecordsSound.updateFirst _ hcls)).evolves

theorem State.statusExpiry_evolves : Evolves s s.statusExpiry :=
  (s.setReports_evolves (by rfl)).trans (State.report_evolves _ _ _)

theorem State.faultRead_evolves (q : Req) (number : Word) : Evolves s (s.faultRead q number) := by
  unfold State.faultRead; split
  · exact s.respond_evolves _ _ _ _
  · exact s.respond_evolves _ _ _ _

/-! ## Settings -/

theorem State.setLock_evolves (id : Nat) (b : Bool) : Evolves s (s.setLock id b) :=
  Quiet.evolves (by constructor <;> simp [State.setLock])

/-- An EMPTY or WRITING buffer holds nothing that has to be sound. -/
theorem BufferSound.of_rest {u : State} (hl : u.store.buffer.state ≠ .loading) (hp : u.store.buffer.state ≠ .pending) : BufferSound u := by
  simp [BufferSound, hl, hp]

theorem State.emptyBuffer_evolves : Evolves s (s.setBuffer emptyBuffer) :=
  (Change.stage fun _ => BufferSound.of_rest (by simp [State.setBuffer, emptyBuffer]) (by simp [State.setBuffer, emptyBuffer])).evolves

theorem State.giveUp_evolves : Evolves s s.giveUp := (s.setLock_evolves _ _).trans (State.emptyBuffer_evolves _)

theorem State.tableUnlockRequest_evolves (r : Req) (table : Nat) : Evolves s (s.tableUnlockRequest r table) := by
  have hanswer : ∀ c, Evolves s (s.respond r .tableUnlock c []) := fun c => s.respond_evolves _ _ _ _
  unfold State.tableUnlockRequest
  exact Evolves.ite (fun _ => hanswer _) fun _ => Evolves.ite (fun _ => hanswer _) fun _ => Evolves.ite (fun _ => hanswer _) fun _ =>
    Evolves.ite (fun _ => hanswer _) fun _ => (s.setLock_evolves _ _).trans (State.respond_evolves _ _ _ _ _)

/-- A buffer claimed for a fitting length is sound (R158). -/
theorem State.claimed_sound {table length : Nat} (o : Origin) (h0 : table ≠ 0) (h14 : ¬ 14 < table) (hfit : lengthFits table length = true) :
    BufferSound (s.setBuffer (s.claimed table length o)) := by
  have h1 : 1 ≤ table := Nat.one_le_iff_ne_zero.2 h0
  have h2 : table ≤ 14 := Nat.le_of_not_lt h14
  simp [BufferSound, State.setBuffer, State.claimed, h1, h2, hfit]

theorem State.tableBeginRequest_evolves (r : Req) (table length : Nat) : Evolves s (s.tableBeginRequest r table length) := by
  have hanswer : ∀ c, Evolves s (s.respond r .tableBegin c []) := fun c => s.respond_evolves _ _ _ _
  unfold State.tableBeginRequest
  refine Evolves.ite (fun _ => hanswer _) fun _ => Evolves.ite (fun _ => hanswer _) fun h14 => Evolves.ite (fun _ => hanswer _) fun _ =>
    Evolves.ite (fun _ => hanswer _) fun _ => Evolves.ite (fun _ => hanswer _) fun h0 => Evolves.ite (fun _ => hanswer _) fun hfit => ?_
  exact (Change.stage fun _ => s.claimed_sound r.origin (fun h => h0 (.inr h)) h14 (by simpa using hfit)).evolves.trans
    (State.respond_evolves _ _ _ _ _)

/-- Words written within a list keep its length. -/
theorem writeFrom_length {α : Type} (xs ws : List α) (offset : Nat) (h : offset + ws.length ≤ xs.length) :
    (writeFrom xs offset ws).length = xs.length := by
  simp only [writeFrom, List.length_append, List.length_take, List.length_drop]
  omega

theorem StagingBuffer.loadedBy_iff (b : StagingBuffer) (o : Origin) : b.loadedBy o = true ↔ b.state = .loading ∧ b.origin = o := by
  simp [StagingBuffer.loadedBy]

/-- Words written within the length of a load keep the buffer sound (R159). -/
theorem State.written_sound {offset : Nat} {ws : List Word} (t : Timer) (hload : s.store.buffer.state = .loading)
    (hfits : offset + ws.length ≤ s.store.buffer.length) (h : BufferSound s) :
    BufferSound (s.setBuffer (s.store.buffer.written offset ws t)) := by
  obtain ⟨h1, h14, himage, hlen⟩ := h.1 (.inl hload)
  have hwritten := writeFrom_length s.store.buffer.image ws offset (by omega)
  simp [BufferSound, State.setBuffer, StagingBuffer.written, hload, h1, h14, hlen, hwritten, himage]

theorem State.tableDataRequest_evolves (r : Req) (offset : Nat) (ws : List Word) : Evolves s (s.tableDataRequest r offset ws) := by
  have hanswer : ∀ c, Evolves s (s.respond r .tableData c []) := fun c => s.respond_evolves _ _ _ _
  unfold State.tableDataRequest
  refine Evolves.ite (fun _ => hanswer _) fun _ => Evolves.ite (fun _ => hanswer _) fun _ => Evolves.ite (fun _ => hanswer _) fun _ =>
    Evolves.ite (fun _ => hanswer _) fun hload => Evolves.ite (fun _ => hanswer _) fun hfits => ?_
  obtain ⟨hstate, -⟩ := (s.store.buffer.loadedBy_iff r.origin).1 (by simpa using hload)
  exact (Change.stage fun h => s.written_sound _ hstate (by omega) h).evolves.trans (State.respond_evolves _ _ _ _ _)

theorem State.commitOutcome_evolves (r : Req) (hload : s.store.buffer.state = .loading) : Evolves s (s.commitOutcome r) := by
  unfold State.commitOutcome
  cases s.store.buffer.unwritten with
  | some i => exact s.giveUp_evolves.trans (State.respond_evolves _ _ _ _ _)
  | none =>
    cases hvalid : firstInvalid s.store.buffer.table s.store.buffer.image with
    | some i => exact s.giveUp_evolves.trans (State.respond_evolves _ _ _ _ _)
    | none =>
      have hchecked : Evolves s ((s.setLock s.store.buffer.table true).setBuffer { s.store.buffer with timer := none }) :=
        (s.setLock_evolves _ _).trans (Change.stage fun h => by simpa [BufferSound, State.setBuffer, State.setLock] using h).evolves
      refine Evolves.ite (fun _ => ?_) fun _ => ?_
      · exact hchecked.trans (Change.commit _ (.inr (by simp [State.setBuffer, hload, hvalid]))).evolves
      · refine (hchecked.trans (Change.stage fun h => ?_).evolves).trans (State.respond_evolves _ _ _ _ _)
        have hsound := h.1 (by simp [State.setBuffer, hload])
        exact ⟨fun _ => hsound, fun _ => by simpa [State.setBuffer] using hvalid⟩

theorem State.tableCommitRequest_evolves (r : Req) : Evolves s (s.tableCommitRequest r) := by
  have hanswer : ∀ c, Evolves s (s.respond r .tableCommit c []) := fun c => s.respond_evolves _ _ _ _
  unfold State.tableCommitRequest
  refine Evolves.ite (fun _ => hanswer _) fun _ => Evolves.ite (fun _ => hanswer _) fun _ => Evolves.ite (fun _ => hanswer _) fun hload => ?_
  exact s.commitOutcome_evolves r ((s.store.buffer.loadedBy_iff r.origin).1 (by simpa using hload)).1

theorem State.tableAbortRequest_evolves (r : Req) : Evolves s (s.tableAbortRequest r) := by
  have hanswer : ∀ c, Evolves s (s.respond r .tableAbort c []) := fun c => s.respond_evolves _ _ _ _
  have hend : Evolves s (if s.store.buffer.origin = r.origin then s.giveUp.respond r .tableAbort .ok [] else s.respond r .tableAbort .busy []) :=
    Evolves.ite (fun _ => s.giveUp_evolves.trans (State.respond_evolves _ _ _ _ _)) fun _ => hanswer _
  have hlock : Evolves s (s.setStore { s.store with locks := s.store.locks.map fun _ => true }) :=
    Quiet.evolves (by constructor <;> simp)
  unfold State.tableAbortRequest
  refine Evolves.ite (fun _ => hanswer _) fun _ => ?_
  cases s.store.buffer.state with
  | empty => exact hlock.trans (State.respond_evolves _ _ _ _ _)
  | writing => exact hanswer _
  | loading | pending => exact hend

theorem State.tableReadRequest_evolves (r : Req) (table offset count : Nat) : Evolves s (s.tableReadRequest r table offset count) := by
  unfold State.tableReadRequest
  exact Evolves.ite (fun _ => s.respond_evolves _ _ _ _) fun _ => Evolves.ite (fun _ => s.respond_evolves _ _ _ _) fun _ =>
    s.respond_evolves _ _ _ _

theorem State.groupSelectRequest_evolves (r : Req) (group : Nat) : Evolves s (s.groupSelectRequest r group) := by
  have hanswer : ∀ c, Evolves s (s.respond r .groupSelect c []) := fun c => s.respond_evolves _ _ _ _
  unfold State.groupSelectRequest
  refine Evolves.ite (fun _ => hanswer _) fun _ => ?_
  cases groupOf group with
  | none => exact hanswer _
  | some g =>
    exact Evolves.ite (fun _ => hanswer _) fun _ =>
      Evolves.ite (fun _ => (s.makeActive_evolves g).trans (State.respond_evolves _ _ _ _ _)) fun _ =>
        (s.setSeq_evolves _).trans (State.respond_evolves _ _ _ _ _)

theorem State.loadingExpiry_evolves : Evolves s s.loadingExpiry := s.giveUp_evolves.trans (State.report_evolves _ _ _)

theorem State.recordExpiry_evolves : Evolves s s.recordExpiry :=
  Evolves.trans (Quiet.evolves (by constructor <;> simp)) (State.requestRecordWrite_evolves _ _)

/-! ## Requests of the Command Unit, and the whole second -/

theorem State.clearSlot_evolves : Evolves s s.clearSlot := s.setCmd_evolves _

theorem State.cancelSlot_evolves (o : Origin) : Evolves s (s.cancelSlot o) := by
  unfold State.cancelSlot; split
  · exact Evolves.refl.andIf fun _ => s.clearSlot_evolves
  · exact .refl

theorem State.selectRequest_evolves (r : Req) (target : Byte) (token : Word) : Evolves s (s.selectRequest r target token) := by
  have hanswer : ∀ c, Evolves s (s.respond r .select c []) := fun c => s.respond_evolves _ _ _ _
  unfold State.selectRequest
  cases targetOf target with
  | none => exact hanswer _
  | some t =>
    refine Evolves.ite (fun _ => hanswer _) fun _ => Evolves.ite (fun _ => hanswer _) fun _ => ?_
    cases s.selectRefusal t with
    | some c => exact hanswer _
    | none => exact (s.setCmd_evolves _).trans (State.respond_evolves _ _ _ _ _)

theorem State.operateClose_evolves (r : Req) : Evolves s (s.operateClose r) := by
  unfold State.operateClose
  refine Evolves.ite (fun _ => s.respond_evolves _ _ _ _) fun _ => Evolves.ite (fun _ => ?_) fun ht => ?_
  · exact (Change.relax (by constructor <;> simp)).evolves.trans (State.setCmd_evolves _ _)
  · exact (s.answerManual_evolves (Bool.eq_false_iff.2 ht)).trans (State.respond_evolves _ _ _ _ _)

theorem State.operateRestart_evolves (r : Req) : Evolves s (s.operateRestart r) := by
  have hfence : ∀ u : State, Evolves u u.fenceRestart := fun u => by
    unfold State.fenceRestart
    exact Evolves.refl.andIf fun _ => u.setCmd_evolves _
  refine (s.respond_evolves _ _ _ _).trans (Evolves.ite (fun _ => .refl) fun _ => ?_)
  exact (State.setCmd_evolves _ _).andIf fun _ => hfence _

theorem State.operate_evolves (r : Req) (token : Word) : Evolves s (s.operate r token) := by
  have hrefused : ∀ c, Evolves s (s.operateRefused r c) := fun c => (s.cancelSlot_evolves _).trans (State.respond_evolves _ _ _ _ _)
  have htarget : ∀ (u : State) (t : Target), Evolves u (u.operateTarget r t) := fun u t => by
    cases t with
    | opened => exact u.manualOpen_evolves.trans (State.respond_evolves _ _ _ _ _)
    | close => exact u.operateClose_evolves r
    | restart => exact u.operateRestart_evolves r
  unfold State.operate
  refine Evolves.ite (fun _ => hrefused _) fun _ => ?_
  cases s.cmd.slot with
  | none => exact hrefused _
  | some sel => exact Evolves.ite (fun _ => s.clearSlot_evolves.trans (htarget _ _)) fun _ => hrefused _

theorem State.timeSetRequest_evolves (r : Req) (value : Long) : Evolves s (s.timeSetRequest r value) :=
  ((s.setCmd_evolves _).trans (State.tryScheduled_evolves _)).trans (State.respond_evolves _ _ _ _ _)

theorem State.second_evolves : Evolves s s.second := by
  have hrefill : ∀ u : State, Evolves u u.refill := fun u => by
    unfold State.refill
    exact Evolves.refl.andIf fun _ => u.setReports_evolves (by rfl)
  have hmetering : ∀ u : State, Evolves u u.secondMetering := fun u => by
    unfold State.secondMetering
    exact Evolves.refl.andIf fun _ => u.sendMetering_evolves
  have hcounts : Evolves s s.secondCounts :=
    (((s.setCmd_evolves _).trans (State.setSeq_evolves _ _)).trans (hrefill _)).trans (State.setMag_evolves _ (by rfl) (by rfl))
  exact (hcounts.trans (hmetering _)).trans (State.tryScheduled_evolves _)

end
end Sys2Proof.Machine
end

