-- ==== Sys2Proof/Proofs/Runs.lean ====
section
/-! What a command can do to the whole state: a run of changes after which the arbiter grants, the end of a tag write, the
restore, or a reset. -/

namespace Sys2Proof.Machine

/-! ## Ends of the writes that are no tag writes -/

theorem TableStore.recordJob_eq_some {t : TableStore} {r : StateRecord} {c : WriteCauses} (h : t.recordJob = some (r, c)) :
    t.inFlight = some (.record r c) := by
  unfold TableStore.recordJob at h
  split at h
  · next hr => cases h; exact hr
  · cases h

theorem TableStore.tableJob_eq_some {t : TableStore} {id : Nat} {image : Table} (h : t.tableJob = some (id, image)) :
    t.inFlight = some (.table id image) := by
  unfold TableStore.tableJob at h
  split at h
  · next hr => cases h; exact hr
  · cases h

section
variable (s : State)

theorem State.recordWriteEnd_evolves (verified : Bool) : Evolves s (s.recordWriteEnd verified) := by
  unfold State.recordWriteEnd
  split
  · exact .refl
  · next r c hjob =>
    have hstored : Evolves s (s.storeRecord r verified) :=
      Evolves.ite (fun _ => Quiet.evolves (by constructor <;> simp)) fun _ => Quiet.evolves (by constructor <;> simp [State.useFree])
    have hflight : (s.storeRecord r verified).store.inFlight = s.store.inFlight := by
      unfold State.storeRecord; split <;> rfl
    have hend : Evolves s (s.storeRecord r verified).endJob :=
      hstored.trans (Change.endJob (by simp [hflight, TableStore.recordJob_eq_some hjob])).evolves
    exact Evolves.ite (fun _ => hend) fun _ => hend.trans (State.report_evolves _ _ _)

theorem State.tableWriteEnd_evolves (verified : Bool) : Evolves s (s.tableWriteEnd verified) := by
  unfold State.tableWriteEnd
  split
  · exact .refl
  · next id image hjob =>
    have hstored : Evolves s (s.storeTable id image verified) :=
      Evolves.ite (fun _ => Quiet.evolves (by constructor <;> simp)) fun _ => Quiet.evolves (by constructor <;> simp [State.useFree])
    have hflight : (s.storeTable id image verified).store.inFlight = s.store.inFlight := by
      unfold State.storeTable; split <;> rfl
    have hend : Evolves s ((s.storeTable id image verified).endJob.setBuffer emptyBuffer) :=
      (hstored.trans (Change.endJob (by simp [hflight, TableStore.tableJob_eq_some hjob])).evolves).trans (State.emptyBuffer_evolves _)
    refine hend.trans ?_
    unfold State.concludeCommit
    split
    · exact State.respond_evolves _ _ _ _ _
    · exact State.report_evolves _ _ _

/-- The last part of the restore, once the images are in force (R167). -/
theorem State.restoreEnd_evolves : Evolves s s.startTimers.supplyRestored.initTest := by
  have hmark : Evolves s (s.startTimers.setSupply { s.startTimers.supply with restoreMark := true }) :=
    Change.startTimers.evolves.trans (Change.markRestored (by rfl)).evolves
  have hsupply : Evolves s s.startTimers.supplyRestored := hmark.andIf fun _ => State.endStart_evolves _
  exact hsupply.trans (State.initTest_evolves _)

end

/-! ## Commands -/

/-- What a command leaves from a state. -/
inductive Runs (s : State) : State → Prop
  | quiet {t : State} (h : Quiet s t) (hs : t.store = s.store) : Runs s t
  | granted {u : State} (h : Evolves s u) : Runs s u.grant
  | freed {u : State} (h : Evolves s u) : Runs s u.arrayFreed
  | tagsWritten {u : State} (image : List TagImageRecord) (verified : Bool) (h : Evolves s u)
      (hjob : u.store.inFlight = some (.tag image)) : Runs s (u.tagWriteEnd image verified).arrayFreed
  | restored {u : State} (h : Evolves s u) (ht : u.store.restoreTimer.isSome = true) : Runs s u.restore.grant
  | boot (kind : ResetKind) (nv : NvArray) (seconds : Long) (held : Option Nat) (free : Nat) (pending : List Instr) :
      Runs s (bootState kind nv seconds held free pending)

theorem Runs.refl (s : State) : Runs s s := .quiet (by constructor <;> rfl) rfl

theorem Runs.setLinks (s : State) (x : Links) : Runs s (s.setLinks x) := .quiet (by constructor <;> simp) (by simp)

/-- A command that is the expiry of a timer runs as its effect does, from the moment of the expiry. -/
theorem Runs.of_expiry {t : Timer} {s u : State} {f : State → State} (h : onExpiry t s f = .next u)
    (hf : ∀ c, t = some c → Runs s (f (s.advanceTo c.due))) : Runs s u := by
  cases t with
  | none => cases h; exact .refl s
  | some c => cases h; exact hf c rfl

/-- An expiry whose effect is a run of changes. -/
theorem Runs.of_grantedExpiry {t : Timer} {s u : State} {f : State → State}
    (h : onExpiry t s (fun v => (f v).grant) = .next u) (hf : ∀ v, Evolves v (f v)) : Runs s u :=
  .of_expiry h fun _ _ => .granted ((s.advanceTo_evolves _).trans (hf _))

/-- The confirm timer runs toward the limit of the supervision only. -/
theorem ActuatorControl.limitTimer_eq_some {a : ActuatorControl} {v : Supervision} {c : Countdown} (h : a.limitTimer v = some c) :
    a.supervision = v := by
  unfold ActuatorControl.limitTimer at h
  split at h
  · split at h
    · assumption
    · cases h
  · cases h

/-- A table in which the tag timer runs has a tag write in flight. -/
theorem TableStore.tagJobTimer_eq_some {t : TableStore} {c : Countdown} (h : t.tagJobTimer = some c) :
    t.inFlight = some (.tag t.tagJob) := by
  unfold TableStore.tagJobTimer at h
  split at h
  · next image hj => simp [TableStore.tagJob, hj]
  · cases h

theorem exec_runs {i : Instr} {s t : State} (h : exec i s = .next t) : Runs s t := by
  cases i with
  | powerOn => cases h; exact .boot _ _ _ _ _ _
  | restart =>
    change execRestart s = _ at h
    unfold execRestart at h
    split at h
    · cases h; exact .boot _ _ _ _ _ _
    · cases h; exact .refl s
  | sampleFrame f => cases h; exact .granted (s.takeSample_evolves f)
  | cabinetFrame f => cases h; exact .granted (s.takeCabinet_evolves f)
  | discardedFrame link => cases link <;> (cases h; exact .setLinks s _)
  | badRequest r kind body => cases h; exact .granted ((s.cancelSlot_evolves _).trans (State.hand_evolves _ _))
  | statusRead r => cases h; exact .granted (s.respond_evolves _ _ _ _)
  | timeSet r value => cases h; exact .granted ((s.cancelSlot_evolves _).trans (State.timeSetRequest_evolves _ _ _))
  | tableUnlock r table => cases h; exact .granted ((s.cancelSlot_evolves _).trans (State.tableUnlockRequest_evolves _ _ _))
  | tableBegin r table length => cases h; exact .granted ((s.cancelSlot_evolves _).trans (State.tableBeginRequest_evolves _ _ _ _))
  | tableData r offset words => cases h; exact .granted ((s.cancelSlot_evolves _).trans (State.tableDataRequest_evolves _ _ _ _))
  | tableCommit r => cases h; exact .granted ((s.cancelSlot_evolves _).trans (State.tableCommitRequest_evolves _ _))
  | tableAbort r => cases h; exact .granted ((s.cancelSlot_evolves _).trans (State.tableAbortRequest_evolves _ _))
  | tableRead r table offset count => cases h; exact .granted ((s.cancelSlot_evolves _).trans (State.tableReadRequest_evolves _ _ _ _ _))
  | groupSelect r group => cases h; exact .granted ((s.cancelSlot_evolves _).trans (State.groupSelectRequest_evolves _ _ _))
  | select r target token => cases h; exact .granted ((s.cancelSlot_evolves _).trans (State.selectRequest_evolves _ _ _ _))
  | operateOpen r token => cases h; exact .granted (s.operate_evolves _ _)
  | operateClose r token => cases h; exact .granted (s.operate_evolves _ _)
  | operateRestart r token => cases h; exact .granted (s.operate_evolves _ _)
  | operateNoSelect r token => cases h; exact .granted (s.operate_evolves _ _)
  | tagPlace r crew kind => cases h; exact .granted ((s.cancelSlot_evolves _).trans (State.tagPlaceRequest_evolves _ _ _ _))
  | tagRemove r crew => cases h; exact .granted ((s.cancelSlot_evolves _).trans (State.tagRemoveRequest_evolves _ _ _))
  | tagList r => cases h; exact .granted ((s.cancelSlot_evolves _).trans (State.respond_evolves _ _ _ _ _))
  | batteryTest r => cases h; exact .granted ((s.cancelSlot_evolves _).trans (State.batteryTestRequest_evolves _ _))
  | reportPoll r => cases h; exact .granted (s.poll_evolves _)
  | reportAck r number => cases h; exact .granted (s.acknowledge_evolves _ _)
  | faultRead r number => cases h; exact .granted ((s.cancelSlot_evolves _).trans (State.faultRead_evolves _ _ _))
  | wholeSecond =>
    cases h
    exact .granted (((s.advanceTo_evolves _).trans (State.setNextSecond_evolves _ _)).trans (State.second_evolves _))
  | absenceTimerExpiry =>
    simp only [exec, execAbsenceTimerExpiry] at h
    exact .of_grantedExpiry h State.becomeStale_evolves
  | sensorLossTimerExpiry =>
    simp only [exec, execSensorLossTimerExpiry] at h
    exact .of_grantedExpiry h State.sensorLossExpiry_evolves
  | disagreeTimerExpiry =>
    simp only [exec, execDisagreeTimerExpiry] at h
    exact .of_grantedExpiry h State.becomeUnknown_evolves
  | coldLoadTimerExpiry =>
    simp only [exec, execColdLoadTimerExpiry] at h
    exact .of_grantedExpiry h State.coldLoadExpiry_evolves
  | deadTimerExpiry =>
    simp only [exec, execDeadTimerExpiry] at h
    exact .of_grantedExpiry h State.deadExpiry_evolves
  | energyWaitTimerExpiry =>
    simp only [exec, execEnergyWaitTimerExpiry] at h
    exact .of_grantedExpiry h State.energyWaitExpiry_evolves
  | reclaimTimerExpiry =>
    simp only [exec, execReclaimTimerExpiry] at h
    exact .of_grantedExpiry h State.reclaimExpiry_evolves
  | tripPulseTimerExpiry =>
    simp only [exec, execTripPulseTimerExpiry] at h
    exact .of_grantedExpiry h State.tripPulseEnd_evolves
  | closePulseTimerExpiry =>
    simp only [exec, execClosePulseTimerExpiry] at h
    exact .of_grantedExpiry h State.endClosePulse_evolves
  | tripConfirmLimit =>
    simp only [exec, execTripConfirmLimit] at h
    exact .of_expiry h fun c hc => .granted ((s.advanceTo_evolves _).trans
      (State.tripLimit_evolves _ (by simpa using ActuatorControl.limitTimer_eq_some hc)))
  | closeConfirmLimit =>
    simp only [exec, execCloseConfirmLimit] at h
    exact .of_grantedExpiry h fun v => v.confirmFailed_evolves _
  | freshnessTimerExpiry =>
    simp only [exec, execFreshnessTimerExpiry] at h
    exact .of_grantedExpiry h State.freshnessExpiry_evolves
  | supplyQualifyTimerExpiry =>
    simp only [exec, execSupplyQualifyTimerExpiry] at h
    exact .of_grantedExpiry h State.qualifyExpiry_evolves
  | cutoffTimerExpiry =>
    simp only [exec, execCutoffTimerExpiry] at h
    exact .of_grantedExpiry h State.cutoffExpiry_evolves
  | finalReportTimerExpiry =>
    simp only [exec, execFinalReportTimerExpiry] at h
    exact .of_grantedExpiry h fun v => (v.setSupply_evolves (by rfl)).trans (State.disconnectTest_evolves _)
  | holdTimerExpiry =>
    simp only [exec, execHoldTimerExpiry] at h
    exact .of_grantedExpiry h State.holdExpiry_evolves
  | absorbTimerExpiry =>
    simp only [exec, execAbsorbTimerExpiry] at h
    exact .of_grantedExpiry h State.absorbExpiry_evolves
  | rebulkTimerExpiry =>
    simp only [exec, execRebulkTimerExpiry] at h
    exact .of_grantedExpiry h State.rebulkExpiry_evolves
  | floatFullTimerExpiry =>
    simp only [exec, execFloatFullTimerExpiry] at h
    exact .of_grantedExpiry h State.floatFullExpiry_evolves
  | testDurationTimerExpiry =>
    simp only [exec, execTestDurationTimerExpiry] at h
    exact .of_grantedExpiry h State.testExpiry_evolves
  | scheduleRetryTimerExpiry =>
    simp only [exec, execScheduleRetryTimerExpiry] at h
    exact .of_grantedExpiry h fun v => (v.setBattery_evolves (by rfl)).trans (State.tryScheduled_evolves _)
  | chargerRepeatTimerExpiry =>
    simp only [exec, execChargerRepeatTimerExpiry] at h
    exact .of_grantedExpiry h State.chargerSend_evolves
  | ackTimerExpiry number =>
    simp only [exec, execAckTimerExpiry] at h
    exact .of_grantedExpiry h fun v => v.ackExpiry_evolves number
  | statusIntervalTimerExpiry =>
    simp only [exec, execStatusIntervalTimerExpiry] at h
    exact .of_grantedExpiry h State.statusExpiry_evolves
  | loadingTimerExpiry =>
    simp only [exec, execLoadingTimerExpiry] at h
    exact .of_grantedExpiry h State.loadingExpiry_evolves
  | stateRecordTimerExpiry =>
    simp only [exec, execStateRecordTimerExpiry] at h
    exact .of_grantedExpiry h State.recordExpiry_evolves
  | selectTimerExpiry =>
    simp only [exec, execSelectTimerExpiry] at h
    exact .of_grantedExpiry h State.clearSlot_evolves
  | restoreComplete =>
    simp only [exec, execRestoreComplete] at h
    exact .of_expiry h fun c hc => .restored (s.advanceTo_evolves _) (by simp [hc])
  | tagWriteComplete verified =>
    simp only [exec, execTagWriteComplete] at h
    exact .of_expiry h fun c hc => .tagsWritten _ verified (s.advanceTo_evolves _) (by simpa using TableStore.tagJobTimer_eq_some hc)
  | stateRecordWriteComplete verified =>
    simp only [exec, execStateRecordWriteComplete] at h
    exact .of_expiry h fun c _ => .freed ((s.advanceTo_evolves _).trans (State.recordWriteEnd_evolves _ verified))
  | tableWriteComplete verified =>
    simp only [exec, execTableWriteComplete] at h
    exact .of_expiry h fun c _ => .freed ((s.advanceTo_evolves _).trans (State.tableWriteEnd_evolves _ verified))

/-- A run after a move that no invariant sees. -/
theorem Runs.after {s u t : State} (hq : Quiet s u) (hs : u.store = s.store) (h : Runs u t) : Runs s t := by
  cases h with
  | quiet k ks => exact .quiet (hq.trans k) (ks.trans hs)
  | granted k => exact .granted (hq.evolves.trans k)
  | freed k => exact .freed (hq.evolves.trans k)
  | tagsWritten image verified k hjob => exact .tagsWritten image verified (hq.evolves.trans k) hjob
  | restored k ht => exact .restored (hq.evolves.trans k) ht
  | boot => exact .boot _ _ _ _ _ _

/-- A step runs as a command does, or moves the base or the queue on. -/
theorem step_runs {s t : State} (h : step s = .next t) : Runs s t := by
  unfold step at h
  split at h
  · cases h
    unfold State.tick
    split
    · exact .quiet (by constructor <;> simp) (by simp)
    · exact .quiet (by constructor <;> simp [State.useFree]) (by simp [State.useFree])
  · next rest _ => exact .after (u := s.setPending rest) (by constructor <;> simp) (by simp) (exec_runs h)

end Sys2Proof.Machine
end

