-- ==== Sys2Proof/Proofs/StoreEffects.lean ====
section
/-! What putting images into force does: an applied commit (R161) and the table and state-record images of the restore (R167). -/

namespace Sys2Proof.Machine

section
variable (s : State)

/-! ## An applied commit (R161) -/

theorem State.restartStream_mag : s.restartStream.mag = s.mag ∨ s.restartStream.mag = s.mag.cleared := by
  unfold State.restartStream
  split
  · right; simp
  · left; rfl

theorem State.unitApplied_store (f : Nat) : (s.unitApplied f).store = s.store := by
  unfold State.unitApplied; split <;> simp

theorem State.batteryApplied_store : s.batteryApplied.store = s.store := by
  simp [State.batteryApplied]

/-- The staged image in the active tables, and its write asked for. -/
def State.imaged (req : Option Req) : State :=
  s.setStore { s.store with
    tables := s.store.tables.set s.store.buffer.table s.store.buffer.image,
    buffer := { s.store.buffer with state := .writing, request := req }, tableWaiting := true }

theorem State.applyCommit_of_unit (req : Option Req) (h : tableKind s.store.buffer.table = .unit) :
    s.applyCommit req = (s.imaged req).unitApplied (nominalFrequency s.unit) := by
  simp only [State.applyCommit, h]
  rfl

theorem State.applyCommit_of_battery (req : Option Req) (h : tableKind s.store.buffer.table = .battery) :
    s.applyCommit req = (s.imaged req).batteryApplied := by
  simp only [State.applyCommit, h]
  rfl

theorem State.applyCommit_of_protection (req : Option Req) (hu : tableKind s.store.buffer.table ≠ .unit)
    (hb : tableKind s.store.buffer.table ≠ .battery) : s.applyCommit req = s.imaged req := by
  unfold State.applyCommit
  dsimp only
  split
  · next h => exact absurd h hu
  · next h => exact absurd h hb
  · rfl

/-- What holds of the three kinds of effects holds of an applied commit. -/
theorem State.applyCommit_cases {P : State → Prop} (req : Option Req)
    (hu : tableKind s.store.buffer.table = .unit → P ((s.imaged req).unitApplied (nominalFrequency s.unit)))
    (hb : tableKind s.store.buffer.table = .battery → P (s.imaged req).batteryApplied)
    (hp : tableKind s.store.buffer.table ≠ .unit → tableKind s.store.buffer.table ≠ .battery → P (s.imaged req)) :
    P (s.applyCommit req) := by
  by_cases h1 : tableKind s.store.buffer.table = .unit
  · rw [s.applyCommit_of_unit req h1]; exact hu h1
  · by_cases h2 : tableKind s.store.buffer.table = .battery
    · rw [s.applyCommit_of_battery req h2]; exact hb h2
    · rw [s.applyCommit_of_protection req h1 h2]; exact hp h1 h2

theorem State.applyCommit_store (req : Option Req) : (s.applyCommit req).store = (s.imaged req).store :=
  s.applyCommit_cases (P := fun t => t.store = (s.imaged req).store) req (fun _ => State.unitApplied_store _ _)
    (fun _ => State.batteryApplied_store _) fun _ _ => rfl

theorem State.unitApplied_mag (f : Nat) : (s.unitApplied f).mag = s.mag ∨ (s.unitApplied f).mag = s.mag.cleared := by
  unfold State.unitApplied
  split
  · left; simp
  · simpa using s.restartStream_mag

theorem State.applyCommit_mag (req : Option Req) : (s.applyCommit req).mag = s.mag ∨ (s.applyCommit req).mag = s.mag.cleared :=
  s.applyCommit_cases (P := fun t => t.mag = s.mag ∨ t.mag = s.mag.cleared) req (fun _ => (s.imaged req).unitApplied_mag _)
    (fun _ => .inl (by simp [State.batteryApplied, State.imaged])) fun _ _ => .inl rfl

theorem State.unitApplied_records (f : Nat) : (s.unitApplied f).reports.records = s.reports.records := by
  unfold State.unitApplied
  split <;> simp

theorem State.applyCommit_records (req : Option Req) : (s.applyCommit req).reports.records = s.reports.records :=
  s.applyCommit_cases (P := fun t => t.reports.records = s.reports.records) req (fun _ => (s.imaged req).unitApplied_records _)
    (fun _ => by simp [State.batteryApplied, State.imaged]) fun _ _ => rfl

/-- Only the id 2 is that of the BATTERY table. -/
theorem tableKind_eq_battery_iff (id : Nat) : tableKind id = .battery ↔ id = 2 := by
  unfold tableKind
  (repeat' split) <;> simp_all

/-- A write of a table leaves the others. -/
theorem getD_set_of_ne {α : Type} (xs : List α) {i j : Nat} (x d : α) (h : i ≠ j) : (xs.set i x).getD j d = xs.getD j d := by
  simp [List.getD_eq_getElem?_getD, List.getElem?_set_ne h]

theorem State.imaged_batteryTable (req : Option Req) (h : s.store.buffer.table ≠ 2) :
    (s.imaged req).batteryTable = s.batteryTable :=
  getD_set_of_ne _ _ _ h

/-- A commit of a BATTERY table lowers Q to its Qmax; any other keeps Q and the BATTERY table. -/
theorem State.applyCommit_charge (req : Option Req) (h : s.battery.q ≤ qMax s.batteryTable) :
    (s.applyCommit req).battery.q ≤ qMax (s.applyCommit req).batteryTable := by
  have htable : (s.applyCommit req).batteryTable = (s.imaged req).batteryTable := by
    simp [State.batteryTable, State.table, State.applyCommit_store]
  rw [htable]
  have hkept : tableKind s.store.buffer.table ≠ .battery → s.battery.q ≤ qMax (s.imaged req).batteryTable := fun hk => by
    rw [s.imaged_batteryTable req fun h2 => hk ((tableKind_eq_battery_iff _).2 h2)]
    exact h
  refine s.applyCommit_cases (P := fun t => t.battery.q ≤ qMax (s.imaged req).batteryTable) req (fun hk => ?_) (fun _ => ?_)
    fun _ hk => hkept hk
  · have hbattery : ((s.imaged req).unitApplied (nominalFrequency s.unit)).battery = s.battery := by simp [State.imaged]
    rw [hbattery]
    exact hkept (by simp [hk])
  · simp [State.batteryApplied, State.batteryTable, State.table]

/-! ## The table and state-record images of the restore (R167, R168) -/

/-- What restoring a table image does: a valid image in the active tables, and perhaps a report. -/
structure TableRestored (s t : State) : Prop where
  mag : t.mag = s.mag
  store : ∃ tables, t.store = { s.store with tables := tables } ∧ (TablesValid s → TablesValid t)
  records : QueueSound s → QueueSound t

theorem TableRestored.refl : TableRestored s s := ⟨rfl, ⟨s.store.tables, rfl, id⟩, id⟩

theorem TableRestored.trans {s t u : State} (h : TableRestored s t) (k : TableRestored t u) : TableRestored s u := by
  obtain ⟨a, hst, hvt⟩ := h.store
  obtain ⟨b, hsu, hvu⟩ := k.store
  exact ⟨k.mag.trans h.mag, ⟨b, by rw [hsu, hst], hvu ∘ hvt⟩, k.records ∘ h.records⟩

/-- The ROM default of each writable table passes the validation (R154). -/
theorem romTable_valid {id : Nat} (h : id ∈ writableIds) : imageValid id (romTable id) = true := by
  revert h id; decide

/-- A valid image put into the active tables keeps them valid. -/
theorem TablesValid.set {tables : List Table} {id : Nat} {x : Table} (hx : imageValid id x = true)
    (h : tables.length = 15 ∧ ∀ k, 1 ≤ k → k ≤ 14 → imageValid k (tables.getD k []) = true) :
    (tables.set id x).length = 15 ∧ ∀ k, 1 ≤ k → k ≤ 14 → imageValid k ((tables.set id x).getD k []) = true := by
  obtain ⟨hlen, hvalid⟩ := h
  refine ⟨by simp [hlen], fun k h1 h14 => ?_⟩
  by_cases hk : id = k
  · subst hk
    have hin : id < tables.length := by omega
    simpa [List.getD_eq_getElem?_getD, hin] using hx
  · rw [getD_set_of_ne _ _ _ hk]
    exact hvalid k h1 h14

theorem State.restoreTable_restored {id : Nat} (h : id ∈ writableIds) : TableRestored s (s.restoreTable id) := by
  have hdefault : ∀ cause, TableRestored s (s.tableDefaulted id cause) := fun cause =>
    ⟨by simp, ⟨_, by simp [State.tableDefaulted]; rfl, fun hv => by
      simpa [TablesValid, State.tableDefaulted] using TablesValid.set (romTable_valid h) hv⟩,
      fun hq => by simpa [State.tableDefaulted, QueueSound] using RecordsSound.enter 4 s.cmd.seconds _ hq⟩
  unfold State.restoreTable
  split
  · exact hdefault _
  · exact hdefault _
  · split
    · next hvalid => exact ⟨by simp, ⟨_, by simp; rfl, fun hv => by simpa [TablesValid] using TablesValid.set hvalid hv⟩, by simp [QueueSound]⟩
    · exact hdefault _

theorem State.restoreTables_fold : TableRestored s (writableIds.foldl State.restoreTable s) := by
  refine List.foldlRecOn (motive := TableRestored s) _ _ (.refl s) fun t ht id hid => ht.trans (t.restoreTable_restored hid)

/-- The images of tables and state record put into force: the sums stay or are cleared, of the Table Store only the active tables
and the active group change, and Q is at most Qmax. -/
theorem State.restoreTables_effects :
    (s.restoreTables.mag = s.mag ∨ s.restoreTables.mag = s.mag.cleared) ∧
      (∃ tables, s.restoreTables.store = { s.store with tables := tables } ∧ (TablesValid s → TablesValid s.restoreTables)) ∧
      (QueueSound s → QueueSound s.restoreTables) := by
  obtain ⟨hmag, hstore, hrecords⟩ := s.restoreTables_fold
  unfold State.restoreTables
  dsimp only
  split
  · exact ⟨.inl hmag, hstore, hrecords⟩
  · obtain ⟨tables, ht, hv⟩ := hstore
    refine ⟨?_, ⟨tables, by simpa using ht, fun h => ?_⟩, fun h => ?_⟩
    · simpa [hmag] using State.restartStream_mag (writableIds.foldl State.restoreTable s)
    · simpa [TablesValid] using hv h
    · simpa [QueueSound] using hrecords h

theorem State.restoreRecord_cases : (∃ g q r t h n, s.restoreRecord = s.putRecord g q r t h n) ∨ ∃ cause, s.restoreRecord = s.recordDefaulted cause := by
  unfold State.restoreRecord
  split
  · exact .inr ⟨_, rfl⟩
  · exact .inr ⟨_, rfl⟩
  · split
    · exact .inl ⟨_, _, _, _, _, _, rfl⟩
    · exact .inr ⟨_, rfl⟩

theorem State.putRecord_q (g : Fin 4) (q : Nat) (r : TestResult) (t : Option Long) (h : Health) (n : Nat) :
    (s.putRecord g q r t h n).battery.q ≤ qMax (s.putRecord g q r t h n).batteryTable := by
  simp [State.putRecord, State.restoredQ, State.batteryTable, State.table]

theorem State.restoreRecord_effects :
    (∃ g, s.restoreRecord.store = { s.store with activeGroup := g }) ∧ (QueueSound s → QueueSound s.restoreRecord) ∧
      s.restoreRecord.battery.q ≤ qMax s.restoreRecord.batteryTable := by
  obtain ⟨g, q, r, t, h, n, hput⟩ | ⟨cause, hdefault⟩ := s.restoreRecord_cases
  · rw [hput]
    exact ⟨⟨g, rfl⟩, fun hq => by simpa [QueueSound] using hq, s.putRecord_q g q r t h n⟩
  · rw [hdefault]
    refine ⟨⟨0, rfl⟩, fun hq => ?_, s.putRecord_q 0 _ .none none .good 0⟩
    simpa [State.recordDefaulted, QueueSound] using RecordsSound.enter 4 s.cmd.seconds _ hq

end
end Sys2Proof.Machine
end

