-- ==== Sys2Proof/Proofs/Permission.lean ====
section
/-! Close permission (R76): its seven items in their order, and the partial check of the first three. -/

namespace Sys2Proof.Machine

section
variable (s : State)

theorem State.partialPermission_eq_none_iff :
    s.partialPermission = none ↔ s.tags.isEmpty = true ∧ s.sample.view = .opened ∧ s.act.latch = false := by
  unfold State.partialPermission
  (repeat' split) <;> simp_all

theorem State.partialPermission_of_tag (h1 : ¬ s.tags.isEmpty = true) : s.partialPermission = some .tag := by
  simp [State.partialPermission, h1]

theorem State.partialPermission_of_position (h1 : s.tags.isEmpty = true) (h2 : ¬ s.sample.view = .opened) :
    s.partialPermission = some .position := by
  simp [State.partialPermission, h1, h2]

theorem State.partialPermission_of_mechanism (h1 : s.tags.isEmpty = true) (h2 : s.sample.view = .opened)
    (h3 : ¬ s.act.latch = false) : s.partialPermission = some .mechanism := by
  simp [State.partialPermission, h1, h2, h3]

/-- An item that the partial check finds failing is the first of the seven. -/
theorem State.permission_of_partial {i : PermissionItem} (h : s.partialPermission = some i) : s.permission = some i := by
  simp [State.permission, h]

theorem State.powerCloses_iff : s.powerCloses = true ↔ s.supply.power = .normal ∨ s.supply.power = .carry := by
  simp [State.powerCloses]

theorem State.fresh_iff : s.fresh = true ↔ s.supply.freshness = .fresh := by simp [State.fresh]

theorem State.tripReady_iff : s.tripReady = true ↔ tripReadyLevel s.unit ≤ s.supply.meas.tripCap := by simp [State.tripReady]

theorem State.closeReady_iff : s.closeReady = true ↔ closeReadyLevel s.unit ≤ s.supply.meas.closeCap := by simp [State.closeReady]

theorem State.permission_eq_none_iff :
    s.permission = none ↔ s.tags.isEmpty = true ∧ s.sample.view = .opened ∧ s.act.latch = false ∧
      (s.supply.power = .normal ∨ s.supply.power = .carry) ∧ s.supply.freshness = .fresh ∧
      tripReadyLevel s.unit ≤ s.supply.meas.tripCap ∧ closeReadyLevel s.unit ≤ s.supply.meas.closeCap := by
  have hpartial := s.partialPermission_eq_none_iff
  rw [← s.powerCloses_iff, ← s.fresh_iff, ← s.tripReady_iff, ← s.closeReady_iff]
  unfold State.permission
  cases hp : s.partialPermission with
  | some i =>
    rw [hp] at hpartial
    simp only [reduceCtorEq, false_iff] at hpartial ⊢
    exact fun h => hpartial ⟨h.1, h.2.1, h.2.2.1⟩
  | none =>
    obtain ⟨h1, h2, h3⟩ := hpartial.1 hp
    simp only [h1, h2, h3, true_and]
    (repeat' split) <;> simp_all

/-- A permitted close meets a clear latch (R85). -/
theorem State.latch_of_permission {s : State} (h : s.permission = none) : s.act.latch = false :=
  (s.permission_eq_none_iff.1 h).2.2.1

/-- A permitted close meets an empty Tag Table (R89). -/
theorem State.tags_of_permission {s : State} (h : s.permission = none) : s.tags.isEmpty = true :=
  (s.permission_eq_none_iff.1 h).1

end

/-- Settles O19: each clause is one branch of the check. -/
theorem permissionOrder : Obligations.PermissionOrder := by
  unfold Obligations.PermissionOrder
  intro s
  dsimp only
  refine ⟨s.permission_eq_none_iff, fun h1 => s.permission_of_partial (s.partialPermission_of_tag h1),
    fun h1 h2 => s.permission_of_partial (s.partialPermission_of_position h1 h2),
    fun h1 h2 h3 => s.permission_of_partial (s.partialPermission_of_mechanism h1 h2 h3),
    fun h1 h2 h3 h4 => ?power, fun h1 h2 h3 h4 h5 => ?stream, fun h1 h2 h3 h4 h5 h6 => ?tripEnergy,
    fun h1 h2 h3 h4 h5 h6 h7 => ?closeEnergy, s.partialPermission_eq_none_iff, fun h => ?partialCheck⟩
  case power =>
    have hpower : s.powerCloses = false := Bool.eq_false_iff.2 fun h => h4 (s.powerCloses_iff.1 h)
    simp [State.permission, s.partialPermission_eq_none_iff.2 ⟨h1, h2, h3⟩, hpower]
  case stream =>
    have hpower := s.powerCloses_iff.2 h4
    simp [State.permission, s.partialPermission_eq_none_iff.2 ⟨h1, h2, h3⟩, hpower, State.fresh, h5]
  case tripEnergy =>
    have hpower := s.powerCloses_iff.2 h4
    simp [State.permission, s.partialPermission_eq_none_iff.2 ⟨h1, h2, h3⟩, hpower, s.fresh_iff.2 h5, State.tripReady, h6]
  case closeEnergy =>
    have hpower := s.powerCloses_iff.2 h4
    simp [State.permission, s.partialPermission_eq_none_iff.2 ⟨h1, h2, h3⟩, hpower, s.fresh_iff.2 h5, s.tripReady_iff.2 h6,
      State.closeReady, h7]
  case partialCheck =>
    cases hp : s.partialPermission with
    | none => exact absurd (s.partialPermission_eq_none_iff.1 hp) h
    | some i => exact (s.permission_of_partial hp).symm

end Sys2Proof.Machine
end

