-- ==== Sys2Proof/Proofs/RangesAndCoils.lean ====
section
/-! How an invariant follows from what each change keeps, and the invariants of the measuring blocks and of the coils (O10, O22). -/

namespace Sys2Proof.Machine

/-! ## The principle -/

/-- Six slots, and no two records with one crew code. -/
abbrev TagTable.Sound (t : TagTable) : Prop := t.slots.length = 6 ∧ (t.records.map TagRecord.crew).Nodup

theorem crewsDistinct_nodup {image : List TagImageRecord} (h : crewsDistinct image = true) : (image.map TagImageRecord.crew).Nodup := by
  induction image with
  | nil => simp
  | cons r rest ih =>
    simp only [crewsDistinct, Bool.and_eq_true, Bool.not_eq_true', List.any_eq_false, beq_iff_eq] at h
    obtain ⟨hr, hrest⟩ := h
    simp only [List.map_cons, List.nodup_cons, List.mem_map, not_exists, not_and]
    exact ⟨hr, ih hrest⟩

/-- A valid tag image fills a sound table. -/
theorem restoredSlots_sound {image : List TagImageRecord} (h : tagImageValid image = true) (w : TagWriteState) (d : Bool) :
    TagTable.Sound { slots := restoredSlots image, writeState := w, durable := d } := by
  simp only [tagImageValid, Bool.and_eq_true, decide_eq_true_eq] at h
  obtain ⟨⟨hlen, -⟩, hcrews⟩ := h
  refine ⟨by simp [restoredSlots]; omega, ?_⟩
  have hrecords : (TagTable.records { slots := restoredSlots image, writeState := w, durable := d }) = image.map restoredRecord := by
    simp [TagTable.records, restoredSlots, List.filterMap_append, List.filterMap_map]
  rw [hrecords, List.map_map]
  exact crewsDistinct_nodup hcrews

theorem bootTags_sound : TagTable.Sound bootTags := by decide

/-- The restored Tag Table is put in force, then the tags it holds take effect (R101, R102). -/
theorem State.restoreTags_evolves (s : State) :
    ∃ x : TagTable, x.Sound ∧ x.writeState = .idle ∧ Evolves (s.setTags x) s.restoreTags := by
  have hdefault : ∀ cause, Evolves (s.setTags bootTags) (s.tagImageDefaulted cause) := fun cause =>
    (State.report_evolves _ _ _).trans (State.report_evolves _ _ _)
  unfold State.restoreTags
  split
  · exact ⟨_, bootTags_sound, rfl, hdefault _⟩
  · exact ⟨_, bootTags_sound, rfl, hdefault _⟩
  · next image _ =>
    split
    · next hvalid =>
      refine ⟨_, restoredSlots_sound hvalid .idle true, rfl, ?_⟩
      exact Evolves.ite (fun _ => .refl) fun _ => State.tagEntry_evolves _
    · exact ⟨_, bootTags_sound, rfl, hdefault _⟩

/-- The tables and the record restored keep the timer of the restore, and with it the arbiter. -/
theorem State.restoreImages_store (s : State) :
    ∃ tables g, s.restoreTables.restoreRecord.store = { s.store with tables := tables, activeGroup := g } := by
  obtain ⟨-, ⟨tables, htables, -⟩, -⟩ := s.restoreTables_effects
  obtain ⟨⟨g, hg⟩, -⟩ := s.restoreTables.restoreRecord_effects
  exact ⟨tables, g, by rw [hg, htables]⟩

/-- What holds at the boots, and what each change, the grant, the end of a tag write and a restored Tag Table keep, every command
keeps. -/
theorem Runs.keeps {P : State → Prop} (hchange : ∀ s t, Change s t → P s → P t) (hgrant : ∀ s, P s → P s.grant)
    (htags : ∀ s image verified, s.store.inFlight = some (.tag image) → P s → P (s.tagWriteEnd image verified))
    (htable : ∀ s (x : TagTable), s.store.restoreTimer.isSome = true → x.Sound → x.writeState = .idle → P s → P (s.setTags x))
    (hboot : ∀ kind nv seconds held free pending, P (bootState kind nv seconds held free pending))
    {s t : State} (h : Runs s t) (hs : P s) : P t := by
  have hfreed : ∀ u : State, P u → P u.arrayFreed := fun u hu => u.grant.idleNotice_evolves.keeps hchange (hgrant u hu)
  cases h with
  | quiet hq _ => exact hq.evolves.keeps hchange hs
  | granted k => exact hgrant _ (k.keeps hchange hs)
  | freed k => exact hfreed _ (k.keeps hchange hs)
  | tagsWritten image verified k hjob => exact hfreed _ (htags _ image verified hjob (k.keeps hchange hs))
  | @restored u k ht =>
    obtain ⟨x, hsound, hidle, htail⟩ := u.restoreTables.restoreRecord.restoreTags_evolves
    obtain ⟨tables, g, hstore⟩ := u.restoreImages_store
    have himages := hchange _ _ .restoreImages (k.keeps hchange hs)
    have hx := htable _ x (by rw [hstore]; exact ht) hsound hidle himages
    exact hgrant _ ((htail.trans (State.restoreEnd_evolves _)).keeps hchange hx)
  | boot => exact hboot _ _ _ _ _ _

/-! ## Windows and sums (R14) -/

theorem WindowExact.push {w : List Int} {sum : Nat} (x : Int) (h : WindowExact w sum) :
    WindowExact (pushWindow w x) (pushSum sum w x) := by
  obtain ⟨hlen, hsum⟩ := h
  have hne : w ≠ [] := by rintro rfl; simp at hlen
  have hsplit : (w.map square).sum = (w.dropLast.map square).sum + square (w.getLast hne) := by
    conv_lhs => rw [← List.dropLast_append_getLast hne]
    simp
  refine ⟨by simp [pushWindow, hlen], ?_⟩
  simp only [pushWindow, pushSum, List.map_cons, List.sum_cons, hsum, hsplit, List.getLastD_eq_getLast?, List.getLast?_eq_some_getLast hne,
    Option.getD_some]
  omega

theorem WindowExact.empty : WindowExact emptyWindow 0 := by
  constructor <;> decide

/-- Windows and sums decide whether the windows are exact. -/
theorem WindowsExact.congr {s t : State} (hw : t.mag.windows = s.mag.windows) (hsum : t.mag.sums = s.mag.sums) (h : WindowsExact s) :
    WindowsExact t := by
  simpa [WindowsExact, hw, hsum] using h

theorem WindowsExact.cleared {t : State} {m : MagnitudeUnit} (h : t.mag = m.cleared) : WindowsExact t := by
  simp [WindowsExact, h, MagnitudeUnit.cleared, Channels.all, WindowExact.empty]

theorem WindowsExact.change (s t : State) (c : Change s t) (h : WindowsExact s) : WindowsExact t := by
  cases c with
  | quiet hq => exact h.congr hq.windows hq.sums
  | push x clip =>
    obtain ⟨ha, hb, hc, hn, hva, hvb, hvc⟩ := h
    exact ⟨ha.push _, hb.push _, hc.push _, hn.push _, hva.push _, hvb.push _, hvc.push _⟩
  | clearWindows => exact .cleared (by simp; rfl)
  | commit req _ =>
    obtain hmag | hmag := s.applyCommit_mag req
    · exact h.congr (by rw [hmag]) (by rw [hmag])
    · exact .cleared hmag
  | restoreImages =>
    obtain hmag | hmag := s.restoreTables_effects.1
    · exact h.congr (by simp [hmag]) (by simp [hmag])
    · exact .cleared (m := s.mag) (by simpa using hmag)
  | _ => exact h.congr (by simp [State.setSlot, State.setBuffer, State.endJob]) (by simp [State.setSlot, State.setBuffer, State.endJob])

theorem WindowsExact.boot (kind : ResetKind) (nv : NvArray) (seconds : Long) (held : Option Nat) (free : Nat) (pending : List Instr) :
    WindowsExact (bootState kind nv seconds held free pending) := by
  simp [WindowsExact, bootState, bootMagnitude, Channels.all, WindowExact.empty]

theorem WindowsExact.runs {s t : State} (r : Runs s t) (h : WindowsExact s) : WindowsExact t :=
  r.keeps WindowsExact.change (fun s h => h.congr (by simp) (by simp)) (fun s _ _ _ h => h.congr (by simp) (by simp))
    (fun s x _ _ _ h => h.congr (by simp) (by simp)) WindowsExact.boot h

/-! ## Accumulators and counters (R25, R27, R30) -/

theorem Accumulator.step_inRange {a : Accumulator} (curve : Table) (m : Nat) (h : a.inRange) : (a.step curve m).inRange := by
  obtain ⟨hvalue, hcount⟩ := h
  unfold Accumulator.step
  split
  · split
    · exact ⟨Nat.min_le_left _ _, Nat.min_le_left _ _⟩
    · exact ⟨hvalue, hcount⟩
  · refine ⟨?_, Nat.zero_le _⟩
    unfold resetValue
    split
    · exact (Nat.sub_le _ _).trans hvalue
    · exact Nat.zero_le _

theorem highSetStep_le (count threshold : Nat) (above : Bool) : highSetStep count threshold above ≤ 255 := by
  unfold highSetStep
  split
  · exact Nat.min_le_left _ _
  · exact Nat.zero_le _

theorem ElementsInRange.congr {s t : State} (ha : t.oc.accs = s.oc.accs) (hp : t.oc.highSetPhase = s.oc.highSetPhase)
    (hg : t.oc.highSetGround = s.oc.highSetGround) (h : ElementsInRange s) : ElementsInRange t := by
  simpa [ElementsInRange, ha, hp, hg] using h

theorem ElementsInRange.stepped {s : State} (i : EvalInput) (h : ElementsInRange s) : ElementsInRange (s.setOc (s.oc.stepped i)) := by
  obtain ⟨ha, hb, hc, hn, -, -⟩ := h
  exact ⟨Accumulator.step_inRange _ _ ha, Accumulator.step_inRange _ _ hb, Accumulator.step_inRange _ _ hc,
    Accumulator.step_inRange _ _ hn, highSetStep_le _ _ _, highSetStep_le _ _ _⟩

theorem ElementsInRange.change (s t : State) (c : Change s t) (h : ElementsInRange s) : ElementsInRange t := by
  cases c with
  | quiet hq => exact h.congr hq.accs hq.highSetPhase hq.highSetGround
  | evaluate i => exact h.stepped i
  | clearElements => simp [ElementsInRange, clearedOvercurrent, Accumulator.inRange, Currents.all, clearAcc]
  | _ =>
    exact h.congr (by simp [State.setSlot, State.setBuffer, State.endJob]) (by simp [State.setSlot, State.setBuffer, State.endJob])
      (by simp [State.setSlot, State.setBuffer, State.endJob])

theorem ElementsInRange.boot (kind : ResetKind) (nv : NvArray) (seconds : Long) (held : Option Nat) (free : Nat) (pending : List Instr) :
    ElementsInRange (bootState kind nv seconds held free pending) := by
  simp [ElementsInRange, bootState, bootOvercurrent, Accumulator.inRange, Currents.all, clearAcc]

theorem ElementsInRange.runs {s t : State} (r : Runs s t) (h : ElementsInRange s) : ElementsInRange t :=
  r.keeps ElementsInRange.change (fun s h => h.congr (by simp) (by simp) (by simp))
    (fun s _ _ _ h => h.congr (by simp) (by simp) (by simp)) (fun s x _ _ _ h => h.congr (by simp) (by simp) (by simp))
    ElementsInRange.boot h

/-! ## The charge (R117 to R120) -/

theorem ChargeBounded.congr {s t : State} (hq : t.battery.q = s.battery.q) (ht : t.store.tables = s.store.tables) (h : ChargeBounded s) :
    ChargeBounded t := by
  simpa [ChargeBounded, State.batteryTable, State.table, hq, ht] using h

theorem ChargeBounded.change (s t : State) (c : Change s t) (h : ChargeBounded s) : ChargeBounded t := by
  cases c with
  | quiet hq => exact h.congr hq.q hq.tables
  | setQ hb => exact hb h
  | commit req _ => exact s.applyCommit_charge req h
  | restoreImages => exact s.restoreTables.restoreRecord_effects.2.2
  | _ =>
    exact h.congr (by simp [State.setSlot, State.setBuffer, State.endJob])
      (by simp [State.setSlot, State.setBuffer, State.endJob, State.startTimers])

/-- The end of a tag write keeps the active tables. -/
theorem State.tagWriteEnd_store (s : State) (image : List TagImageRecord) (verified : Bool) :
    (s.tagWriteEnd image verified).store = (s.storeTagImage image verified).endJob.store := by
  simp [State.tagWriteEnd]

theorem State.tagWriteEnd_tables (s : State) (image : List TagImageRecord) (verified : Bool) :
    (s.tagWriteEnd image verified).store.tables = s.store.tables ∧ (s.tagWriteEnd image verified).store.buffer = s.store.buffer := by
  rw [s.tagWriteEnd_store]
  unfold State.storeTagImage
  split <;> exact ⟨rfl, rfl⟩

theorem ChargeBounded.boot (kind : ResetKind) (nv : NvArray) (seconds : Long) (held : Option Nat) (free : Nat) (pending : List Instr) :
    ChargeBounded (bootState kind nv seconds held free pending) := by
  simp [ChargeBounded, bootState, bootBattery]

theorem ChargeBounded.runs {s t : State} (r : Runs s t) (h : ChargeBounded s) : ChargeBounded t :=
  r.keeps ChargeBounded.change (fun s h => h.congr (by simp) (by simp))
    (fun s image verified _ h => h.congr (by simp) (s.tagWriteEnd_tables image verified).1)
    (fun s x _ _ _ h => h.congr (by simp) (by simp)) ChargeBounded.boot h

/-- Settles O10: each of the three is kept by every command and by the base. -/
theorem rangesKept : Obligations.RangesKept := by
  unfold Obligations.RangesKept
  exact ⟨fun _ _ h hstep => h.runs (step_runs hstep), fun _ _ h hstep => h.runs (step_runs hstep),
    fun _ _ h hstep => h.runs (step_runs hstep)⟩

/-! ## The coils (R72, R77, R85) -/

theorem PulsesApart.congr {s t : State} (ha : t.act = s.act) (h : PulsesApart s) : PulsesApart t := by
  simpa [PulsesApart, ha] using h

/-- With CLOSE inactive the pulses are apart. -/
theorem PulsesApart.of_close {t : State} (h : t.act.close = false) : PulsesApart t := by
  simp [PulsesApart, h]

theorem PulsesApart.change (s t : State) (c : Change s t) (h : PulsesApart s) : PulsesApart t := by
  cases c with
  | quiet hq => exact h.congr hq.act
  | relax hr =>
    obtain ⟨happart, hwait⟩ := h
    refine ⟨fun hlines => happart ⟨hr.trip hlines.1, hr.close hlines.2⟩, fun hsup => ?_⟩
    rcases hr.supervision with hsame | hnone
    · exact Bool.eq_false_iff.2 fun hc => Bool.eq_false_iff.1 (hwait (hsame ▸ hsup)) (hr.close hc)
    · exact absurd (hnone.symm.trans hsup) (by decide)
  | startTrip _ hc _ => exact .of_close hc
  | repeatTrip _ _ hw => exact .of_close (h.2 hw)
  | startClose _ ht => exact ⟨by simp [State.startClose, ht], by simp [State.startClose]⟩
  | failMechanism _ hc _ _ => exact .of_close hc
  | holdTrip _ => exact h
  | _ => exact h.congr (by simp [State.setSlot, State.setBuffer, State.endJob])

theorem PulsesApart.runs {s t : State} (r : Runs s t) (h : PulsesApart s) : PulsesApart t :=
  r.keeps PulsesApart.change (fun s h => h.congr (by simp)) (fun s _ _ _ h => h.congr (by simp))
    (fun s x _ _ _ h => h.congr (by simp)) (fun _ _ _ _ _ _ => .of_close rfl) h

theorem LatchHolds.congr {s t : State} (ha : t.act = s.act) (h : LatchHolds s) : LatchHolds t := by
  simpa [LatchHolds, ha] using h

/-- With the latch clear the rule asks for nothing. -/
theorem LatchHolds.of_clear {t : State} (h : t.act.latch = false) : LatchHolds t := by
  simp [LatchHolds, h]

theorem LatchHolds.change (s t : State) (c : Change s t) (h : LatchHolds s) : LatchHolds t := by
  cases c with
  | quiet hq => exact h.congr hq.act
  | @relax a hr =>
    intro hlatch
    obtain ⟨htrip, hclose, hsup, hheld⟩ := h (hr.latch ▸ hlatch)
    refine ⟨Bool.eq_false_iff.2 fun k => Bool.eq_false_iff.1 htrip (hr.trip k),
      Bool.eq_false_iff.2 fun k => Bool.eq_false_iff.1 hclose (hr.close k), ?_,
      Bool.eq_false_iff.2 fun k => Bool.eq_false_iff.1 hheld (hr.heldTrip k)⟩
    rcases hr.supervision with hsame | hnone
    · exact hsame.trans hsup
    · exact hnone
  | @startTrip a hs _ hl =>
    rcases hs with hclear | hheld
    · exact .of_clear (hl.trans hclear)
    · refine .of_clear (hl.trans (Bool.eq_false_iff.2 fun k => ?_))
      exact Bool.eq_false_iff.1 (h k).2.2.2 hheld
  | repeatTrip _ _ hw =>
    refine .of_clear (Bool.eq_false_iff.2 fun k => ?_)
    exact absurd ((h k).2.2.1.symm.trans hw) (by decide)
  | holdTrip hclear => exact .of_clear hclear
  | startClose hp _ => exact .of_clear (by simpa [State.startClose] using State.latch_of_permission hp)
  | failMechanism ht hc hv hh => exact fun _ => ⟨ht, hc, hv, hh⟩
  | _ => exact h.congr (by simp [State.setSlot, State.setBuffer, State.endJob])

theorem LatchHolds.runs {s t : State} (r : Runs s t) (h : LatchHolds s) : LatchHolds t :=
  r.keeps LatchHolds.change (fun s h => h.congr (by simp)) (fun s _ _ _ h => h.congr (by simp))
    (fun s x _ _ _ h => h.congr (by simp)) (fun _ _ _ _ _ _ => .of_clear rfl) h

/-- Settles O22: both rules of the coils are kept by every command and by the base. -/
theorem coilSafetyKept : Obligations.CoilSafetyKept := by
  unfold Obligations.CoilSafetyKept
  exact ⟨fun _ _ h hstep => h.runs (step_runs hstep), fun _ _ h hstep => h.runs (step_runs hstep)⟩

end Sys2Proof.Machine
end

