-- ==== Sys2Proof/Proofs/TablesAndQueues.lean ====
section
/-! The Tag Table, the Report Queue and the ring of fault records stay sound (O27). -/

namespace Sys2Proof.Machine

/-! ## Slots with distinct crew codes (R88) -/

/-- No two slots hold records with one crew code. -/
def CrewsApart (slots : List (Option TagRecord)) : Prop :=
  ∀ (i j : Nat) (x y : TagRecord), i < j → slots[i]? = some (some x) → slots[j]? = some (some y) → x.crew ≠ y.crew

theorem nodup_crews_iff (slots : List (Option TagRecord)) :
    ((slots.filterMap id).map TagRecord.crew).Nodup ↔ CrewsApart slots := by
  rw [List.map_filterMap, List.Nodup, List.pairwise_filterMap, List.pairwise_iff_getElem]
  constructor
  · intro h i j x y hij hi hj
    obtain ⟨hilt, hi⟩ := List.getElem?_eq_some_iff.1 hi
    obtain ⟨hjlt, hj⟩ := List.getElem?_eq_some_iff.1 hj
    exact h i j hilt hjlt hij x.crew (by simp [hi]) y.crew (by simp [hj])
  · intro h i j hi hj hij a ha b hb
    simp only [Option.map_eq_some_iff, id] at ha hb
    obtain ⟨x, hx, rfl⟩ := ha
    obtain ⟨y, hy, rfl⟩ := hb
    exact h i j x y hij (List.getElem?_eq_some_iff.2 ⟨hi, hx⟩) (List.getElem?_eq_some_iff.2 ⟨hj, hy⟩)

theorem TagTable.sound_iff (t : TagTable) : t.Sound ↔ t.slots.length = 6 ∧ CrewsApart t.slots := by
  rw [← nodup_crews_iff]
  exact Iff.rfl

theorem CrewsApart.ne {slots : List (Option TagRecord)} (h : CrewsApart slots) {i j : Nat} {x y : TagRecord} (hij : i ≠ j)
    (hi : slots[i]? = some (some x)) (hj : slots[j]? = some (some y)) : x.crew ≠ y.crew := by
  rcases Nat.lt_or_gt_of_ne hij with hlt | hgt
  · exact h i j x y hlt hi hj
  · exact (h j i y x hgt hj hi).symm

/-- A slot written with a record whose crew code no other slot holds, or freed, keeps the crews apart. -/
theorem CrewsApart.set {slots : List (Option TagRecord)} (h : CrewsApart slots) (k : Nat) (o : Option TagRecord)
    (ho : ∀ r, o = some r → ∀ j y, j ≠ k → slots[j]? = some (some y) → y.crew ≠ r.crew) : CrewsApart (slots.set k o) := by
  intro i j x y hij hi hj
  rw [List.getElem?_set] at hi hj
  split at hi
  · next hik =>
    split at hi
    · rw [if_neg (by omega)] at hj
      exact (ho x (by simpa using hi) j y (by omega) hj).symm
    · cases hi
  · split at hj
    · split at hj
      · exact ho y (by simpa using hj) i x (by omega) hi
      · cases hj
    · exact h i j x y hij hi hj

/-- A change of the records that keeps their crew codes keeps the crews apart. -/
theorem CrewsApart.map {slots : List (Option TagRecord)} (h : CrewsApart slots) {f : TagRecord → TagRecord}
    (hf : ∀ r, (f r).crew = r.crew) : CrewsApart (slots.map (Option.map f)) := by
  intro i j x y hij hi hj
  simp only [List.getElem?_map, Option.map_eq_some_iff] at hi hj
  obtain ⟨a, ha, x', rfl, rfl⟩ := hi
  obtain ⟨b, hb, y', rfl, rfl⟩ := hj
  rw [hf, hf]
  exact h i j x' y' hij ha hb

theorem TagTable.at_eq_some_iff (t : TagTable) (i : Nat) (r : TagRecord) : t.at i = some r ↔ t.slots[i]? = some (some r) := by
  rw [TagTable.at, List.getD_eq_getElem?_getD]
  cases t.slots[i]? <;> simp

/-- A crew code that is not found is in no slot. -/
theorem TagTable.find_eq_none_iff (t : TagTable) (crew : Word) :
    t.find crew = none ↔ ∀ (j : Nat) (y : TagRecord), t.slots[j]? = some (some y) → y.crew ≠ crew := by
  rw [TagTable.find, List.findIdx?_eq_none_iff]
  constructor
  · intro h j y hj
    simpa using h _ (List.mem_of_getElem? hj)
  · intro h o ho
    obtain ⟨j, hj⟩ := List.getElem?_of_mem ho
    cases o with
    | none => rfl
    | some y => simpa using h j y hj

/-! ## The Tag Table -/

theorem TagTableSound.congr {s t : State} (h : t.tags = s.tags) (hs : TagTableSound s) : TagTableSound t := by
  simpa [TagTableSound, h] using hs

/-- A record written over one with its crew code, and a freed slot, keep the table sound. -/
theorem TagTable.Sound.set {t : TagTable} (h : t.Sound) {i : Nat} {r : TagRecord} (hat : t.at i = some r) (o : Option TagRecord)
    (ho : ∀ r', o = some r' → r'.crew = r.crew) : TagTable.Sound { t with slots := t.slots.set i o } := by
  obtain ⟨hlen, hapart⟩ := t.sound_iff.1 h
  refine (TagTable.sound_iff _).2 ⟨by simpa using hlen, hapart.set i o fun r' hr' j y hji hj => ?_⟩
  rw [ho r' hr']
  exact hapart.ne hji hj ((t.at_eq_some_iff i r).1 hat)

/-- A record of a new crew keeps the table sound, in whatever slot it is placed. -/
theorem TagTable.Sound.place {t : TagTable} (h : t.Sound) (i : Nat) {r : TagRecord} (hr : t.find r.crew = none) :
    TagTable.Sound { t with slots := t.slots.set i (some r) } := by
  obtain ⟨hlen, hapart⟩ := t.sound_iff.1 h
  refine (TagTable.sound_iff _).2 ⟨by simpa using hlen, hapart.set i _ fun r' hr' j y _ hj => ?_⟩
  cases hr'
  exact (t.find_eq_none_iff r.crew).1 hr j y hj

theorem TagTable.Sound.setWriteState {t : TagTable} (h : t.Sound) (w : TagWriteState) (d : Bool) :
    TagTable.Sound { t with writeState := w, durable := d } := h

theorem State.requestTagWrite_tags (s : State) : ∃ w, s.requestTagWrite.tags = { s.tags with writeState := w } := by
  unfold State.requestTagWrite
  split
  · exact ⟨_, rfl⟩
  · exact ⟨s.tags.writeState, rfl⟩

theorem TagTableSound.change (s t : State) (c : Change s t) (h : TagTableSound s) : TagTableSound t := by
  cases c with
  | quiet hq => exact h.congr hq.tags
  | placeTag i hfind => exact TagTable.Sound.place h i hfind
  | amendTag i hat hcrew => exact TagTable.Sound.set h hat _ (by rintro _ ⟨⟩; exact hcrew)
  | requestTagWrite _ =>
    obtain ⟨w, hw⟩ := s.requestTagWrite_tags
    unfold TagTableSound
    rw [hw]
    exact h
  | _ => exact h.congr (by simp [State.setBuffer, State.endJob])

theorem TagRecord.granted_crew (r : TagRecord) : r.granted.crew = r.crew := by
  unfold TagRecord.granted; split <;> rfl

theorem State.grant_tags_cases (s : State) :
    s.grant.tags = s.tags ∨
      s.grant.tags = { s.tags with slots := s.tags.slots.map (Option.map TagRecord.granted), writeState := .inFlight } := by
  unfold State.grant
  split
  · exact .inl rfl
  · split
    · exact .inr rfl
    · split
      · exact .inl rfl
      · split <;> exact .inl rfl

theorem TagTableSound.grant (s : State) (h : TagTableSound s) : TagTableSound s.grant := by
  rcases s.grant_tags_cases with hsame | hgranted
  · exact h.congr hsame
  · obtain ⟨hlen, hapart⟩ := (TagTable.sound_iff _).1 h
    refine (TagTable.sound_iff _).2 ?_
    rw [hgranted]
    exact ⟨by simpa using hlen, hapart.map TagRecord.granted_crew⟩

theorem concludedRecord_crew {verified : Bool} {r r' : TagRecord} (h : concludedRecord verified r = some r') : r'.crew = r.crew := by
  unfold concludedRecord at h
  split at h
  · cases h
  · cases h; rfl

theorem TagTableSound.concludeSlot (verified : Bool) (s : State) (i : Nat) (h : TagTableSound s) :
    TagTableSound (State.concludeSlot verified s i) := by
  unfold State.concludeSlot
  split
  · exact h
  · next r hat =>
    split
    · unfold TagTableSound
      rw [s.concludeRecord_tags verified i r]
      exact TagTable.Sound.set h hat _ fun r' hr' => concludedRecord_crew hr'
    · exact h

/-- What the conclusion of one slot keeps, the conclusion of all keeps. -/
theorem State.concludeSlots_keeps {P : State → Prop} {verified : Bool} (hP : ∀ s i, P s → P (State.concludeSlot verified s i)) {s : State}
    (h : P s) : P (s.concludeSlots verified) :=
  List.foldlRecOn (motive := P) _ _ h fun t ht i _ => hP t i ht

/-- The state once a tag write has ended and its records are concluded, before the write state is looked at again. -/
def State.concluded (s : State) (image : List TagImageRecord) (verified : Bool) : State :=
  ((s.storeTagImage image verified).endJob.setTags
    { (s.storeTagImage image verified).endJob.tags with durable := verified }).concludeSlots verified

theorem State.tagWriteEnd_eq (s : State) (image : List TagImageRecord) (verified : Bool) :
    s.tagWriteEnd image verified =
      (s.concluded image verified).setTags
        { (s.concluded image verified).tags with writeState := (s.concluded image verified).tags.nextWriteState } := rfl

theorem TagTableSound.tagWriteEnd (s : State) (image : List TagImageRecord) (verified : Bool) (h : TagTableSound s) :
    TagTableSound (s.tagWriteEnd image verified) := by
  have hconcluded : TagTableSound (s.concluded image verified) := by
    refine State.concludeSlots_keeps (fun u i => TagTableSound.concludeSlot verified u i) ?_
    simpa [TagTableSound, TagTable.records, State.endJob] using h
  rw [s.tagWriteEnd_eq]
  simpa [TagTableSound, TagTable.records] using hconcluded

theorem TagTableSound.runs {s t : State} (r : Runs s t) (h : TagTableSound s) : TagTableSound t :=
  r.keeps TagTableSound.change TagTableSound.grant (fun s image verified _ => TagTableSound.tagWriteEnd s image verified)
    (fun _ _ _ hsound _ _ => hsound) (fun _ _ _ _ _ _ => bootTags_sound) h

/-! ## The Report Queue (R136, R138) -/

theorem QueueSound.congr {s t : State} (h : t.reports.records = s.reports.records) (hs : QueueSound s) : QueueSound t := by
  simpa [QueueSound, h] using hs

theorem QueueSound.report (s : State) (cls : Nat) (body : ReportBody) (h : QueueSound s) : QueueSound (s.report cls body) :=
  RecordsSound.enter cls s.cmd.seconds body h

theorem QueueSound.change (s t : State) (c : Change s t) (h : QueueSound s) : QueueSound t := by
  cases c with
  | quiet hq => exact h.congr hq.records
  | queue hq => exact hq h
  | commit req _ => exact h.congr (s.applyCommit_records req)
  | restoreImages => exact s.restoreTables.restoreRecord_effects.2.1 (s.restoreTables_effects.2.2 h)
  | _ => exact h.congr (by simp [State.setSlot, State.setBuffer, State.endJob, State.startTimers])

theorem QueueSound.concludeRecord (verified : Bool) (s : State) (i : Nat) (r : TagRecord) (h : QueueSound s) :
    QueueSound (s.concludeRecord verified i r) := by
  have hanswered : ∀ (o : Option TagRecord) k c st, QueueSound ((s.setSlot i o).answerTag r k c i st) := fun o k c st =>
    h.congr (by simp [State.setSlot])
  unfold State.concludeRecord
  split
  · exact .report _ _ _ (hanswered _ _ _ _)
  · exact .report _ _ _ (hanswered _ _ _ _)
  · exact .report _ _ _ (hanswered _ _ _ _)
  · exact .report _ _ _ (hanswered _ _ _ _)
  · exact h

theorem QueueSound.concludeSlot (verified : Bool) (s : State) (i : Nat) (h : QueueSound s) :
    QueueSound (State.concludeSlot verified s i) := by
  unfold State.concludeSlot
  split
  · exact h
  · split
    · exact h.concludeRecord verified s i _
    · exact h

theorem QueueSound.tagWriteEnd (s : State) (image : List TagImageRecord) (verified : Bool) (h : QueueSound s) :
    QueueSound (s.tagWriteEnd image verified) := by
  have hconcluded : QueueSound (s.concluded image verified) := by
    refine State.concludeSlots_keeps (fun u i => QueueSound.concludeSlot verified u i) (h.congr ?_)
    simp [State.endJob]
  rw [s.tagWriteEnd_eq]
  exact hconcluded.congr (by simp)

theorem QueueSound.boot (kind : ResetKind) (nv : NvArray) (seconds : Long) (held : Option Nat) (free : Nat) (pending : List Instr) :
    QueueSound (bootState kind nv seconds held free pending) := by
  simp [QueueSound, bootState, bootReports]

theorem QueueSound.runs {s t : State} (r : Runs s t) (h : QueueSound s) : QueueSound t :=
  r.keeps QueueSound.change (fun s h => h.congr (by simp)) (fun s image verified _ => QueueSound.tagWriteEnd s image verified)
    (fun s x _ _ _ h => h.congr (by simp)) QueueSound.boot h

/-! ## The ring of fault records (R152) -/

/-- The consecutive numbers below the next one, oldest first. -/
def numbersBelow (next : Word) (n : Nat) : List Word := (List.range n).map fun k => next - BitVec.ofNat 16 (n - k)

theorem numbersBelow_succ (next : Word) (n : Nat) : numbersBelow (next + 1) (n + 1) = numbersBelow next n ++ [next] := by
  simp only [numbersBelow, List.range_succ, List.map_append, List.map_cons, List.map_nil]
  congr 1
  · refine List.map_congr_left fun k hk => ?_
    have hsucc : n + 1 - k = (n - k) + 1 := by have := List.mem_range.1 hk; omega
    rw [hsucc, BitVec.ofNat_add]
    exact add_sub_add_right_eq_sub _ _ _
  · simp

theorem numbersBelow_drop (next : Word) (n : Nat) : (numbersBelow next (n + 1)).drop 1 = numbersBelow next n := by
  simp [numbersBelow, List.range_succ_eq_map, Function.comp_def]

theorem FaultRingSound.congr {s t : State} (hr : t.faults.ring = s.faults.ring) (hn : t.faults.nextNumber = s.faults.nextNumber)
    (h : FaultRingSound s) : FaultRingSound t := by
  simpa [FaultRingSound, hr, hn] using h

/-- A record kept with the next number follows those that stay. -/
theorem keepRecord_sound {ring : List FaultRecord} {next : Word} {r : FaultRecord} (hr : r.number = next) (hlen : ring.length ≤ 16)
    (hnumbers : ring.map FaultRecord.number = numbersBelow next ring.length) :
    (keepRecord ring r).length ≤ 16 ∧
      (keepRecord ring r).map FaultRecord.number = numbersBelow (next + 1) (keepRecord ring r).length := by
  unfold keepRecord
  split
  · refine ⟨by simp; omega, ?_⟩
    rw [List.map_append, hnumbers, List.length_append, List.length_singleton, numbersBelow_succ, List.map_singleton, hr]
  · obtain ⟨n, hn⟩ : ∃ n, ring.length = n + 1 := ⟨ring.length - 1, by omega⟩
    refine ⟨by simp; omega, ?_⟩
    have hdropped : (ring.drop 1).map FaultRecord.number = numbersBelow next n := by
      rw [List.map_drop, hnumbers, hn, numbersBelow_drop]
    have hlength : (ring.drop 1).length = n := by simp [hn]
    rw [List.map_append, hdropped, List.length_append, hlength, List.length_singleton, numbersBelow_succ, List.map_singleton, hr]

theorem FaultRingSound.change (s t : State) (c : Change s t) (h : FaultRingSound s) : FaultRingSound t := by
  cases c with
  | quiet hq => exact h.congr hq.ring hq.faultNumber
  | keepFault r outcome => exact keepRecord_sound rfl h.1 h.2
  | _ =>
    exact h.congr (by simp [State.setSlot, State.setBuffer, State.endJob]) (by simp [State.setSlot, State.setBuffer, State.endJob])

theorem FaultRingSound.boot (kind : ResetKind) (nv : NvArray) (seconds : Long) (held : Option Nat) (free : Nat) (pending : List Instr) :
    FaultRingSound (bootState kind nv seconds held free pending) := by
  simp [FaultRingSound, bootState, bootFaultLog]

theorem FaultRingSound.runs {s t : State} (r : Runs s t) (h : FaultRingSound s) : FaultRingSound t :=
  r.keeps FaultRingSound.change (fun s h => h.congr (by simp) (by simp)) (fun s _ _ _ h => h.congr (by simp) (by simp))
    (fun s x _ _ _ h => h.congr (by simp) (by simp)) FaultRingSound.boot h

/-- Settles O27: each of the three is kept by every command and by the base. -/
theorem tablesAndQueuesStaySound : Obligations.TablesAndQueuesStaySound := by
  unfold Obligations.TablesAndQueuesStaySound
  exact ⟨fun _ _ h hstep => h.runs (step_runs hstep), fun _ _ h hstep => h.runs (step_runs hstep),
    fun _ _ h hstep => h.runs (step_runs hstep)⟩

end Sys2Proof.Machine
end

