-- ==== Sys2Proof/Proofs/StoreAndTags.lean ====
section
/-! The active tables stay valid (O48), the arbiter stays sound (O49), a tag stops every close (O23), and the reset state meets
every invariant (O59). -/

namespace Sys2Proof.Machine

/-! ## Active tables and the staging buffer (R156, R158 to R161) -/

theorem TablesValid.congr {s t : State} (ht : t.store.tables = s.store.tables) (h : TablesValid s) : TablesValid t := by
  simpa [TablesValid, ht] using h

theorem BufferSound.congr {s t : State} (hb : t.store.buffer = s.store.buffer) (h : BufferSound s) : BufferSound t := by
  simpa [BufferSound, hb] using h

/-- An image that may be put into force is valid for its table. -/
theorem BufferSound.image_valid {s : State} (h : BufferSound s) (hready : s.commitReady) :
    imageValid s.store.buffer.table s.store.buffer.image = true := by
  obtain ⟨hfits, hchecked⟩ := h
  have hvalid : firstInvalid s.store.buffer.table s.store.buffer.image = none := by
    rcases hready with hpending | ⟨-, hnone⟩
    · exact hchecked hpending
    · exact hnone
  obtain ⟨-, -, hlen, hlength⟩ := hfits (by rcases hready with hpending | ⟨hloading, -⟩ <;> simp [*])
  simp [imageValid, hlen, hlength, hvalid]

/-- The two statements of the Table Store together. -/
def StoreValid (s : State) : Prop := TablesValid s ∧ BufferSound s

theorem StoreValid.congr {s t : State} (ht : t.store.tables = s.store.tables) (hb : t.store.buffer = s.store.buffer) (h : StoreValid s) :
    StoreValid t := ⟨h.1.congr ht, h.2.congr hb⟩

theorem StoreValid.commit {s : State} (req : Option Req) (hready : s.commitReady) (h : StoreValid s) : StoreValid (s.applyCommit req) := by
  obtain ⟨htables, hbuffer⟩ := h
  have hstore := s.applyCommit_store req
  constructor
  · unfold TablesValid
    rw [hstore]
    exact TablesValid.set (hbuffer.image_valid hready) htables
  · exact BufferSound.of_rest (by simp [hstore, State.imaged]) (by simp [hstore, State.imaged])

theorem StoreValid.change (s t : State) (c : Change s t) (h : StoreValid s) : StoreValid t := by
  cases c with
  | quiet hq => exact h.congr hq.tables hq.buffer
  | commit req hready => exact h.commit req hready
  | stage hb => exact ⟨h.1.congr rfl, hb h.2⟩
  | restoreImages =>
    obtain ⟨-, ⟨tables, hstore, hvalid⟩, -⟩ := s.restoreTables_effects
    obtain ⟨⟨g, hg⟩, -⟩ := s.restoreTables.restoreRecord_effects
    exact ⟨(hvalid h.1).congr (by rw [hg]), h.2.congr (by rw [hg, hstore])⟩
  | _ =>
    exact h.congr (by simp [State.setSlot, State.endJob, State.startTimers]) (by simp [State.setSlot, State.endJob, State.startTimers])

theorem mem_writableIds {id : Nat} (h1 : 1 ≤ id) (h14 : id ≤ 14) : id ∈ writableIds := by
  simp only [writableIds, List.mem_cons, List.not_mem_nil, or_false]
  omega

theorem StoreValid.boot (kind : ResetKind) (nv : NvArray) (seconds : Long) (held : Option Nat) (free : Nat) (pending : List Instr) :
    StoreValid (bootState kind nv seconds held free pending) :=
  ⟨⟨rfl, fun _ h1 h14 => romTable_valid (mem_writableIds h1 h14)⟩, BufferSound.of_rest (fun h => by cases h) (fun h => by cases h)⟩

theorem StoreValid.runs {s t : State} (r : Runs s t) (h : StoreValid s) : StoreValid t :=
  r.keeps StoreValid.change (fun s h => h.congr (by simp) (by simp))
    (fun s image verified _ h => h.congr (s.tagWriteEnd_tables image verified).1 (s.tagWriteEnd_tables image verified).2)
    (fun s x _ _ _ h => h.congr (by simp) (by simp)) StoreValid.boot h

/-- Settles O48: tables and buffer together are kept by every command and by the base. -/
theorem activeTablesStayValid : Obligations.ActiveTablesStayValid := by
  unfold Obligations.ActiveTablesStayValid
  exact fun _ _ htables hbuffer hstep => StoreValid.runs (step_runs hstep) ⟨htables, hbuffer⟩

/-! ## The arbiter (R90, R166) -/

/-- Tag writes agree with the Tag Table: what the arbiter keeps in the midst of an event as well. -/
def TagWritesAgree (s : State) : Prop :=
  (s.tags.writeState = .inFlight ↔ ∃ image, s.store.inFlight = some (.tag image)) ∧
  (s.store.restoreTimer.isSome = true → s.supply.restoreMark = false ∧ s.tags.writeState = .idle)

theorem TagWritesAgree.congr {s t : State} (hw : t.tags.writeState = s.tags.writeState) (hj : t.store.inFlight = s.store.inFlight)
    (hr : t.store.restoreTimer = s.store.restoreTimer) (hm : t.supply.restoreMark = s.supply.restoreMark) (h : TagWritesAgree s) :
    TagWritesAgree t := by
  simpa [TagWritesAgree, hw, hj, hr, hm] using h

theorem TagWritesAgree.requestTagWrite {s : State} (hmark : s.supply.restoreMark = true) (h : TagWritesAgree s) :
    TagWritesAgree s.requestTagWrite := by
  obtain ⟨hagree, hrestore⟩ := h
  unfold State.requestTagWrite
  split
  · next hidle =>
    have hnone : ¬ ∃ image, s.store.inFlight = some (.tag image) := fun hjob => by simp [hagree.2 hjob] at hidle
    refine ⟨by simpa using hnone, fun hr => ?_⟩
    simp [(hrestore hr).1] at hmark
  · exact ⟨hagree, hrestore⟩

theorem TagWritesAgree.endJob {s : State} (hjob : ∀ image, s.store.inFlight ≠ some (.tag image)) (h : TagWritesAgree s) :
    TagWritesAgree s.endJob := by
  obtain ⟨hagree, hrestore⟩ := h
  refine ⟨?_, hrestore⟩
  have hnot : s.tags.writeState ≠ .inFlight := fun hw => by
    obtain ⟨image, himage⟩ := hagree.1 hw
    exact hjob image himage
  simpa [State.endJob] using hnot

theorem TagWritesAgree.change (s t : State) (c : Change s t) (h : TagWritesAgree s) : TagWritesAgree t := by
  cases c with
  | quiet hq => exact h.congr (by rw [hq.tags]) hq.inFlight hq.restoreTimer hq.restoreMark
  | commit req _ =>
    have hstore := s.applyCommit_store req
    exact h.congr (by simp) (by rw [hstore]; rfl) (by rw [hstore]; rfl) (by simp)
  | requestTagWrite hmark => exact h.requestTagWrite hmark
  | endJob hjob => exact h.endJob hjob
  | restoreImages =>
    obtain ⟨tables, g, hstore⟩ := s.restoreImages_store
    exact h.congr (by simp) (by rw [hstore]) (by rw [hstore]) (by simp)
  | startTimers => exact ⟨by simpa [State.startTimers] using h.1, by simp [State.startTimers]⟩
  | markRestored hr => exact ⟨by simpa using h.1, by simp [hr]⟩
  | _ =>
    exact h.congr (by simp [State.setSlot, State.setBuffer]) (by simp [State.setSlot, State.setBuffer])
      (by simp [State.setSlot, State.setBuffer]) (by simp [State.setSlot, State.setBuffer])

theorem TagWritesAgree.grant (s : State) (h : TagWritesAgree s) : TagWritesAgree s.grant := by
  obtain ⟨hagree, hrestore⟩ := h
  unfold State.grant
  split
  · exact ⟨hagree, hrestore⟩
  · next hfree =>
    have hnot : s.tags.writeState ≠ .inFlight := fun hw => by simpa [hfree] using hagree.1 hw
    split
    · next hwaiting => exact ⟨by simp, fun hr => by simp [(hrestore hr).2] at hwaiting⟩
    · split
      · exact ⟨by simpa using hnot, hrestore⟩
      · split
        · exact ⟨by simpa using hnot, hrestore⟩
        · exact ⟨hagree, hrestore⟩

theorem TagTable.nextWriteState_ne (t : TagTable) : t.nextWriteState ≠ .inFlight := by
  unfold TagTable.nextWriteState
  split <;> decide

theorem State.storeTagImage_restoreTimer (s : State) (image : List TagImageRecord) (verified : Bool) :
    (s.storeTagImage image verified).store.restoreTimer = s.store.restoreTimer := by
  unfold State.storeTagImage
  split <;> rfl

theorem TagWritesAgree.tagWriteEnd (s : State) (image : List TagImageRecord) (verified : Bool) (hjob : s.store.inFlight = some (.tag image))
    (h : TagWritesAgree s) : TagWritesAgree (s.tagWriteEnd image verified) := by
  obtain ⟨hagree, hrestore⟩ := h
  have hflight := hagree.2 ⟨image, hjob⟩
  have hstopped : s.store.restoreTimer.isSome ≠ true := fun hr => by simp [(hrestore hr).2] at hflight
  constructor
  · rw [s.tagWriteEnd_store]
    simpa [s.tagWriteEnd_eq, State.endJob] using TagTable.nextWriteState_ne _
  · intro hr
    rw [s.tagWriteEnd_store] at hr
    exact absurd (by simpa [State.endJob, State.storeTagImage_restoreTimer] using hr) hstopped

theorem TagWritesAgree.boot (kind : ResetKind) (nv : NvArray) (seconds : Long) (held : Option Nat) (free : Nat) (pending : List Instr) :
    TagWritesAgree (bootState kind nv seconds held free pending) := by
  simp [TagWritesAgree, bootState, bootTags, bootStore, bootSupply]

theorem TagWritesAgree.runs {s t : State} (r : Runs s t) (h : TagWritesAgree s) : TagWritesAgree t := by
  refine r.keeps TagWritesAgree.change TagWritesAgree.grant TagWritesAgree.tagWriteEnd (fun s x hr _ hidle h => ?_)
    TagWritesAgree.boot h
  have hsame : (s.setTags x).tags.writeState = s.tags.writeState := by rw [(h.2 hr).2]; exact hidle
  exact TagWritesAgree.congr hsame rfl rfl rfl h

/-- While the array is free nothing waits for the grant. -/
def NoneWaits (s : State) : Prop :=
  s.store.inFlight = none → s.tags.writeState ≠ .waiting ∧ s.store.recordWaiting = none ∧ s.store.tableWaiting = false

theorem NoneWaits.congr {s t : State} (hs : t.store = s.store) (ht : t.tags = s.tags) (h : NoneWaits s) : NoneWaits t := by
  simpa [NoneWaits, hs, ht] using h

/-- The grant takes what waits while the array is free (R166). -/
theorem State.grant_noneWaits (s : State) : NoneWaits s.grant := by
  intro h
  cases hjob : s.store.inFlight with
  | some j =>
    rw [s.grant_of_nothing (.inl (by simp [hjob]))] at h
    simp [hjob] at h
  | none =>
    by_cases hwaiting : s.tags.writeState = .waiting
    · simp [State.grant, hjob, hwaiting] at h
    · cases hrecord : s.store.recordWaiting with
      | some c => simp [State.grant, hjob, hwaiting, hrecord] at h
      | none =>
        cases htable : s.store.tableWaiting with
        | true => simp [State.grant, hjob, hwaiting, hrecord, htable] at h
        | false => simp [State.grant, hjob, hwaiting, hrecord, htable]

theorem NoneWaits.runs {s t : State} (r : Runs s t) (h : NoneWaits s) : NoneWaits t := by
  have hfreed : ∀ u : State, NoneWaits u.arrayFreed := fun u => NoneWaits.congr (s := u.grant) (by simp [State.arrayFreed])
    (by simp [State.arrayFreed]) u.grant_noneWaits
  cases r with
  | quiet hq hs => exact h.congr hs hq.tags
  | granted k => exact State.grant_noneWaits _
  | freed k => exact hfreed _
  | tagsWritten image verified k hjob => exact hfreed _
  | restored k hr => exact State.grant_noneWaits _
  | boot => exact fun _ => ⟨nofun, rfl, rfl⟩

/-- The arbiter is sound exactly when tag writes agree with the Tag Table and nothing waits for a free array. -/
theorem arbiterSound_iff (s : State) : ArbiterSound s ↔ NoneWaits s ∧ TagWritesAgree s := by
  have hidle : s.arbiterIdle = true ↔ s.store.inFlight = none ∧ s.tags.writeState = .idle ∧ s.store.recordWaiting = none ∧
      s.store.tableWaiting = false := by
    simp [State.arbiterIdle, and_assoc]
  constructor
  · rintro ⟨hfree, hagree⟩
    refine ⟨fun hjob => ?_, hagree⟩
    obtain ⟨-, hstate, hrecord, htable⟩ := hidle.1 (hfree hjob)
    exact ⟨by simp [hstate], hrecord, htable⟩
  · rintro ⟨hnone, hagree⟩
    refine ⟨fun hjob => hidle.2 ?_, hagree⟩
    obtain ⟨hwaiting, hrecord, htable⟩ := hnone hjob
    refine ⟨hjob, ?_, hrecord, htable⟩
    cases hstate : s.tags.writeState with
    | idle => rfl
    | waiting => exact absurd hstate hwaiting
    | inFlight => simpa [hjob] using hagree.1.1 hstate

/-- Settles O49: the agreement is kept by every operation, and the grant that ends an event leaves no write waiting for a free array. -/
theorem arbiterStaysSound : Obligations.ArbiterStaysSound := by
  unfold Obligations.ArbiterStaysSound
  intro s t h hstep
  obtain ⟨hnone, hagree⟩ := (arbiterSound_iff s).1 h
  exact (arbiterSound_iff t).2 ⟨hnone.runs (step_runs hstep), hagree.runs (step_runs hstep)⟩

/-! ## A tag in the table (R76, R89) -/

/-- A tag is in the table and no CLOSE pulse runs. -/
def TagKeepsOpen (s : State) : Prop := s.tags.isEmpty = false ∧ s.act.close = false

theorem TagKeepsOpen.congr {s t : State} (ht : t.tags = s.tags) (ha : t.act.close = s.act.close) (h : TagKeepsOpen s) :
    TagKeepsOpen t := by
  simpa [TagKeepsOpen, ht, ha] using h

/-- A table holds a record exactly when one of its slots does. -/
theorem TagTable.isEmpty_eq_false_iff (t : TagTable) : t.isEmpty = false ↔ ∃ r, some r ∈ t.slots := by
  rw [TagTable.isEmpty, List.isEmpty_eq_false_iff_exists_mem]
  simp [TagTable.records]

/-- A slot that is written with a record leaves no empty table. -/
theorem TagTable.set_isEmpty {t : TagTable} (i : Nat) (r : TagRecord) (h : t.isEmpty = false) :
    TagTable.isEmpty { t with slots := t.slots.set i (some r) } = false := by
  obtain ⟨x, hx⟩ := t.isEmpty_eq_false_iff.1 h
  refine (TagTable.isEmpty_eq_false_iff _).2 ?_
  obtain ⟨k, hk, hat⟩ := List.mem_iff_getElem.1 hx
  by_cases hik : i = k
  · exact ⟨r, hik ▸ List.mem_set (by omega) _⟩
  · exact ⟨x, List.mem_iff_getElem.2 ⟨k, by simpa using hk, by simp [hik, hat]⟩⟩

theorem TagKeepsOpen.change (s t : State) (c : Change s t) (h : TagKeepsOpen s) : TagKeepsOpen t := by
  obtain ⟨htags, hclose⟩ := h
  cases c with
  | quiet hq => exact ⟨by rw [hq.tags]; exact htags, by rw [hq.act]; exact hclose⟩
  | relax hr => exact ⟨htags, Bool.eq_false_iff.2 fun hc => Bool.eq_false_iff.1 hclose (hr.close hc)⟩
  | startTrip _ hc _ => exact ⟨htags, hc⟩
  | startClose hp _ => exact absurd (State.tags_of_permission hp) (by simp [htags])
  | failMechanism _ hc _ _ => exact ⟨htags, hc⟩
  | placeTag i _ => exact ⟨TagTable.set_isEmpty i _ htags, hclose⟩
  | amendTag i _ _ => exact ⟨TagTable.set_isEmpty i _ htags, hclose⟩
  | requestTagWrite _ =>
    obtain ⟨w, hw⟩ := s.requestTagWrite_tags
    exact ⟨by rw [hw]; exact htags, by simpa using hclose⟩
  | _ => exact TagKeepsOpen.congr (by simp [State.setBuffer, State.endJob]) (by simp [State.setBuffer, State.endJob]) ⟨htags, hclose⟩

/-- With CLOSE inactive a tag entry leaves the Actuator Control (R82). -/
theorem State.tagEntry_of_close {s : State} (h : s.act.close = false) : s.tagEntry = s.sequenceTagEntry := by
  simp [State.tagEntry, h]

/-- The tags that the restore brings start no CLOSE pulse (R102, R89). -/
theorem State.restoreTags_close {s : State} (h : s.act.close = false) : s.restoreTags.act.close = false := by
  unfold State.restoreTags
  split
  · simpa using h
  · simpa using h
  · split
    · split
      · exact h
      · rw [State.tagEntry_of_close (by exact h)]
        simpa using h
    · simpa using h

theorem TagKeepsOpen.runs {s t : State} (r : Runs s t) (h : TagKeepsOpen s) : t.act.close = false := by
  cases r with
  | quiet hq _ => rw [hq.act]; exact h.2
  | granted k => simpa using (k.keeps TagKeepsOpen.change h).2
  | freed k => simpa [State.arrayFreed] using (k.keeps TagKeepsOpen.change h).2
  | tagsWritten image verified k _ => simpa [State.arrayFreed] using (k.keeps TagKeepsOpen.change h).2
  | @restored u k _ =>
    have hclose : u.restoreTables.restoreRecord.act.close = false := by simpa using (k.keeps TagKeepsOpen.change h).2
    simpa [State.restore] using State.restoreTags_close hclose
  | boot => rfl

/-- Settles O23: a tag stays in the table until the end of a tag write or the restore, neither of which starts a pulse. -/
theorem tagStopsEveryClose : Obligations.TagStopsEveryClose := by
  unfold Obligations.TagStopsEveryClose
  exact fun _ _ _ htags hclose hexec => TagKeepsOpen.runs (exec_runs hexec) ⟨htags, hclose⟩

/-! ## The reset state -/

/-- Settles O59: the reset is a boot, at which each invariant holds. -/
theorem resetMeetsInvariants : Obligations.ResetMeetsInvariants := by
  unfold Obligations.ResetMeetsInvariants
  obtain ⟨htables, hbuffer⟩ := StoreValid.boot .powerOn blankNv 0 none 0 []
  exact ⟨.boot _ _ _ _ _ _, .boot _ _ _ _ _ _, .of_close rfl, .of_clear rfl, bootTags_sound, .boot _ _ _ _ _ _, .boot _ _ _ _ _ _,
    .boot _ _ _ _ _ _, htables, hbuffer, (arbiterSound_iff _).2 ⟨fun _ => ⟨nofun, rfl, rfl⟩, .boot _ _ _ _ _ _⟩⟩

end Sys2Proof.Machine
end

