-- ==== Sys2Proof/Proofs/Completes.lean ====
section
/-! Every command completes (O2), and what a step takes (O1). -/

namespace Sys2Proof.Machine

/-- A command that ends a timer is the expiry of that timer, and leaves the queue of commands. -/
theorem exec_expiry {i : Instr} {s : State} {t : Timer} (h : timerOf s i = some t) :
    ∃ f : State → State, exec i s = onExpiry t s f ∧ ∀ v, (f v).pending = v.pending := by
  cases i <;> cases h <;>
    simp only [exec, execAbsenceTimerExpiry, execSensorLossTimerExpiry, execDisagreeTimerExpiry,
      execColdLoadTimerExpiry, execDeadTimerExpiry, execEnergyWaitTimerExpiry, execReclaimTimerExpiry,
      execTripPulseTimerExpiry, execClosePulseTimerExpiry, execTripConfirmLimit, execCloseConfirmLimit,
      execFreshnessTimerExpiry, execSupplyQualifyTimerExpiry, execCutoffTimerExpiry, execFinalReportTimerExpiry,
      execHoldTimerExpiry, execAbsorbTimerExpiry, execRebulkTimerExpiry, execFloatFullTimerExpiry,
      execTestDurationTimerExpiry, execScheduleRetryTimerExpiry, execChargerRepeatTimerExpiry, execAckTimerExpiry,
      execStatusIntervalTimerExpiry, execLoadingTimerExpiry, execStateRecordTimerExpiry, execSelectTimerExpiry,
      execRestoreComplete, execTagWriteComplete, execStateRecordWriteComplete, execTableWriteComplete] <;>
    exact ⟨_, rfl, fun v => by simp⟩

/-- A command that ends no timer answers at once, and leaves the queue of commands. -/
theorem exec_event {i : Instr} {s : State} (h : timerOf s i = none) : ∃ t, exec i s = .next t ∧ t.pending = s.pending := by
  cases i with
  | restart =>
    show ∃ t, execRestart s = .next t ∧ _
    unfold execRestart
    split
    · exact ⟨_, rfl, rfl⟩
    · exact ⟨_, rfl, rfl⟩
  | discardedFrame link => cases link <;> exact ⟨_, rfl, by simp⟩
  | powerOn => exact ⟨_, rfl, rfl⟩
  | absenceTimerExpiry | sensorLossTimerExpiry | disagreeTimerExpiry | coldLoadTimerExpiry | deadTimerExpiry
  | energyWaitTimerExpiry | reclaimTimerExpiry | tripPulseTimerExpiry | closePulseTimerExpiry | tripConfirmLimit
  | closeConfirmLimit | freshnessTimerExpiry | supplyQualifyTimerExpiry | cutoffTimerExpiry | finalReportTimerExpiry
  | holdTimerExpiry | absorbTimerExpiry | rebulkTimerExpiry | floatFullTimerExpiry | testDurationTimerExpiry
  | scheduleRetryTimerExpiry | chargerRepeatTimerExpiry | ackTimerExpiry _ | statusIntervalTimerExpiry
  | loadingTimerExpiry | stateRecordTimerExpiry | selectTimerExpiry | restoreComplete | tagWriteComplete _
  | stateRecordWriteComplete _ | tableWriteComplete _ => cases h
  | _ => exact ⟨_, rfl, by simp⟩

/-- Settles O2: a command is the expiry of a timer, or an event that answers at once. -/
theorem everyCommandCompletes : Obligations.EveryCommandCompletes := by
  unfold Obligations.EveryCommandCompletes
  refine ⟨fun i s => ?_, fun i s hstopped => ?_⟩
  · cases ht : timerOf s i with
    | none => exact exec_event ht
    | some t =>
      obtain ⟨f, hexec, hpending⟩ := exec_expiry ht
      rw [hexec]
      cases t with
      | none => exact ⟨s, rfl, rfl⟩
      | some c => exact ⟨_, rfl, by simp [hpending]⟩
  · obtain ⟨f, hexec, -⟩ := exec_expiry hstopped
    exact hexec

/-- Settles O1: the cases of a step, and of a tick of the base. -/
theorem stepTakesFrontOrTicks : Obligations.StepTakesFrontOrTicks := by
  unfold Obligations.StepTakesFrontOrTicks
  refine ⟨fun s i rest hfront => ?_, fun s hempty => ⟨fun hidle => ?_, fun i rest hdue => ?_⟩⟩
  · simp [step, hfront]
  · refine ⟨s.advanceTo (s.now + 1), by simp [step, hempty, State.tick, hidle], ?_⟩
    refine ⟨by simp [State.advanceTo_now], by simp [hempty], by simp, by simp, ?_, ?_, ?_, ?_, ?_, ?_, ?_⟩
    · simp [SamePath]
    · simp [SameDrive]
    · simp [SamePower]
    · simp [SameLogs]
    · simp [SameArrays]
    · unfold State.advanceTo; split <;> simp
    · unfold State.advanceTo; split <;> simp
  · simp [step, hempty, State.tick, hdue, State.useFree]

end Sys2Proof.Machine
end

