-- ==== Sys2Proof/Proofs/Arithmetic.lean ====
section
/-! The arithmetic of the magnitudes (O9), of the curves and accumulators (O13, O14) and of the coulomb steps (O32). -/

namespace Sys2Proof.Machine

/-! ## The integer root (R15) -/

/-- A root built from its bits is the integer root, where the bits that are left suffice. -/
theorem rootBits_spec (n : Nat) : ∀ b r : Nat, r * r ≤ n → n < (r + 2 ^ b) * (r + 2 ^ b) →
    rootBits n b r * rootBits n b r ≤ n ∧ n < (rootBits n b r + 1) * (rootBits n b r + 1)
  | 0, r, hlow, hhigh => ⟨hlow, hhigh⟩
  | b + 1, r, hlow, hhigh => by
    have hdouble : r + 2 ^ (b + 1) = r + 2 ^ b + 2 ^ b := by rw [Nat.pow_succ]; omega
    rw [rootBits]
    split
    · next hkeep => exact rootBits_spec n b _ hkeep (hdouble ▸ hhigh)
    · next hdrop => exact rootBits_spec n b r hlow (Nat.lt_of_not_le hdrop)

/-- Settles O9: the fifteen bits of the root suffice below 2^30. -/
theorem magnitudeIsFloorRoot : Obligations.MagnitudeIsFloorRoot := by
  unfold Obligations.MagnitudeIsFloorRoot
  intro sum hsum
  unfold magnitude isqrt
  exact rootBits_spec (sum / 32) 15 0 (Nat.zero_le _) (by rw [Nat.zero_add, ← Nat.pow_add]; exact hsum)

/-! ## Curves (R24) -/

/-- The truncated straight line between two breakpoints. -/
def interpolated (m0 r0 m1 r1 m : Nat) : Nat := r0 + (r1 - r0) * (m - m0) / (m1 - m0)

theorem interpolated_mono (m0 r0 m1 r1 : Nat) {m n : Nat} (h : m ≤ n) : interpolated m0 r0 m1 r1 m ≤ interpolated m0 r0 m1 r1 n :=
  Nat.add_le_add_left (Nat.div_le_div_right (Nat.mul_le_mul_left _ (Nat.sub_le_sub_right h _))) _

theorem interpolated_le {m0 r0 m1 r1 m : Nat} (hm : m < m1) (hr : r0 ≤ r1) : interpolated m0 r0 m1 r1 m ≤ r1 := by
  have hle : (r1 - r0) * (m - m0) / (m1 - m0) ≤ r1 - r0 := by
    refine Nat.div_le_of_le_mul ?_
    rw [Nat.mul_comm]
    exact Nat.mul_le_mul_right _ (by omega)
  unfold interpolated
  omega

section
variable (M R : Nat → Nat)

/-- The breakpoints from the one numbered k on, c + 1 of them. -/
def pointsFrom (k c : Nat) : List (Nat × Nat) := (List.range' k (c + 1)).map fun j => (M j, R j)

theorem rateAt_pointsFrom_zero (k m : Nat) : rateAt (pointsFrom M R k 0) m = R k := rfl

theorem rateAt_pointsFrom_succ (k c m : Nat) :
    rateAt (pointsFrom M R k (c + 1)) m =
      if m < M (k + 1) then interpolated (M k) (R k) (M (k + 1)) (R (k + 1)) m else rateAt (pointsFrom M R (k + 1) c) m := rfl

/-- The multiples ascend and the rates do not fall from the breakpoint k to the breakpoint k + c. -/
def Ascends (k c : Nat) : Prop := ∀ j, k ≤ j → j < k + c → M j < M (j + 1) ∧ R j ≤ R (j + 1)

variable {M R}

theorem Ascends.tail {k c : Nat} (h : Ascends M R k (c + 1)) : Ascends M R (k + 1) c := fun j hk hj => h j (by omega) (by omega)

theorem Ascends.multiple_le {k c : Nat} (h : Ascends M R k c) {j : Nat} (hk : k ≤ j) (hj : j ≤ k + c) : M k ≤ M j := by
  induction j, hk using Nat.le_induction with
  | base => exact le_rfl
  | succ j hk ih => exact (ih (by omega)).trans (h j hk (by omega)).1.le

theorem Ascends.rateAt_last {k c : Nat} (h : Ascends M R k c) {m : Nat} (hm : M (k + c) ≤ m) : rateAt (pointsFrom M R k c) m = R (k + c) := by
  induction c generalizing k with
  | zero => rfl
  | succ c ih =>
    have hnext : k + (c + 1) = k + 1 + c := by omega
    rw [hnext] at hm ⊢
    have hfirst : M (k + 1) ≤ m := (h.tail.multiple_le (by omega) le_rfl).trans hm
    rw [rateAt_pointsFrom_succ, if_neg (by omega)]
    exact ih h.tail hm

theorem Ascends.rateAt_between {k c : Nat} (h : Ascends M R k c) {j m : Nat} (hk : k ≤ j) (hj : j < k + c) (hm : M j ≤ m)
    (hm' : m < M (j + 1)) : rateAt (pointsFrom M R k c) m = interpolated (M j) (R j) (M (j + 1)) (R (j + 1)) m := by
  induction c generalizing k with
  | zero => omega
  | succ c ih =>
    rw [rateAt_pointsFrom_succ]
    rcases Nat.eq_or_lt_of_le hk with rfl | hlt
    · rw [if_pos hm']
    · have hfirst : M (k + 1) ≤ m := (h.tail.multiple_le hlt (by omega)).trans hm
      rw [if_neg (by omega)]
      exact ih h.tail hlt (by omega)

/-- From the first breakpoint on the rate is at least the first. -/
theorem Ascends.le_rateAt {k c : Nat} (h : Ascends M R k c) (m : Nat) : R k ≤ rateAt (pointsFrom M R k c) m := by
  induction c generalizing k with
  | zero => exact le_rfl
  | succ c ih =>
    rw [rateAt_pointsFrom_succ]
    split
    · exact Nat.le_add_right _ _
    · exact (h k le_rfl (by omega)).2.trans (ih h.tail)

theorem Ascends.rateAt_mono {k c : Nat} (h : Ascends M R k c) {m n : Nat} (hmn : m ≤ n) :
    rateAt (pointsFrom M R k c) m ≤ rateAt (pointsFrom M R k c) n := by
  induction c generalizing k with
  | zero => exact le_rfl
  | succ c ih =>
    rw [rateAt_pointsFrom_succ, rateAt_pointsFrom_succ]
    by_cases hm : m < M (k + 1)
    · rw [if_pos hm]
      by_cases hn : n < M (k + 1)
      · rw [if_pos hn]
        exact interpolated_mono _ _ _ _ hmn
      · rw [if_neg hn]
        exact (interpolated_le hm (h k le_rfl (by omega)).2).trans (h.tail.le_rateAt n)
    · rw [if_neg hm, if_neg (by omega)]
      exact ih h.tail

end

/-- Every word of a valid image keeps the rule of its offset. -/
theorem wordOk_of_valid {id : Nat} {t : Table} (h : imageValid id t = true) {i : Nat} (hi : i < t.length) : wordOk id t i = true := by
  simp only [imageValid, firstInvalid, Bool.and_eq_true, Option.isNone_iff_eq_none, List.find?_eq_none, List.mem_range] at h
  simpa using h.2 i hi

/-- The words of point k of a CURVE image. -/
theorem curveWordOk_point (t : Table) (k : Nat) : curveWordOk t (2 * k + 6) = pointOk t k := by
  simp [curveWordOk]

/-- The points of a valid CURVE image (R156): 2 or more, with ascending multiples and rates that do not fall. -/
theorem curve_ascends {t : Table} (h : imageValid 7 t = true) : ∃ c, pointCount t = c + 1 ∧ Ascends (pointMultiple t) (pointRate t) 0 c := by
  have hlength : 10 ≤ t.length := by
    have hfits : lengthFits 7 t.length = true := by
      simp only [imageValid, Bool.and_eq_true] at h
      exact h.1
    have hkind : tableKind 7 = .curve := rfl
    simp only [lengthFits, hkind, Bool.and_eq_true, decide_eq_true_eq] at hfits
    exact hfits.1.2
  have hword : ∀ i, i < t.length → curveWordOk t i = true := fun i hi => wordOk_of_valid h hi
  obtain ⟨hrange, hcount⟩ : inRange 2 (pointCount t) 32 = true ∧ pointCount t = (t.length - 6) / 2 := by
    simpa [curveWordOk, pointCount] using hword 0 (by omega)
  simp only [inRange, Bool.and_eq_true, decide_eq_true_eq] at hrange
  refine ⟨pointCount t - 1, by omega, fun j _ hj => ?_⟩
  have hpoint : pointOk t (j + 1) = true := by
    rw [← curveWordOk_point]
    exact hword _ (by omega)
  simp only [pointOk, Nat.add_one_ne_zero, if_false, Nat.add_sub_cancel, Bool.and_eq_true, decide_eq_true_eq] at hpoint
  exact hpoint.2

theorem curvePoints_eq {t : Table} {c : Nat} (h : pointCount t = c + 1) :
    curvePoints t = pointsFrom (pointMultiple t) (pointRate t) 0 c := by
  rw [curvePoints, pointsFrom, h, List.range_eq_range']

/-- Settles O13: a valid curve is a list of ascending breakpoints. -/
theorem curveRates : Obligations.CurveRates := by
  unfold Obligations.CurveRates
  refine ⟨fun t ht => ⟨fun m hm => ?last, fun m k hk hm hm' => ?between⟩, fun t m n ht _ hmn => ?mono⟩
  all_goals obtain ⟨c, hcount, hascends⟩ := curve_ascends ht
  case last =>
    rw [hcount, Nat.add_sub_cancel] at hm ⊢
    rw [curvePoints_eq hcount, hascends.rateAt_last (by simpa using hm), Nat.zero_add]
  case between =>
    rw [curvePoints_eq hcount, hascends.rateAt_between (Nat.zero_le k) (by omega) hm hm', interpolated]
  case mono =>
    rw [curvePoints_eq hcount]
    exact hascends.rateAt_mono hmn

/-! ## A constant multiple (R25, R26) -/

/-- The accumulator after n + 1 evaluations at one multiple of 16 or more. -/
theorem step_iterate (curve : Table) {m : Nat} (hm : 16 ≤ m) (n : Nat) :
    (fun x : Accumulator => x.step curve m)^[n + 1] clearAcc =
      ⟨min fullScale ((n + 1) * rateAt (curvePoints curve) m), true, min 65535 (n + 1)⟩ := by
  induction n with
  | zero => simp [Accumulator.step_of_ge _ _ hm, clearAcc]
  | succ n ih =>
    rw [Function.iterate_succ_apply', ih]
    simp only [Accumulator.step_of_ge _ _ hm, Accumulator.mk.injEq, true_and]
    exact ⟨by rw [Nat.succ_mul (n + 1)]; omega, by omega⟩

/-- Settles O14: the value grows by the rate at each evaluation. -/
theorem constantCurrentOperateTime : Obligations.ConstantCurrentOperateTime := by
  unfold Obligations.ConstantCurrentOperateTime
  intro curve m n hm hn
  obtain ⟨k, rfl⟩ : ∃ k, n = k + 1 := ⟨n - 1, by omega⟩
  simp only [step_iterate curve hm k, Accumulator.met, fullScale, true_and, Bool.true_and, Bool.and_eq_true, decide_eq_true_eq]
  exact and_congr_left' (by omega)

/-! ## Coulomb steps (R117) -/

/-- Settles O32: the two roundings are the floor of the signed quotients. -/
theorem coulombStepRounds : Obligations.CoulombStepRounds := by
  unfold Obligations.CoulombStepRounds
  intro qmax q i hq
  refine ⟨coulombStep_le qmax q i hq, fun hi => ?_, fun hi => ?_, fun hi => ?_⟩
  · rw [coulombStep, if_pos hi]
    omega
  · rw [coulombStep, if_neg (by omega), if_pos hi]
    omega
  · rw [coulombStep, if_neg (by omega), if_neg (by omega)]

end Sys2Proof.Machine
end

