-- ==== Sys2Proof/Proofs/DriveCases.lean ====
section
/-! Where the tests of the drive change nothing, and how the expiry of a timer begins: facts that the statements about timers
and frames share. -/

namespace Sys2Proof.Machine

/-! ## The codes of the requests (spec/11 section 11.4) -/

@[simp] theorem requestCode_statusRead : requestCode .statusRead = 1 := (rfl)
@[simp] theorem requestCode_timeSet : requestCode .timeSet = 2 := (rfl)
@[simp] theorem requestCode_tableUnlock : requestCode .tableUnlock = 3 := (rfl)
@[simp] theorem requestCode_tableBegin : requestCode .tableBegin = 4 := (rfl)
@[simp] theorem requestCode_tableData : requestCode .tableData = 5 := (rfl)
@[simp] theorem requestCode_tableCommit : requestCode .tableCommit = 6 := (rfl)
@[simp] theorem requestCode_tableAbort : requestCode .tableAbort = 7 := (rfl)
@[simp] theorem requestCode_groupSelect : requestCode .groupSelect = 9 := (rfl)
@[simp] theorem requestCode_select : requestCode .select = 10 := (rfl)
@[simp] theorem requestCode_operate : requestCode .operate = 11 := (rfl)
@[simp] theorem requestCode_tagPlace : requestCode .tagPlace = 12 := (rfl)
@[simp] theorem requestCode_tagRemove : requestCode .tagRemove = 13 := (rfl)
@[simp] theorem requestCode_tagList : requestCode .tagList = 14 := (rfl)
@[simp] theorem requestCode_batteryTest : requestCode .batteryTest = 15 := (rfl)
@[simp] theorem requestCode_reportPoll : requestCode .reportPoll = 16 := (rfl)

/-! ## The moment of an expiry -/

theorem State.advanceTo_sameArrays (s : State) (m : Nat) : SameArrays s (s.advanceTo m) := by simp [SameArrays]

theorem NothingToGrant.advanceTo {s : State} (h : NothingToGrant s) (m : Nat) : NothingToGrant (s.advanceTo m) :=
  h.of_arrays (s.advanceTo_sameArrays m)

/-- An effect at the moment of an expiry that touches neither the Tag Table nor the Table Store asks nothing of the arbiter. -/
theorem State.grant_at {s t : State} (h : NothingToGrant s) (m : Nat) (hsame : SameArrays (s.advanceTo m) t) : t.grant = t :=
  State.grant_of_arrays (h.advanceTo m) hsame

/-- The base at an expiry. -/
theorem State.advanceTo_movedTo (s : State) (m : Nat) : MovedTo m s (s.advanceTo m) := by
  simp [MovedTo, State.advanceTo_now]

/-- The settings in force at an expiry are those before it. -/
@[simp] theorem State.advanceTo_tables (s : State) (m : Nat) :
    (s.advanceTo m).unit = s.unit ∧ (s.advanceTo m).batteryTable = s.batteryTable ∧ (s.advanceTo m).governing = s.governing ∧
      (s.advanceTo m).governingTable = s.governingTable := by
  obtain ⟨hunit, hbattery, -⟩ := State.tables_congr (s := s) (t := s.advanceTo m) (by simp)
  obtain ⟨hgov, htable⟩ := State.governing_congr (s := s) (t := s.advanceTo m) (by simp) (by simp)
  exact ⟨hunit, hbattery, hgov, htable⟩

@[simp] theorem State.advanceTo_permission (s : State) (m : Nat) : (s.advanceTo m).permission = s.permission :=
  State.permission_congr (by simp) (by simp) (by simp) (by simp) (by simp)

/-- A timer started at an expiry. -/
theorem State.advanceTo_timer (s : State) (m len : Nat) : (s.advanceTo m).timer len = startAt (max s.now m) len := by
  simp [State.timer, State.advanceTo_now]

section
variable {s : State}

/-! ## Tests of the sequence that leave it -/

theorem State.settled_of_stream (v : View) (h : s.sample.stream ≠ .valid) : s.settled v = false := by
  simp [State.settled, h]

theorem State.initTest_of_ne (h : s.seq.state ≠ .init) : s.initTest = s := by simp [State.initTest, h]

theorem State.initTest_of_unsettled (hc : s.settled .closed = false) (ho : s.settled .opened = false) : s.initTest = s := by
  simp [State.initTest, hc, ho]

theorem State.mechTest_of_ne (h : s.seq.state ≠ .mechFail) : s.mechTest = s := by simp [State.mechTest, h]

theorem State.mechTest_of_unsettled (h : s.settled .opened = false) : s.mechTest = s := by simp [State.mechTest, h]

/-- A stream that is not VALID leaves the sequence where it is (R45, R64). -/
theorem State.sequenceStreamChange_of_stream (h : s.sample.stream ≠ .valid) : s.sequenceStreamChange = s := by
  rw [State.sequenceStreamChange, State.initTest_of_unsettled (State.settled_of_stream _ h) (State.settled_of_stream _ h),
    State.mechTest_of_unsettled (State.settled_of_stream _ h)]

/-- A view that is neither OPEN nor CLOSED leaves the sequence where it is (R45, R60, R61, R64). -/
theorem State.sequenceViewChange_of_view (ho : s.sample.view ≠ .opened) (hc : s.sample.view ≠ .closed) : s.sequenceViewChange = s := by
  unfold State.sequenceViewChange
  cases s.seq.state with
  | init => exact State.initTest_of_unsettled (by simp [State.settled, hc]) (by simp [State.settled, ho])
  | mechFail => exact State.mechTest_of_unsettled (by simp [State.settled, ho])
  | idle | timing | reclaim => simp [ho]
  | lockout | dead => simp [hc]
  | tripping | closing => rfl

/-! ## Tests of the confirms that leave them -/

theorem State.tripTest_of_view (h : s.sample.view ≠ .opened) : s.tripTest = s := by simp [State.tripTest, h]

theorem State.closeTest_of_view (h : s.sample.view ≠ .closed) : s.closeTest = s := by simp [State.closeTest, h]

theorem State.tripTest_of_stream (h : s.streamLive = false) : s.tripTest = s := by simp [State.tripTest, h]

theorem State.confirmTest_of_none (h : s.act.supervision = .none) : s.confirmTest = s := by simp [State.confirmTest, h]

theorem State.confirmTest_of_view (ho : s.sample.view ≠ .opened) (hc : s.sample.view ≠ .closed) : s.confirmTest = s := by
  unfold State.confirmTest
  cases s.act.supervision with
  | none => rfl
  | tripWait => exact State.tripTest_of_view ho
  | closeWait => exact State.closeTest_of_view hc

end

/-! ## The ends of the absence and the disagree timer (R6, R8, R11, R86) -/

theorem State.becomeStale_eq (s : State) :
    s.becomeStale = ((s.setSample { s.sample with
      stream := .stale, absence := none, disagree := none, sensorLoss := s.sensorLossTimer }).sensorReport
        .streamStale s.sample.stream 0).suspendConfirm := by
  rw [State.becomeStale, State.sequenceStreamChange_of_stream (by simp)]

theorem State.becomeUnknown_eq (s : State) :
    s.becomeUnknown = (s.setSample { s.sample with view := .unknown, disagree := none }).positionUnknownReport := by
  rw [State.becomeUnknown, State.viewChanged, State.sequenceViewChange_of_view (by simp) (by simp),
    State.confirmTest_of_view (by simp) (by simp)]

/-- Settles O7: a stream or a view that is lost moves neither the sequence nor a confirm. -/
theorem absenceAndDisagreeExpire : Obligations.AbsenceAndDisagreeExpire := by
  unfold Obligations.AbsenceAndDisagreeExpire
  refine ⟨fun s c hc hgrant => ?absence, fun s c hc hgrant => ?disagree⟩
  case absence =>
    have hexec : exec .absenceTimerExpiry s = .next (s.advanceTo c.due).becomeStale.grant := by
      simp only [exec, execAbsenceTimerExpiry, hc, onExpiry_some]
    rw [State.becomeStale_eq, State.grant_at hgrant c.due (by simp [SameArrays])] at hexec
    refine ⟨_, hexec, ?_⟩
    simp [State.sensorLossTimer, State.advanceTo_timer, State.advanceTo_now, State.sensorReport, State.suspendConfirm, SamePower, SameArrays,
      MovedTo, SampleInterface.lastAccepted]
  case disagree =>
    have hexec : exec .disagreeTimerExpiry s = .next (s.advanceTo c.due).becomeUnknown.grant := by
      simp only [exec, execDisagreeTimerExpiry, hc, onExpiry_some]
    rw [State.becomeUnknown_eq, State.grant_at hgrant c.due (by simp [SameArrays])] at hexec
    refine ⟨_, hexec, ?_⟩
    simp [State.advanceTo_now, State.positionUnknownReport, SamePower, SameArrays, SameDrive, MovedTo]

end Sys2Proof.Machine
end

