-- ==== Sys2Proof/Proofs/Trips.lean ====
section
/-! A trip that nothing stands against (R49, R70, R71): what it leaves, and the trips of the sensor-loss action (O8). -/

namespace Sys2Proof.Machine

section
variable {s : State}

/-! ## The entry to TRIPPING (R49) -/

/-- With nothing pending, leaving IDLE keeps what the governing group depends on. -/
theorem State.leaveIdle_governing (h : s.nothingPending) :
    s.leaveIdle.governing = s.governing ∧ s.leaveIdle.governingTable = s.governingTable :=
  State.governing_congr (by simp) (s.leaveIdle_of_nothingPending h).2.2

/-- The governing group latched is the group that governs. -/
theorem State.latch_governing : s.latch.governing = s.governing ∧ s.latch.governingTable = s.governingTable := by
  have hgov : s.latch.governing = s.governing := by simp [State.latch, State.governing]
  refine ⟨hgov, ?_⟩
  unfold State.governingTable
  rw [hgov]
  simp [State.groupTable, State.table]

theorem State.raised_congr {t : State} (hs : t.seq.s = s.seq.s) (hg : t.governingTable = s.governingTable) : t.raised = s.raised := by
  simp [State.raised, hs, hg]

/-- The entry to TRIPPING with nothing pending. -/
theorem State.enterTripping_of_nothing (kind : TripKind) (raise : Bool) (h : s.nothingPending) :
    (s.enterTripping kind raise).seq =
        { s.seq with
          latched := some s.governing, dead := none, energyWait := none, reclaim := none, state := .tripping, tripKind := kind,
          s := if raise then s.raised else s.seq.s, tripRequested := false } ∧
      (s.enterTripping kind raise).sample = s.sample ∧ (s.enterTripping kind raise).mag = s.mag ∧
      (s.enterTripping kind raise).store = s.store := by
  obtain ⟨hsample, hmag, hstore⟩ := s.leaveIdle_of_nothingPending h
  obtain ⟨hgov, htable⟩ := State.leaveIdle_governing h
  have hraised : s.leaveIdle.latch.raised = s.raised :=
    State.raised_congr (by simp [State.latch]) (State.latch_governing.2.trans htable)
  refine ⟨?_, by simp [State.enterTripping, hsample], by simp [State.enterTripping, hmag], by simp [State.enterTripping, hstore]⟩
  simp only [State.enterTripping, State.setSeq_seq, hraised, SequenceController.timersStopped]
  simp [State.latch, hgov]

/-! ## A trip pulse that starts at once (R70, R71) -/

/-- A Actuator Control that has started a trip pulse, with the timers of a state. -/
def State.trippedAct (s : State) : ActuatorControl :=
  { s.act with
    trip := true, tripTimer := s.timer (msec (tripPulseWidth s.unit)), supervision := .tripWait, retry := false,
    confirm := s.confirmFrom (tripConfirmLimit s.unit), heldTrip := false }

theorem State.trippedAct_congr {t : State} (hact : t.act = s.act) (hnow : t.now = s.now) (hsample : t.sample = s.sample)
    (hstore : t.store = s.store) : t.trippedAct = s.trippedAct := by
  have hunit : t.unit = s.unit := (State.tables_congr hstore).1
  simp [State.trippedAct, State.timer, State.confirmFrom, hact, hnow, hsample, hunit]

/-- A view that is not OPEN, or a stream that is not live, confirms no trip at its start. -/
theorem State.startTrip_of_unconfirmed (h : s.sample.view ≠ .opened ∨ s.streamLive = false) :
    s.startTrip false = (s.setAct s.trippedAct).pulseStarted := by
  have htest : (s.setAct s.trippedAct).pulseStarted.tripTest = (s.setAct s.trippedAct).pulseStarted := by
    rcases h with hview | hstream
    · exact State.tripTest_of_view (by simpa [State.pulseStarted] using hview)
    · exact State.tripTest_of_stream (by simpa [State.pulseStarted, State.streamLive] using hstream)
  rw [← htest]
  rfl

/-- A trip that nothing stands against: the sequence is TRIPPING, and the pulse has started. -/
theorem State.tripFor_of_clear (kind : TripKind) (raise : Bool) (h : s.nothingPending) (hlatch : s.act.latch = false)
    (hclose : s.act.close = false) (htrip : s.act.trip = false) (hsup : s.act.supervision ≠ .closeWait)
    (hview : s.sample.view ≠ .opened ∨ s.streamLive = false) :
    s.tripFor kind raise = ((s.enterTripping kind raise).setAct s.trippedAct).pulseStarted := by
  obtain ⟨-, hsample, -, hstore⟩ := s.enterTripping_of_nothing kind raise h
  have hunconfirmed : (s.enterTripping kind raise).sample.view ≠ .opened ∨ (s.enterTripping kind raise).streamLive = false := by
    rw [State.streamLive, hsample]
    exact hview
  rw [State.tripFor, State.requestTrip]
  simp only [State.enterTripping_frame, hlatch, hclose, htrip, hsup, Bool.false_eq_true, if_false, decide_false]
  rw [State.startTrip_of_unconfirmed hunconfirmed, State.trippedAct_congr (by simp) (by simp) hsample hstore]

/-! ## The sensor-loss action (R63) -/

theorem State.sensorLossAction_of_hold (h : sensorLossTrips s.unit = false ∨
    s.seq.state ≠ .idle ∧ s.seq.state ≠ .timing ∧ s.seq.state ≠ .reclaim) : s.sensorLossAction = s := by
  unfold State.sensorLossAction
  split
  all_goals simp_all

theorem State.sensorLossAction_of_trip (ht : sensorLossTrips s.unit = true)
    (hs : s.seq.state = .idle ∨ s.seq.state = .timing ∨ s.seq.state = .reclaim) : s.sensorLossAction = s.tripFor .sensor false := by
  unfold State.sensorLossAction
  rcases hs with h | h | h <;> simp [h, ht]

end

/-- Settles O8: the report follows the action, which is none or a trip that nothing stands against. -/
theorem sensorLossActs : Obligations.SensorLossActs := by
  unfold Obligations.SensorLossActs
  intro s c hc hsup
  have hexec : exec .sensorLossTimerExpiry s = .next (s.advanceTo c.due).sensorLossExpiry.grant := by
    simp only [exec, execSensorLossTimerExpiry, hc, onExpiry_some]
  have hevent : (s.advanceTo c.due).sensorLossExpiry =
      (((s.advanceTo c.due).setSample { (s.advanceTo c.due).sample with sensorLoss := none }).sensorLossAction).sensorReport
        .sensorLoss .stale (sensorLossTime s.unit) := by
    simp [State.sensorLossExpiry, State.sensorLossEvent, hsup]
  refine ⟨fun hhold hgrant => ?hold, fun htrips hstate hstale hlatch htrip hclose hnothing hgrant => ?trip⟩
  case hold =>
    rw [hevent, State.sensorLossAction_of_hold (by simpa [State.unit, State.table] using hhold),
      State.grant_at hgrant c.due (by simp [SameArrays, State.sensorReport])] at hexec
    refine ⟨_, hexec, ?_⟩
    simp [State.advanceTo_now, State.sensorReport, SamePower, SameArrays, SameDrive, MovedTo, SampleInterface.lastAccepted]
  case trip =>
    generalize hv : (s.advanceTo c.due).setSample { (s.advanceTo c.due).sample with sensorLoss := none } = v at hevent
    have hvs : v.sample = { s.sample with sensorLoss := none } ∧ v.seq = s.seq ∧ v.act = s.act ∧ v.store = s.store ∧
        v.now = max s.now c.due ∧ v.tags = s.tags ∧ v.supply = s.supply ∧ v.mag = s.mag ∧ v.oc = s.oc ∧ v.faults = s.faults ∧
        v.free = s.free ∧ v.nextSecond = s.nextSecond ∧ v.pending = s.pending := by
      subst hv; simp [State.advanceTo_now]
    obtain ⟨hsample, hseq, hact, hstore, hnow, htags, hsupply, hmag, hoc, hfaults, hfree, hnext, hpending⟩ := hvs
    have hunit : v.unit = s.unit := (State.tables_congr hstore).1
    have hgov : v.governing = s.governing := (State.governing_congr (by rw [hseq]) hstore).1
    obtain ⟨heseq, hesample, hemag, hestore⟩ := v.enterTripping_of_nothing .sensor false (by rw [State.nothingPending, hstore]; exact hnothing)
    rw [State.sensorLossAction_of_trip (by rw [hunit]; exact htrips) (by rw [hseq]; exact hstate),
      State.tripFor_of_clear _ _ (by rw [State.nothingPending, hstore]; exact hnothing) (by rw [hact]; exact hlatch)
        (by rw [hact]; exact hclose) (by rw [hact]; exact htrip) (by simp [hact, hsup])
        (.inr (by simp [State.streamLive, hsample, hstale]))] at hevent
    rw [hevent, State.grant_of_arrays hgrant (by simp [SameArrays, State.sensorReport, State.pulseStarted, hestore, hstore, htags])] at hexec
    refine ⟨_, hexec, ?_⟩
    simp [State.sensorReport, State.pulseStarted, State.trippedAct, State.confirmFrom, State.timer, startAt, MovedTo, *]

end Sys2Proof.Machine
end

