-- ==== Sys2Proof/Proofs/WriteInFlight.lean ====
section
/-! No operation of the drive ends or begins a write of the NV array; so where nothing waits, an event of the drive leaves the Tag
Table through its grant. -/

namespace Sys2Proof.Machine

section
variable (s : State)

@[simp] theorem State.applyCommit_inFlight (req : Option Req) : (s.applyCommit req).store.inFlight = s.store.inFlight := by
  rw [s.applyCommit_store]; rfl

@[simp] theorem State.noticeTestEnded_inFlight : s.noticeTestEnded.store.inFlight = s.store.inFlight := by
  unfold State.noticeTestEnded; split <;> simp

@[simp] theorem State.noticeSequenceRests_inFlight : s.noticeSequenceRests.store.inFlight = s.store.inFlight := by
  unfold State.noticeSequenceRests; split <;> simp

@[simp] theorem State.applyPending_inFlight : s.applyPending.store.inFlight = s.store.inFlight := by
  simp [State.applyPending, s.applyGroup_taken]

@[simp] theorem State.abortTest_inFlight (cause : AbortCause) (charge : ChargeState) :
    (s.abortTest cause charge).store.inFlight = s.store.inFlight := by
  unfold State.abortTest; split <;> simp

@[simp] theorem State.leaveIdle_inFlight : s.leaveIdle.store.inFlight = s.store.inFlight := by
  unfold State.leaveIdle; split <;> simp

@[simp] theorem State.enterLockout_inFlight (reason : LockoutReason) : (s.enterLockout reason).store.inFlight = s.store.inFlight := by
  simp [State.enterLockout]

@[simp] theorem State.enterTiming_inFlight : s.enterTiming.store.inFlight = s.store.inFlight := by
  simp [State.enterTiming]

@[simp] theorem State.enterIdle_inFlight : s.enterIdle.store.inFlight = s.store.inFlight := by
  unfold State.enterIdle; dsimp only; split <;> simp

@[simp] theorem State.enterTripping_inFlight (kind : TripKind) (raise : Bool) :
    (s.enterTripping kind raise).store.inFlight = s.store.inFlight := by
  simp [State.enterTripping]

@[simp] theorem State.mechTest_inFlight : s.mechTest.store.inFlight = s.store.inFlight := by
  unfold State.mechTest; split <;> simp

@[simp] theorem State.initTest_inFlight : s.initTest.store.inFlight = s.store.inFlight := by
  unfold State.initTest; (repeat' split) <;> simp

@[simp] theorem State.mechFailure_inFlight (cause : MechCause) : (s.mechFailure cause).store.inFlight = s.store.inFlight := by
  simp [State.mechFailure]

@[simp] theorem State.openConfirm_inFlight : s.openConfirm.store.inFlight = s.store.inFlight := by
  unfold State.openConfirm; dsimp only; (repeat' split) <;> simp

@[simp] theorem State.closeConfirm_inFlight : s.closeConfirm.store.inFlight = s.store.inFlight := by
  unfold State.closeConfirm; dsimp only; (repeat' split) <;> simp

@[simp] theorem State.tripStart_inFlight : s.tripStart.store.inFlight = s.store.inFlight := by
  unfold State.tripStart; split <;> simp

@[simp] theorem State.tripTest_inFlight : s.tripTest.store.inFlight = s.store.inFlight := by
  unfold State.tripTest; split <;> simp

@[simp] theorem State.startTrip_inFlight (reported : Bool) : (s.startTrip reported).store.inFlight = s.store.inFlight := by
  unfold State.startTrip; dsimp only; cases reported <;> simp [State.pulseStarted]

@[simp] theorem State.requestTrip_inFlight : s.requestTrip.store.inFlight = s.store.inFlight := by
  unfold State.requestTrip; (repeat' split) <;> simp

@[simp] theorem State.startHeld_inFlight (reported : Bool) : (s.startHeld reported).store.inFlight = s.store.inFlight := by
  unfold State.startHeld; split <;> simp

@[simp] theorem State.endClosePulse_inFlight : s.endClosePulse.store.inFlight = s.store.inFlight := by
  simp [State.endClosePulse]

@[simp] theorem State.confirmFailed_inFlight (cause : MechCause) : (s.confirmFailed cause).store.inFlight = s.store.inFlight := by
  simp [State.confirmFailed]

@[simp] theorem State.closeTest_inFlight : s.closeTest.store.inFlight = s.store.inFlight := by
  unfold State.closeTest; split <;> simp

@[simp] theorem State.confirmTest_inFlight : s.confirmTest.store.inFlight = s.store.inFlight := by
  unfold State.confirmTest; split <;> simp

@[simp] theorem State.sequenceViewChange_inFlight : s.sequenceViewChange.store.inFlight = s.store.inFlight := by
  unfold State.sequenceViewChange State.externalOpen State.externalClose; (repeat' split) <;> simp

@[simp] theorem State.viewChanged_inFlight : s.viewChanged.store.inFlight = s.store.inFlight := by
  simp [State.viewChanged]

@[simp] theorem State.streamChanged_inFlight : s.streamChanged.store.inFlight = s.store.inFlight := by
  simp [State.streamChanged, State.sequenceStreamChange, State.resumeConfirm]

@[simp] theorem State.energyAnswer_inFlight : s.energyAnswer.store.inFlight = s.store.inFlight := by
  unfold State.energyAnswer; (repeat' split) <;> simp

@[simp] theorem State.startClose_inFlight : s.startClose.store.inFlight = s.store.inFlight := by
  simp [State.startClose, State.pulseStarted]

@[simp] theorem State.answerReclose_inFlight : s.answerReclose.store.inFlight = s.store.inFlight := by
  unfold State.answerReclose; split <;> simp

@[simp] theorem State.requestReclose_inFlight : s.requestReclose.store.inFlight = s.store.inFlight := by
  unfold State.requestReclose; split <;> simp

@[simp] theorem State.tripFor_inFlight (kind : TripKind) (raise : Bool) : (s.tripFor kind raise).store.inFlight = s.store.inFlight := by
  simp [State.tripFor]

@[simp] theorem State.sequencePickup_inFlight : s.sequencePickup.store.inFlight = s.store.inFlight := by
  unfold State.sequencePickup; split <;> simp

@[simp] theorem State.sequenceAllDropped_inFlight : s.sequenceAllDropped.store.inFlight = s.store.inFlight := by
  unfold State.sequenceAllDropped State.coordinationAdvance; (repeat' split) <;> simp [State.enterReclaim]

@[simp] theorem State.tripInClosing_inFlight (kind : TripKind) : (s.tripInClosing kind).store.inFlight = s.store.inFlight := by
  unfold State.tripInClosing; (repeat' split) <;> simp

@[simp] theorem State.sequenceDecision_inFlight : s.sequenceDecision.store.inFlight = s.store.inFlight := by
  unfold State.sequenceDecision; split <;> simp

@[simp] theorem State.manualOpen_inFlight : s.manualOpen.1.store.inFlight = s.store.inFlight := by
  unfold State.manualOpen; split <;> simp

@[simp] theorem State.overcurrent_inFlight (mags : Currents Nat) (clipped : Currents Bool) :
    (s.overcurrent mags clipped).store.inFlight = s.store.inFlight := by
  unfold State.overcurrent State.takeOutputs State.takePickup State.decisionOpens
  dsimp only
  (repeat' split) <;> simp

end

/-- Where nothing waited, an event that keeps the Tag Table and the write in flight keeps the Tag Table through its grant. -/
theorem State.grant_tags_of_nothing {s t : State} (h : NothingToGrant s) (htags : t.tags = s.tags)
    (hjob : t.store.inFlight = s.store.inFlight) : t.grant.tags = s.tags := by
  rcases h with hbusy | hidle
  · rw [t.grant_of_nothing (.inl (by rw [hjob]; exact hbusy)), htags]
  · have hstate : t.tags.writeState ≠ .waiting := by
      rw [htags]
      simp only [State.arbiterIdle, Bool.and_eq_true, decide_eq_true_eq] at hidle
      simp [hidle.1.1.2]
    rw [← htags]
    unfold State.grant
    split
    · rfl
    · rw [if_neg hstate]
      split
      · rfl
      · split <;> rfl

end Sys2Proof.Machine
end

