-- ==== Sys2Proof/Proofs/Pulses.lean ====
section
/-! Ends of the coil pulses with what waited for them (O20), and the confirm limits (O21). -/

namespace Sys2Proof.Machine

section
variable (s : State)

/-! ## The lines at a trip start and at a drop -/

/-- A trip start makes TRIP active for its width and clears the held trip, whatever it confirms at once. -/
theorem State.startTrip_lines (reported : Bool) :
    (s.startTrip reported).act.trip = true ∧ (s.startTrip reported).act.close = s.act.close ∧
      (s.startTrip reported).act.heldTrip = false ∧
      (s.startTrip reported).act.tripTimer = s.timer (msec (tripPulseWidth s.unit)) := by
  have hact : ∀ u : State, u.act = s.trippedAct → u.tripTest.act.trip = true ∧ u.tripTest.act.close = s.act.close ∧
      u.tripTest.act.heldTrip = false ∧ u.tripTest.act.tripTimer = s.timer (msec (tripPulseWidth s.unit)) := fun u hu => by
    obtain ⟨htrip, hclose, hheld, htimer, -⟩ := u.tripTest_lines
    rw [htrip, hclose, hheld, htimer, hu]
    exact ⟨rfl, rfl, rfl, rfl⟩
  cases reported with
  | true => exact hact (s.setAct s.trippedAct).pulseStarted.tripStart (by simp)
  | false => exact hact (s.setAct s.trippedAct).pulseStarted (by simp)

theorem State.dropTrip_view : s.dropTrip.sample.view = s.sample.view := by
  obtain ⟨-, -, -, -, -, -, -, -, hview⟩ := s.dropTrip_sample
  exact hview

theorem State.dropClose_view : s.dropClose.sample.view = s.sample.view := by
  obtain ⟨-, -, -, -, -, -, -, -, hview⟩ := s.dropClose_sample
  exact hview

theorem State.dropTrip_stream : s.dropTrip.sample.stream = s.sample.stream := s.dropTrip_sample.1

theorem State.dropClose_stream : s.dropClose.sample.stream = s.sample.stream := s.dropClose_sample.1

/-! ## A deferred close (R77) -/

/-- A deferred close is asked for again with the TRIP line inactive and the request no longer deferred. -/
def State.undeferred : State := s.dropTrip.setAct { s.dropTrip.act with deferred := none }

theorem State.undeferred_permission : s.undeferred.permission = s.permission :=
  State.permission_congr (by simp [State.undeferred]) (by simp [State.undeferred, s.dropTrip_view]) (by simp [State.undeferred])
    (by simp [State.undeferred]) (by simp [State.undeferred])

theorem State.deferredCheck_of_none (h : s.act.deferred = none) : s.dropTrip.deferredCheck = s.dropTrip := by
  simp [State.deferredCheck, h]

theorem State.deferredCheck_of_reclose (h : s.act.deferred = some .reclose) :
    s.dropTrip.deferredCheck = s.undeferred.answerReclose := by
  simp [State.deferredCheck, h, State.undeferred]

theorem State.deferredCheck_of_manual (h : s.act.deferred = some .manual) :
    s.dropTrip.deferredCheck = s.undeferred.answerManual.1.answerDeferred s.undeferred.answerManual.2 := by
  simp [State.deferredCheck, h, State.undeferred]

/-- A permitted reclose enters CLOSING and starts its pulse (R52, R78). -/
theorem State.answerReclose_of_permitted (h : s.permission = none) : s.answerReclose = (s.enterClosing .reclose).startClose := by
  simp [State.answerReclose, h]

theorem State.answerManual_of_permitted (h : s.permission = none) : s.answerManual = ((s.enterClosing .manual).startClose, .ok) := by
  simp [State.answerManual, h]

theorem State.answerManual_of_refused {item : PermissionItem} (h : s.permission = some item) :
    s.answerManual = (s, permissionCode item) := by
  simp [State.answerManual, h]

end

/-- Settles O20: what the ends of the two pulses do, by what waited for them. -/
theorem pulsesEnd : Obligations.PulsesEnd := by
  unfold Obligations.PulsesEnd
  have htripEnd : ∀ (s : State) (c : Countdown), s.act.tripTimer = some c →
      exec .tripPulseTimerExpiry s = .next (s.advanceTo c.due).dropTrip.deferredCheck.grant := fun s c hc => by
    simp only [exec, execTripPulseTimerExpiry, hc, onExpiry_some]
  have hcloseEnd : ∀ (s : State) (c : Countdown), s.act.closeTimer = some c →
      exec .closePulseTimerExpiry s = .next (s.advanceTo c.due).endClosePulse.grant := fun s c hc => by
    simp only [exec, execClosePulseTimerExpiry, hc, onExpiry_some]
  refine ⟨fun s c => ⟨fun hc hnone hgrant => ?trip, fun hc hheld hgrant => ?close, fun hc hheld hgrant => ?held⟩,
    fun s c hc hreclose hpermitted hgrant => ?reclose, fun s c r hc hmanual hrequest hgrant => ⟨fun hpermitted => ?manual, fun item hitem => ?refused⟩⟩
  case trip =>
    have hexec := htripEnd s c hc
    rw [State.deferredCheck_of_none _ (by simpa using hnone), State.grant_at hgrant c.due (by simp [SameArrays])] at hexec
    refine ⟨_, hexec, ?_⟩
    simp [SamePower, SameLogs, SameArrays, MovedTo, State.advanceTo_now]
  case close =>
    have hexec := hcloseEnd s c hc
    have hend : (s.advanceTo c.due).endClosePulse = (s.advanceTo c.due).dropClose := by simp [State.endClosePulse, State.startHeld, hheld]
    rw [hend, State.grant_at hgrant c.due (by simp [SameArrays])] at hexec
    refine ⟨_, hexec, ?_⟩
    simp [SamePower, SameLogs, SameArrays, MovedTo, State.advanceTo_now]
  case held =>
    refine ⟨_, hcloseEnd s c hc, ?_⟩
    have hend : (s.advanceTo c.due).endClosePulse =
        (s.advanceTo c.due).dropClose.startTrip (decide (s.act.supervision = .closeWait)) := by
      simp [State.endClosePulse, State.startHeld, hheld]
    obtain ⟨htrip, hclose, hcleared, htimer⟩ :=
      (s.advanceTo c.due).dropClose.startTrip_lines (decide (s.act.supervision = .closeWait))
    rw [← hend] at htrip hclose hcleared htimer
    have htags : (s.advanceTo c.due).endClosePulse.grant.tags = s.tags := State.grant_tags_of_nothing hgrant (by simp) (by simp)
    have hunit : (s.advanceTo c.due).dropClose.unit = s.unit := (State.tables_congr (by simp)).1
    refine ⟨by simpa using hclose, by simpa using htrip, by simpa using hcleared, ?_, by simp, htags, by simp [MovedTo, State.advanceTo_now]⟩
    rw [hunit] at htimer
    simpa [State.timer, startAt, State.advanceTo_now] using htimer
  case reclose =>
    have hexec := htripEnd s c hc
    rw [State.deferredCheck_of_reclose _ (by simpa using hreclose),
      State.answerReclose_of_permitted _ (by rw [State.undeferred_permission]; simpa using hpermitted),
      State.grant_at hgrant c.due (by simp [SameArrays, State.undeferred])] at hexec
    refine ⟨_, hexec, ?_⟩
    simp [State.undeferred, State.startClose, State.enterClosing, SamePower, SameLogs, MovedTo, State.advanceTo_now]
  case manual =>
    have hexec := htripEnd s c hc
    rw [State.deferredCheck_of_manual _ (by simpa using hmanual),
      State.answerManual_of_permitted _ (by rw [State.undeferred_permission]; simpa using hpermitted),
      State.grant_at hgrant c.due (by simp [SameArrays, State.undeferred])] at hexec
    refine ⟨_, hexec, ?_⟩
    simp [State.answerDeferred, hrequest, State.undeferred, State.startClose, State.enterClosing, SamePower, SameLogs, SameArrays, MovedTo,
      State.advanceTo_now, State.timer, State.unit, State.table]
  case refused =>
    have hexec := htripEnd s c hc
    rw [State.deferredCheck_of_manual _ (by simpa using hmanual),
      State.answerManual_of_refused _ (by rw [State.undeferred_permission]; simpa using hitem),
      State.grant_at hgrant c.due (by simp [SameArrays, State.undeferred])] at hexec
    refine ⟨_, hexec, ?_⟩
    simp [State.answerDeferred, hrequest, State.undeferred, SamePower, SameLogs, SameArrays, MovedTo, State.advanceTo_now]

/-! ## The confirm limits (R74, R75, R80) -/

section
variable {s : State}

theorem ActuatorControl.limitTimer_of_running {a : ActuatorControl} {c : Countdown} (hc : a.confirm = .running c) :
    a.limitTimer a.supervision = some c := by
  simp [ActuatorControl.limitTimer, hc]

/-- A fault record that is closed leaves none open (R150). -/
theorem State.faultClose_openRecord (s : State) (outcome : FaultOutcome) : (s.faultClose outcome).faults.openRecord = none := by
  unfold State.faultClose
  split
  · assumption
  · simp

/-- A mechanism failure outside IDLE, with a view that has not settled OPEN, stays in MECH_FAIL (R64). -/
theorem State.mechFailure_of_unsettled (cause : MechCause) (hidle : s.seq.state ≠ .idle) (hview : s.settled .opened = false) :
    s.mechFailure cause =
      (((s.setSeq { s.seq.timersStopped with state := .mechFail, tripRequested := false }).report 7
        (.mech cause s.seq.state s.seq.s s.sample.view)).faultClose .mechFail) := by
  rw [State.mechFailure, s.leaveIdle_of_ne hidle]
  exact State.mechTest_of_unsettled (by simpa [State.settled] using hview)

/-- A failed confirm (R75, R80, R85): both lines inactive, no supervision, the latch set. -/
theorem State.confirmFailed_act (cause : MechCause) :
    (s.confirmFailed cause).act =
      { s.act with
        trip := false, tripTimer := none, close := false, closeTimer := none, supervision := .none, retry := false, confirm := .stopped,
        heldTrip := false, latch := true } := by
  simp [State.confirmFailed]

/-- Where the view has not settled OPEN, a failed confirm outside IDLE leaves the sequence in MECH_FAIL and no record open. -/
theorem State.confirmFailed_of_unsettled (cause : MechCause) (hidle : s.seq.state ≠ .idle) (hview : s.settled .opened = false) :
    (s.confirmFailed cause).seq.state = .mechFail ∧ (s.confirmFailed cause).faults.openRecord = none := by
  rw [State.confirmFailed, State.mechFailure_of_unsettled cause (by simpa using hidle)
    (by simpa [State.settled, State.dropTrip_view, State.dropClose_view, State.dropTrip_stream, State.dropClose_stream] using hview)]
  exact ⟨by simp, State.faultClose_openRecord _ _⟩

/-- What a failed confirm leaves once its limit is reached, through the grant that follows. -/
theorem State.confirmFailed_at (cause : MechCause) (m : Nat) (hidle : s.seq.state ≠ .idle) (hview : s.settled .opened = false)
    (hgrant : NothingToGrant s) :
    let t := ((s.advanceTo m).confirmFailed cause).grant
    t.act.latch = true ∧ t.act.trip = false ∧ t.act.close = false ∧ t.act.supervision = .none ∧ t.act.confirm = .stopped ∧
      t.act.heldTrip = false ∧ t.seq.state = .mechFail ∧ t.faults.openRecord = none ∧ t.supply = s.supply ∧ t.tags = s.tags ∧
      MovedTo m s t := by
  obtain ⟨hstate, hrecord⟩ :=
    State.confirmFailed_of_unsettled (s := s.advanceTo m) cause (by simpa using hidle) (by simpa [State.settled] using hview)
  have htags : ((s.advanceTo m).confirmFailed cause).grant.tags = s.tags := State.grant_tags_of_nothing hgrant (by simp) (by simp)
  dsimp only
  simp [State.confirmFailed_act, hstate, hrecord, htags, MovedTo, State.advanceTo_now]

end

/-- Settles O21: a second pulse at the first limit of a trip, a failure at every other. -/
theorem confirmLimits : Obligations.ConfirmLimits := by
  unfold Obligations.ConfirmLimits
  refine ⟨fun s c hc hsup => ?_, fun s c hc hsup hview hidle hgrant => ?closeLimit⟩
  case closeLimit =>
    have htimer : s.act.limitTimer .closeWait = some c := hsup ▸ ActuatorControl.limitTimer_of_running hc
    have hexec : exec .closeConfirmLimit s = .next ((s.advanceTo c.due).confirmFailed .closeConfirm).grant := by
      simp only [exec, execCloseConfirmLimit, htimer, onExpiry_some]
    exact ⟨_, hexec, State.confirmFailed_at _ _ hidle hview hgrant⟩
  have htimer : s.act.limitTimer .tripWait = some c := hsup ▸ ActuatorControl.limitTimer_of_running hc
  have hexec : exec .tripConfirmLimit s = .next (s.advanceTo c.due).tripLimit.grant := by
    simp only [exec, execTripConfirmLimit, htimer, onExpiry_some]
  refine ⟨fun hretry hstale hgrant => ?second, fun hretry hview hidle hgrant => ?failed⟩
  case second =>
    have hlimit : (s.advanceTo c.due).tripLimit = (s.advanceTo c.due).secondTrip := by simp [State.tripLimit, hretry]
    rw [hlimit, State.grant_at hgrant c.due (by simp [SameArrays])] at hexec
    refine ⟨_, hexec, ?_⟩
    simp [State.secondTrip, State.confirmFrom, hstale, SamePower, SameLogs, SameArrays, MovedTo, State.advanceTo_now, State.advanceTo_timer]
  case failed =>
    have hlimit : (s.advanceTo c.due).tripLimit = (s.advanceTo c.due).confirmFailed .tripConfirm := by simp [State.tripLimit, hretry]
    rw [hlimit] at hexec
    exact ⟨_, hexec, State.confirmFailed_at _ _ hidle hview hgrant⟩

end Sys2Proof.Machine
end

