-- ==== Sys2Proof/Proofs/Reclose.lean ====
section
/-! The answers to a reclose (R52, R53), at the end of the dead time (O17). -/

namespace Sys2Proof.Machine

section
variable {s : State}

/-! ## Entries with nothing pending (R58, R64) -/

/-- An entry to LOCKOUT outside IDLE with nothing pending is the new state and its report. -/
theorem State.enterLockout_of_nothing (reason : LockoutReason) (hidle : s.seq.state ≠ .idle) (h : s.nothingPending)
    (hgroup : s.seq.pendingGroup = none) :
    s.enterLockout reason =
      (s.setSeq { s.seq.timersStopped with state := .lockout, reason := some reason, latched := none }).report 6
        (.lockout reason s.seq.s s.governing s.seq.state s.sample.view) := by
  have happly : (s.setSeq { s.seq.timersStopped with state := .lockout, reason := some reason, latched := none }).applyPending =
      s.setSeq { s.seq.timersStopped with state := .lockout, reason := some reason, latched := none } :=
    State.applyPending_of_nothing _ h hgroup
  rw [State.enterLockout, s.leaveIdle_of_ne hidle]
  dsimp only
  rw [happly]
  rfl

/-- Recording the switch open changes neither what is pending nor the state. -/
theorem State.recordOpen_seq (s : State) :
    s.recordOpen.seq.state = s.seq.state ∧ s.recordOpen.seq.pendingGroup = s.seq.pendingGroup ∧ s.recordOpen.seq.s = s.seq.s ∧
      s.recordOpen.seq.latched = s.seq.latched ∧ s.recordOpen.seq.tripKind = s.seq.tripKind := by
  unfold State.recordOpen
  dsimp only
  split <;> simp

/-- A mechanism failure with a view that has settled OPEN leads on to LOCKOUT (R64). -/
theorem State.mechFailure_state (cause : MechCause) (hview : s.sample.view = .opened) (hidle : s.seq.state ≠ .idle) (h : s.nothingPending)
    (hgroup : s.seq.pendingGroup = none) :
    (s.mechFailure cause).seq.state = (if s.sample.stream = .valid then .lockout else .mechFail) ∧ (s.mechFailure cause).seq.dead = none ∧
      (s.mechFailure cause).seq.energyWait = none ∧ (s.mechFailure cause).mag = s.mag ∧ (s.mechFailure cause).battery = s.battery ∧
      (s.mechFailure cause).sample = s.sample ∧ (s.mechFailure cause).links = s.links ∧ SameArrays s (s.mechFailure cause) := by
  by_cases hstream : s.sample.stream = .valid
  · rw [if_pos hstream, State.mechFailure, s.leaveIdle_of_ne hidle, State.mechTest, if_pos (by simp [State.settled, hview, hstream]),
      State.enterLockout_of_nothing _ (by simp [(State.recordOpen_seq _).1]) (by simpa [State.nothingPending] using h)
        (by simp [(State.recordOpen_seq _).2.1, SequenceController.timersStopped, hgroup])]
    simp [SequenceController.timersStopped, SameArrays]
  · rw [if_neg hstream, State.mechFailure_of_unsettled cause hidle (State.settled_of_stream _ hstream)]
    simp [SequenceController.timersStopped, SameArrays]

/-- The mechanism fails close permission only with the view OPEN (R76). -/
theorem State.view_of_mechanism (h : s.permission = some .mechanism) : s.sample.view = .opened := by
  by_contra hview
  by_cases htags : s.tags.isEmpty = true
  · rw [s.permission_of_partial (s.partialPermission_of_position htags hview)] at h
    cases h
  · rw [s.permission_of_partial (s.partialPermission_of_tag htags)] at h
    cases h

/-- The answers to a reclose outside IDLE with nothing pending: what none of them touches. -/
theorem State.answerReclose_unchanged (hidle : s.seq.state ≠ .idle) (h : s.nothingPending) (hgroup : s.seq.pendingGroup = none)
    (hdead : s.seq.dead = none) :
    s.answerReclose.seq.dead = none ∧ s.answerReclose.mag = s.mag ∧ s.answerReclose.battery = s.battery ∧
      s.answerReclose.links = s.links ∧ SameArrays s s.answerReclose := by
  have hlockout : ∀ reason, (s.enterLockout reason).seq.dead = none ∧ (s.enterLockout reason).mag = s.mag ∧
      (s.enterLockout reason).battery = s.battery ∧ (s.enterLockout reason).links = s.links ∧ SameArrays s (s.enterLockout reason) := fun reason => by
    rw [State.enterLockout_of_nothing reason hidle h hgroup]
    simp [SequenceController.timersStopped, SameArrays]
  unfold State.answerReclose
  cases hp : s.permission with
  | none => simp [State.enterClosing, State.startClose, State.pulseStarted, SequenceController.timersStopped, SameArrays]
  | some item =>
    cases item with
    | tag | position | power | stream => exact hlockout _
    | mechanism =>
      have hview := State.view_of_mechanism hp
      obtain ⟨-, hd, -, hm, hb, -, hl, ha⟩ := State.mechFailure_state .latch hview hidle h hgroup
      exact ⟨hd, hm, hb, hl, ha⟩
    | tripEnergy | closeEnergy =>
      dsimp only
      unfold State.energyAnswer
      split
      · exact ⟨hdead, rfl, rfl, rfl, rfl, rfl⟩
      · split
        · exact hlockout _
        · exact ⟨hdead, rfl, rfl, rfl, rfl, rfl⟩

/-- What stands for an answer that ends the sequence in LOCKOUT. -/
theorem State.enterLockout_ends (reason : LockoutReason) :
    (s.enterLockout reason).seq.state = .lockout ∧ (s.enterLockout reason).seq.reason = some reason ∧ (s.enterLockout reason).act = s.act := by
  obtain ⟨hstate, hreason, -⟩ := s.enterLockout_lockedOut reason
  exact ⟨hstate, hreason, by simp⟩

end

/-- Settles O17: the reclose is answered by the first failing item. -/
theorem deadTimerRecloses : Obligations.DeadTimerRecloses := by
  unfold Obligations.DeadTimerRecloses
  intro s c hc hstate htrip hnothing hgroup hgrant
  generalize hv : (s.advanceTo c.due).setSeq { (s.advanceTo c.due).seq with dead := none } = v
  have hexec : exec .deadTimerExpiry s = .next v.answerReclose.grant := by
    have hasked : (s.advanceTo c.due).deadExpiry = v.answerReclose := by
      rw [State.deadExpiry, if_pos (by simpa using hstate), hv, State.requestReclose, if_neg (by simp [← hv, htrip])]
    simp only [exec, execDeadTimerExpiry, hc, onExpiry_some, hasked]
  have hvs : v.seq = { s.seq with dead := none } ∧ v.act = s.act ∧ v.store = s.store ∧ v.now = max s.now c.due ∧ v.tags = s.tags ∧
      v.supply = s.supply ∧ v.mag = s.mag ∧ v.battery = s.battery ∧ v.sample = s.sample ∧ v.reports = s.reports ∧ MovedTo c.due s v := by
    subst hv; simp [State.advanceTo_now, MovedTo]
  obtain ⟨hseq, hact, hstore, hnow, htags, hsupply, hmag, hbattery, hsample, hreports, hmoved⟩ := hvs
  have hunit : v.unit = s.unit := (State.tables_congr hstore).1
  have hp : v.permission = s.permission := State.permission_congr htags (by rw [hsample]) (by rw [hact]) hsupply hstore
  have hidle : v.seq.state ≠ .idle := by simp [hseq, hstate]
  have hvnothing : v.nothingPending := by rw [State.nothingPending, hstore]; exact hnothing
  have hvgroup : v.seq.pendingGroup = none := by rw [hseq]; exact hgroup
  obtain ⟨hd, hm, hb, -, ha⟩ := State.answerReclose_unchanged hidle hvnothing hvgroup (by rw [hseq])
  rw [State.grant_of_arrays hgrant (t := v.answerReclose) ⟨ha.1.trans htags, ha.2.trans hstore⟩] at hexec
  have hlockout : ∀ reason, v.answerReclose = v.enterLockout reason →
      v.answerReclose.seq.state = .lockout ∧ v.answerReclose.seq.reason = some reason ∧ v.answerReclose.act = s.act := fun reason h => by
    rw [h, ← hact]
    exact v.enterLockout_ends reason
  refine ⟨_, hexec, hd, fun hi => ?permitted, fun hi => hlockout _ ?_, fun hi => hlockout _ ?_, fun hi => ?mechanism,
    fun hi => hlockout _ ?_, fun hi => hlockout _ ?_, fun hi => ?energy, hm.trans hmag, by simp [hsupply], hb.trans hbattery, ha.1.trans htags,
    by simpa [MovedTo] using hmoved⟩
  case permitted =>
    rw [State.answerReclose_of_permitted v (hp.trans hi)]
    simp [State.enterClosing, State.startClose, State.timer, startAt, State.unit, State.table, *]
  case mechanism =>
    have hanswer : v.answerReclose = v.mechFailure .latch := by simp [State.answerReclose, hp, hi]
    obtain ⟨hend, -⟩ := State.mechFailure_state .latch (State.view_of_mechanism (hp.trans hi)) hidle hvnothing hvgroup
    rw [hanswer, hend, hsample]
    exact ⟨rfl, by simp [hact]⟩
  case energy =>
    have hanswer : v.answerReclose = v.energyAnswer := by rcases hi with hi | hi <;> simp [State.answerReclose, hp, hi]
    have hwait : v.seq.energyWait = s.seq.energyWait := by rw [hseq]
    refine ⟨fun hnone hzero => hlockout _ ?_, fun hnone hpositive => ?_⟩
    · rw [hanswer, State.energyAnswer, if_neg (by simp [hwait, hnone]), if_pos (by rw [hunit]; exact hzero)]
    · rw [hanswer, State.energyAnswer, if_neg (by simp [hwait, hnone]), if_neg (by rw [hunit]; exact hpositive)]
      simp [hseq, hstate, hact, hunit, State.timer, startAt, hnow]
  all_goals simp [State.answerReclose, hp, hi]

end Sys2Proof.Machine
end

