-- ==== Sys2Proof/Proofs/Requests.lean ====
section
/-! What the end of a request's own selection (R177) leaves as it was: all that the requests read. -/

namespace Sys2Proof.Machine

section
variable (s : State) (o : Origin)

/-- The end of a selection leaves of the Command Unit the seconds counter, the restart and a deferred close. -/
@[simp] theorem State.cancelSlot_cmd :
    (s.cancelSlot o).cmd.seconds = s.cmd.seconds ∧ (s.cancelSlot o).cmd.restartMark = s.cmd.restartMark ∧
      (s.cancelSlot o).cmd.restartAfter = s.cmd.restartAfter ∧ (s.cancelSlot o).cmd.deferredClose = s.cmd.deferredClose := by
  unfold State.cancelSlot State.clearSlot
  (repeat' split) <;> simp

@[simp] theorem State.cancelSlot_tables :
    (s.cancelSlot o).unit = s.unit ∧ (s.cancelSlot o).batteryTable = s.batteryTable ∧ (s.cancelSlot o).governing = s.governing ∧
      (s.cancelSlot o).governingTable = s.governingTable := by
  obtain ⟨hunit, hbattery, -⟩ := State.tables_congr (s := s) (t := s.cancelSlot o) (by simp)
  obtain ⟨hgov, htable⟩ := State.governing_congr (s := s) (t := s.cancelSlot o) (by simp) (by simp)
  exact ⟨hunit, hbattery, hgov, htable⟩

@[simp] theorem State.cancelSlot_timer (len : Nat) : (s.cancelSlot o).timer len = s.timer len := by simp [State.timer]

@[simp] theorem State.cancelSlot_remoteRefused (r : Req) : (s.cancelSlot o).remoteRefused r = s.remoteRefused r := by
  simp [State.remoteRefused]

@[simp] theorem State.cancelSlot_testReady : (s.cancelSlot o).testReady = s.testReady := by
  simp [State.testReady, State.sinceTest, State.tripReady, State.fresh]

@[simp] theorem State.cancelSlot_permission : (s.cancelSlot o).permission = s.permission :=
  State.permission_congr (by simp) (by simp) (by simp) (by simp) (by simp)

@[simp] theorem State.cancelSlot_partialPermission : (s.cancelSlot o).partialPermission = s.partialPermission := by
  simp [State.partialPermission]

@[simp] theorem State.cancelSlot_arbiterIdle : (s.cancelSlot o).arbiterIdle = s.arbiterIdle := by simp [State.arbiterIdle]

theorem State.cancelSlot_onlyLinksAndCommand : OnlyLinksAndCommand s (s.cancelSlot o) := by
  simp [OnlyLinksAndCommand, SamePath, SameDrive, SamePower, SameLogs, SameArrays, SameClock]

/-- A request answered at once, after the end of its own selection, changes the links and the Command Unit alone. -/
theorem State.respond_cancelSlot (q : Req) (k : RequestKind) (c : ResultCode) (body : List Byte) :
    OnlyLinksAndCommand s ((s.cancelSlot o).respond q k c body) := by
  simp [OnlyLinksAndCommand, SamePath, SameDrive, SamePower, SameLogs, SameArrays, SameClock]

theorem State.respond_cancelSlot_handed (q : Req) (k : RequestKind) (c : ResultCode) (body : List Byte) :
    Handed (responseFrame q.id (requestCode k) c body) s ((s.cancelSlot o).respond q k c body) := by
  simp [Handed]

end

end Sys2Proof.Machine
end

