-- ==== Sys2Proof/Proofs/Battery.lean ====
section
/-! Ends of the timers of the Supply Monitor and the Battery Unit (O29, O30, O31, O33, O34), and the battery test (O35). -/

namespace Sys2Proof.Machine

section
variable {s : State}

/-! ## The end of a test with nothing pending (R132) -/

theorem State.noticeTestEnded_of_nothing (h : s.nothingPending) : s.noticeTestEnded = s := by
  simp [State.noticeTestEnded, h]

/-- An abort with nothing pending: the unit at rest in its charge state, the CHARGER update and the report. -/
theorem State.abortTest_of_nothing (cause : AbortCause) (charge : ChargeState) (hrun : s.battery.testState = .running)
    (h : s.nothingPending) :
    s.abortTest cause charge =
      ((s.setBattery ((s.battery.testEnded .aborted s.cmd.seconds).inCharge charge)).chargerUpdate).report 2
        (.battery (s.abortReport cause)) := by
  rw [State.abortTest, if_pos hrun]
  dsimp only
  rw [State.noticeTestEnded_of_nothing (by simpa [State.nothingPending] using h)]

theorem State.abortTest_of_idle (cause : AbortCause) (charge : ChargeState) (h : s.battery.testState = .idle) :
    s.abortTest cause charge = s := by
  simp [State.abortTest, h]

/-! ## Entering a charge state -/

/-- Entering a charge state moves its three timers besides, and nothing else of the unit (R119, R124, R125). -/
@[simp] theorem BatteryUnit.inCharge_fields (b : BatteryUnit) (c : ChargeState) :
    (b.inCharge c).charge = c ∧ (b.inCharge c).q = b.q ∧ (b.inCharge c).heldQ = b.heldQ ∧ (b.inCharge c).prevCurrent = b.prevCurrent ∧
      (b.inCharge c).testState = b.testState ∧ (b.inCharge c).testOrigin = b.testOrigin ∧ (b.inCharge c).vRest = b.vRest ∧
      (b.inCharge c).vMin = b.vMin ∧ (b.inCharge c).dischargeSum = b.dischargeSum ∧ (b.inCharge c).frameCount = b.frameCount ∧
      (b.inCharge c).testTimer = b.testTimer ∧ (b.inCharge c).retryTimer = b.retryTimer ∧ (b.inCharge c).lastResult = b.lastResult ∧
      (b.inCharge c).lastTime = b.lastTime ∧ (b.inCharge c).health = b.health ∧ (b.inCharge c).failCount = b.failCount ∧
      (b.inCharge c).tempState = b.tempState ∧ (b.inCharge c).heldTemp = b.heldTemp ∧ (b.inCharge c).holdTimer = b.holdTimer ∧
      (b.inCharge c).disconnect = b.disconnect ∧ (b.inCharge c).sent = b.sent ∧ (b.inCharge c).repeatTimer = b.repeatTimer := by
  simp [BatteryUnit.inCharge]

@[simp] theorem State.setCharge_battery (s : State) (c : ChargeState) : (s.setCharge c).battery = s.battery.inCharge c := by
  simp [State.setCharge]

/-! ## What the readings of the Battery Unit depend on -/

theorem State.abortReport_congr {t : State} (cause : AbortCause) (hbattery : t.battery = s.battery) (hstore : t.store = s.store) :
    t.abortReport cause = s.abortReport cause := by
  simp [State.abortReport, State.testMinimum, (State.tables_congr hstore).2.1, hbattery]

theorem State.chargerContent_congr {t : State} (hbattery : t.battery = s.battery) (hstore : t.store = s.store) :
    t.chargerContent = s.chargerContent := by
  simp [State.chargerContent, State.absorbTarget, State.floatTarget, (State.tables_congr hstore).2.1, hbattery]

theorem State.soc_congr {t : State} (hq : t.battery.q = s.battery.q) (hstore : t.store = s.store) : t.soc = s.soc := by
  simp [State.soc, (State.tables_congr hstore).2.1, hq]

end

/-! ## The loss of freshness (R105) -/

/-- Settles O29: a running test is aborted, and charging rests. -/
theorem freshnessLost : Obligations.FreshnessLost := by
  unfold Obligations.FreshnessLost
  intro s c hc hnothing hgrant
  generalize hv : (s.advanceTo c.due).setSupply { s.supply with
    freshness := .stale, freshTimer := none, qualification := .unqualified, qualifyTimer := none, cutoffTimer := none } = v
  have hexec : exec .freshnessTimerExpiry s = .next v.batteryStale.grant := by
    have hstale : (s.advanceTo c.due).freshnessExpiry = v.batteryStale := by rw [State.freshnessExpiry, ← hv]; simp
    simp only [exec, execFreshnessTimerExpiry, hc, onExpiry_some, hstale]
  have hvs : v.battery = s.battery ∧ v.store = s.store ∧ v.reports = s.reports ∧ v.cmd.seconds = s.cmd.seconds ∧ v.tags = s.tags ∧ SamePath s v ∧
      SameDrive s v ∧ v.faults = s.faults ∧ MovedTo c.due s v ∧ v.supply = { s.supply with
        freshness := .stale, freshTimer := none, qualification := .unqualified, qualifyTimer := none, cutoffTimer := none } := by
    subst hv; simp [State.advanceTo_now, MovedTo, SamePath, SameDrive]
  obtain ⟨hbattery, hstore, hreports, hcmd, htags, ⟨hsample, hmag, hoc⟩, hdrive, hfaults, hmoved, hsupply⟩ := hvs
  have hreport := State.abortReport_congr .streamStale hbattery hstore
  by_cases hrun : s.battery.testState = .running
  · rw [State.batteryStale, if_pos (by rw [hbattery]; exact hrun),
      State.abortTest_of_nothing _ _ (by rw [hbattery]; exact hrun) (by rw [State.nothingPending, hstore]; exact hnothing),
      State.grant_of_arrays hgrant (by simp [SameArrays, hstore, htags])] at hexec
    refine ⟨_, hexec, ?_⟩
    simp_all [BatteryUnit.inCharge, BatteryUnit.testEnded, SamePath, SameDrive, SameArrays, MovedTo, State.report]
  · have hidle : s.battery.testState = .idle := by
      cases h : s.battery.testState with
      | idle => rfl
      | running => exact absurd h hrun
    rw [State.batteryStale, if_neg (by rw [hbattery]; exact hrun), hbattery,
      State.grant_of_arrays hgrant (by by_cases hoff : s.battery.charge = .off <;> simp [SameArrays, hoff, hstore, htags])] at hexec
    refine ⟨_, hexec, ?_⟩
    by_cases hoff : s.battery.charge = .off
    all_goals simp_all [State.setCharge, BatteryUnit.inCharge, SamePath, SameDrive, SameArrays, MovedTo]

/-! ## The supply-qualify timer (R106, R108) -/

/-- NORMAL is told to the Battery Unit, which changes charge state alone (R114, R123). -/
theorem State.setPower_normal (s : State) :
    (s.setPower .normal).supply = { s.supply with power := .normal, cutoffTimer := none } ∧
      (s.setPower .normal).battery.q = s.battery.q ∧ (s.setPower .normal).battery.health = s.battery.health ∧
      (s.setPower .normal).store = s.store ∧ (s.setPower .normal).reports = s.reports ∧ (s.setPower .normal).sample = s.sample ∧
      (s.setPower .normal).mag = s.mag := by
  have hnotice (u : State) : u.noticeNormal.battery.q = u.battery.q ∧ u.noticeNormal.battery.health = u.battery.health ∧
      u.noticeNormal.store = u.store ∧ u.noticeNormal.reports = u.reports ∧ u.noticeNormal.sample = u.sample ∧
      u.noticeNormal.mag = u.mag := by
    unfold State.noticeNormal
    split <;> simp
  simp [State.setPower, State.batteryNotice, hnotice]

/-- Settles O30: CARRY and CONSERVE end in NORMAL with their report. -/
theorem supplyQualifies : Obligations.SupplyQualifies := by
  unfold Obligations.SupplyQualifies
  intro s c hc hgrant
  generalize hv : (s.advanceTo c.due).setSupply { s.supply with qualification := .qualified, qualifyTimer := none } = v
  have hexec : exec .supplyQualifyTimerExpiry s =
      .next (if s.supply.onBattery then v.changePower .normal .supplyQualified else v).grant := by
    have hqualified : (s.advanceTo c.due).qualifyExpiry =
        if s.supply.onBattery then v.changePower .normal .supplyQualified else v := by rw [State.qualifyExpiry, ← hv]; simp
    simp only [exec, execSupplyQualifyTimerExpiry, hc, onExpiry_some, hqualified]
  have hvs : v.battery = s.battery ∧ v.store = s.store ∧ v.reports = s.reports ∧ v.cmd.seconds = s.cmd.seconds ∧ v.tags = s.tags ∧
      SamePath s v ∧ SameDrive s v ∧ v.faults = s.faults ∧ MovedTo c.due s v ∧
      v.supply = { s.supply with qualification := .qualified, qualifyTimer := none } := by
    subst hv; simp [State.advanceTo_now, MovedTo, SamePath, SameDrive]
  obtain ⟨hbattery, hstore, hreports, hseconds, htags, ⟨hsample, hmag, hoc⟩, ⟨hseq, hact⟩, hfaults, hmoved, hsupply⟩ := hvs
  by_cases hon : s.supply.onBattery = true
  · have hpower : s.supply.power = .carry ∨ s.supply.power = .conserve := by simpa [SupplyMonitor.onBattery] using hon
    obtain ⟨hnsupply, hq, hhealth, hnstore, hnreports, hnsample, hnmag⟩ := v.setPower_normal
    have hsoc := State.soc_congr (s := s) (t := v.setPower .normal) (by rw [hq, hbattery]) (by rw [hnstore, hstore])
    rw [if_pos hon, State.grant_of_arrays hgrant (by simp [SameArrays, State.changePower, hnstore, hstore, htags])] at hexec
    refine ⟨_, hexec, fun _ => ⟨?_, ?_⟩, fun hcarry hconserve => (hpower.elim hcarry hconserve).elim, ?_⟩
    · simp [State.changePower, hnsupply, hsupply]
    · simp [State.changePower, State.report, State.powerBody, powerClass, hnreports, hsoc, hhealth, hnsupply, hsupply, hbattery, hreports,
        hseconds]
    · simp [State.changePower, SamePath, SameDrive, SameArrays, *]
      simpa [MovedTo] using hmoved
  · have hpower : s.supply.power ≠ .carry ∧ s.supply.power ≠ .conserve := by simpa [SupplyMonitor.onBattery] using hon
    rw [if_neg hon, State.grant_of_arrays hgrant ⟨htags, hstore⟩] at hexec
    exact ⟨_, hexec, fun h => (h.elim hpower.1 hpower.2).elim, fun _ _ => ⟨hsupply, hbattery, hreports⟩, by rw [hbattery],
      ⟨hsample, hmag, hoc⟩, ⟨hseq, hact⟩, hfaults, ⟨htags, hstore⟩, hmoved⟩

/-! ## Cutoff and disconnection (R111, R112) -/

/-- A state record that is asked for waits or is written, through the grant. -/
theorem State.grant_recordAsked {s : State} (h : s.store.recordWaiting.isSome = true) :
    s.grant.store.recordWaiting.isSome = true ∨ s.grant.store.inFlight.isSome = true := by
  cases hjob : s.store.inFlight with
  | some j => exact .inl (by rw [s.grant_of_nothing (.inl (by simp [hjob]))]; exact h)
  | none =>
    obtain ⟨c, hc⟩ := Option.isSome_iff_exists.mp h
    by_cases hwaiting : s.tags.writeState = .waiting
    · exact .inl (by simp [State.grant, hjob, hwaiting, hc])
    · exact .inr (by simp [State.grant, hjob, hwaiting, hc])

/-- With no test running, the entry to CUTOFF: charging off, the state record asked for, the report entered. -/
theorem State.enterCutoff_of_idle (s : State) (cause : PowerCause) (hidle : s.battery.testState = .idle) :
    let u := ((s.setPower .cutoff).requestRecordWrite ⟨false, false, true⟩)
    s.enterCutoff cause = u.beginDraining (u.powerBody s.supply.power cause) ∧ u.battery.charge = .off ∧ u.battery.q = s.battery.q ∧
      u.battery.health = s.battery.health ∧ u.store.tables = s.store.tables ∧ u.sample = s.sample ∧ u.mag = s.mag ∧
      u.reports = s.reports := by
  have hasked (body : ReportBody) :
      (((s.setPower .cutoff).requestRecordWrite ⟨false, false, true⟩).beginDraining body).arbiterIdle = false := by
    simp [State.arbiterIdle, State.requestRecordWrite]
  refine ⟨?_, ?_⟩
  · rw [State.enterCutoff]
    simp [State.disconnectTest, hasked]
  · simp [State.setPower, State.batteryNotice, State.noticeNotNormal, hidle, State.setCharge, BatteryUnit.inCharge,
      State.requestRecordWrite]

/-- Settles O31: the last report is entered as the final one; the end of its timer disconnects the battery. -/
theorem cutoffThenDisconnect : Obligations.CutoffThenDisconnect := by
  unfold Obligations.CutoffThenDisconnect
  refine ⟨fun s c hc hpower hidle => ?cutoff, fun s c hc harbiter => ?final⟩
  case cutoff =>
    have hon : s.supply.onBattery = true := by rcases hpower with h | h <;> simp [SupplyMonitor.onBattery, h]
    have hexec : exec .cutoffTimerExpiry s = .next ((s.advanceTo c.due).enterCutoff .batteryLow).grant := by
      have hentered : (s.advanceTo c.due).cutoffExpiry = (s.advanceTo c.due).enterCutoff .batteryLow := by
        simp [State.cutoffExpiry, hon]
      simp only [exec, execCutoffTimerExpiry, hc, onExpiry_some, hentered]
    have hmoved := s.advanceTo_movedTo c.due
    obtain ⟨heq, hcharge, hq, hhealth, htables, hsample, hmag, hreports⟩ :=
      (s.advanceTo c.due).enterCutoff_of_idle .batteryLow (by simpa using hidle)
    rw [heq] at hexec
    generalize hu : ((s.advanceTo c.due).setPower .cutoff).requestRecordWrite ⟨false, false, true⟩ = u at *
    have hus : u.supply = { s.supply with power := .cutoff, cutoffTimer := none } ∧ u.oc = s.oc ∧ u.seq = s.seq ∧ u.act = s.act ∧
        u.faults = s.faults ∧ u.now = max s.now c.due ∧ u.cmd.seconds = s.cmd.seconds ∧ MovedTo c.due s u ∧
        u.store.recordWaiting.isSome = true := by
      subst hu; simp [State.setPower, State.advanceTo_now, MovedTo, State.requestRecordWrite]
    obtain ⟨hsupply, hoc, hseq, hact, hfaults, hnow, hseconds, humoved, hasked⟩ := hus
    have hbody : u.powerBody (s.advanceTo c.due).supply.power .batteryLow =
        .power .cutoff s.supply.power .batteryLow s.supply.meas.supply s.supply.meas.battery s.soc s.battery.health := by
      have hsoc : u.soc = s.soc := by
        rw [State.soc, State.soc, hq, State.batteryTable, State.batteryTable, State.table, State.table, htables]
        simp
      simp [State.powerBody, hsupply, hsoc, hhealth]
    refine ⟨_, hexec, ?_⟩
    rw [hbody]
    have hwrite := State.grant_recordAsked (s := u.beginDraining (.power .cutoff s.supply.power .batteryLow s.supply.meas.supply
      s.supply.meas.battery s.soc s.battery.health)) (by simpa using hasked)
    simp_all [State.beginDraining, State.timer, startAt, SamePath, SameDrive, MovedTo]
  case final =>
    have hexec : exec .finalReportTimerExpiry s =
        .next (((s.advanceTo c.due).setSupply { s.supply with finalTimer := none }).disconnectTest).grant := by
      simp only [exec, execFinalReportTimerExpiry, hc, onExpiry_some, State.advanceTo_frame]
    have hsettled : (((s.advanceTo c.due).setSupply { s.supply with finalTimer := none })).arbiterIdle = true := by
      simpa [State.arbiterIdle] using harbiter
    rw [State.grant_at (.inr harbiter) c.due (by simp [SameArrays])] at hexec
    refine ⟨_, hexec, ?_⟩
    by_cases hstage : s.supply.stage = .draining
    · rw [State.disconnectTest, if_pos ⟨by simpa using hstage, hsettled, by simp [SupplyMonitor.finalSettled]⟩]
      simp [State.chargerUpdate_sent, State.chargerContent, hstage, SamePath, SameDrive, SameLogs, SameArrays, MovedTo, State.advanceTo_now]
    · rw [State.disconnectTest, if_neg (by simp [hstage])]
      simp [hstage, SamePath, SameDrive, SameLogs, SameArrays, MovedTo, State.advanceTo_now]

/-! ## Timers of the charge states (R119, R121, R124, R125, R127) -/

/-- An event of the Battery Unit that ends in a CHARGER update or none: all other blocks as at its moment. -/
def OnlyBattery (s t : State) : Prop :=
  SamePath s t ∧ SameDrive s t ∧ t.supply = s.supply ∧ SameLogs s t ∧ SameArrays s t ∧ t.now = s.now ∧ t.nextSecond = s.nextSecond ∧
    t.free = s.free ∧ t.pending = s.pending

theorem OnlyBattery.setBattery (s : State) (b : BatteryUnit) : OnlyBattery s (s.setBattery b) := by
  simp [OnlyBattery, SamePath, SameDrive, SameLogs, SameArrays]

theorem OnlyBattery.hand (s : State) (f : OutFrame) : OnlyBattery s (s.hand f) := by
  simp [OnlyBattery, SamePath, SameDrive, SameLogs, SameArrays]

theorem OnlyBattery.chargerUpdate (s : State) : OnlyBattery s s.chargerUpdate := by
  simp [OnlyBattery, SamePath, SameDrive, SameLogs, SameArrays]

theorem OnlyBattery.trans {s t u : State} (h : OnlyBattery s t) (h' : OnlyBattery t u) : OnlyBattery s u := by
  simp_all [OnlyBattery, SamePath, SameDrive, SameLogs, SameArrays]

/-- What an event of the Battery Unit leaves at the expiry that brings it. -/
theorem OnlyBattery.at_expiry {s t : State} {m : Nat} (h : OnlyBattery (s.advanceTo m) t) :
    SamePath s t ∧ SameDrive s t ∧ t.supply = s.supply ∧ SameLogs s t ∧ SameArrays s t ∧ MovedTo m s t := by
  simpa [OnlyBattery, SamePath, SameDrive, SameLogs, SameArrays, MovedTo, State.advanceTo_now] using h

theorem OnlyBattery.sameArrays {s t : State} (h : OnlyBattery s t) : SameArrays s t := h.2.2.2.2.1

theorem OnlyBattery.setBattery_update (s : State) (b : BatteryUnit) : OnlyBattery s (s.setBattery b).chargerUpdate :=
  (OnlyBattery.setBattery s b).trans (.chargerUpdate _)

theorem ChargerContent.frame_kind_ne (c : ChargerContent) : c.frame.kind ≠ kindMetering := by
  simp [ChargerContent.frame, kindCharger, kindMetering]

/-- A CHARGER frame is always held: it is no METERING frame. -/
theorem State.chargerSend_tx (s : State) : s.chargerSend.links.tx.getLast? = some s.chargerContent.frame := by
  simp [State.chargerSend, State.hand_links _ _ (ChargerContent.frame_kind_ne _)]

/-- Settles O33: each timer moves the charge state, the charge or the content sent, and nothing outside the Battery Unit. -/
theorem chargeTimersEnd : Obligations.ChargeTimersEnd := by
  unfold Obligations.ChargeTimersEnd
  refine ⟨fun s c hc hgrant => ?hold, fun s c hgrant => ⟨fun hc hcharge => ?absorb, fun hc hcharge htemp => ?rebulk, fun hc => ?floatFull,
    fun hc => ?repeated⟩⟩
  case hold =>
    have hexec : exec .holdTimerExpiry s = .next (s.advanceTo c.due).holdExpiry.grant := by
      simp only [exec, execHoldTimerExpiry, hc, onExpiry_some]
    have honly : OnlyBattery (s.advanceTo c.due) (s.advanceTo c.due).holdExpiry := by
      unfold State.holdExpiry
      dsimp only
      split
      · exact ((OnlyBattery.setBattery _ _).trans (.setBattery _ _)).trans (.chargerUpdate _)
      · exact .setBattery_update _ _
    rw [State.grant_at hgrant c.due honly.sameArrays] at hexec
    refine ⟨_, hexec, ?_⟩
    simp only [honly.at_expiry, and_true]
    unfold State.holdExpiry
    by_cases h : s.battery.charge = .bulk ∨ s.battery.charge = .absorb
    all_goals simp [h, BatteryUnit.workingTemp, BatteryUnit.inCharge]
  case absorb =>
    have hend : (s.advanceTo c.due).absorbExpiry =
        (((s.advanceTo c.due).setBattery { s.battery with absorbTimer := none }).setCharge .float).chargerUpdate := by
      simp [State.absorbExpiry, hcharge]
    have hexec : exec .absorbTimerExpiry s = .next (s.advanceTo c.due).absorbExpiry.grant := by
      simp only [exec, execAbsorbTimerExpiry, hc, onExpiry_some]
    have honly : OnlyBattery (s.advanceTo c.due) (s.advanceTo c.due).absorbExpiry := by
      rw [hend]
      exact ((OnlyBattery.setBattery _ _).trans (.setBattery _ _)).trans (.chargerUpdate _)
    rw [State.grant_at hgrant c.due honly.sameArrays] at hexec
    refine ⟨_, hexec, ?_, ?_, ?_, honly.at_expiry⟩
    all_goals simp [hend, BatteryUnit.inCharge]
  case rebulk =>
    have hend : (s.advanceTo c.due).rebulkExpiry =
        (((s.advanceTo c.due).setBattery { s.battery with rebulkTimer := none }).setCharge .bulk).chargerUpdate := by
      simp [State.rebulkExpiry, hcharge, BatteryUnit.bulkChoice, htemp]
    have hexec : exec .rebulkTimerExpiry s = .next (s.advanceTo c.due).rebulkExpiry.grant := by
      simp only [exec, execRebulkTimerExpiry, hc, onExpiry_some]
    have honly : OnlyBattery (s.advanceTo c.due) (s.advanceTo c.due).rebulkExpiry := by
      rw [hend]
      exact ((OnlyBattery.setBattery _ _).trans (.setBattery _ _)).trans (.chargerUpdate _)
    rw [State.grant_at hgrant c.due honly.sameArrays] at hexec
    refine ⟨_, hexec, ?_, ?_, ?_, ?_, honly.at_expiry⟩
    all_goals simp [hend, BatteryUnit.inCharge]
  case floatFull =>
    have hexec : exec .floatFullTimerExpiry s = .next (s.advanceTo c.due).floatFullExpiry.grant := by
      simp only [exec, execFloatFullTimerExpiry, hc, onExpiry_some]
    have honly : OnlyBattery (s.advanceTo c.due) (s.advanceTo c.due).floatFullExpiry := .setBattery _ _
    rw [State.grant_at hgrant c.due honly.sameArrays] at hexec
    exact ⟨_, hexec, by simp [State.floatFullExpiry, State.advanceTo_timer], honly.at_expiry⟩
  case repeated =>
    have hexec : exec .chargerRepeatTimerExpiry s = .next (s.advanceTo c.due).chargerSend.grant := by
      simp only [exec, execChargerRepeatTimerExpiry, hc, onExpiry_some]
    have honly : OnlyBattery (s.advanceTo c.due) (s.advanceTo c.due).chargerSend := (OnlyBattery.setBattery _ _).trans (.hand _ _)
    have hcontent : (s.advanceTo c.due).chargerContent = s.chargerContent := State.chargerContent_congr (by simp) (by simp)
    rw [State.grant_at hgrant c.due honly.sameArrays] at hexec
    refine ⟨_, hexec, ?_, ?_, honly.at_expiry⟩
    · simp [State.chargerSend, hcontent, State.advanceTo_timer]
    · rw [State.chargerSend_tx, hcontent]

/-! ## The end of a test (R131, R132) -/

theorem State.testMinimum_congr {s t : State} (htemp : t.battery.workingTemp = s.battery.workingTemp) (hstore : t.store = s.store) :
    t.testMinimum = s.testMinimum := by
  simp [State.testMinimum, (State.tables_congr hstore).2.1, htemp]

theorem State.testPasses_congr {s t : State} (hvMin : t.battery.vMin = s.battery.vMin) (hmin : t.testMinimum = s.testMinimum) :
    t.testPasses = s.testPasses := by
  rw [State.testPasses, hmin, hvMin, State.testPasses]

/-- The readings of a test are those of its unit, the tables and the counter. -/
theorem State.test_congr {s t : State} (hbattery : t.battery = { s.battery with testTimer := none }) (hstore : t.store = s.store) :
    (∀ cause, t.abortReport cause = s.abortReport cause) ∧ (∀ result h n, t.completeReport result h n = s.completeReport result h n) ∧
      t.testPasses = s.testPasses ∧ t.battery.load = s.battery.load := by
  have htemp : t.battery.workingTemp = s.battery.workingTemp := by simp [BatteryUnit.workingTemp, hbattery]
  have hmin := State.testMinimum_congr htemp hstore
  have hpasses : t.testPasses = s.testPasses := State.testPasses_congr (by rw [hbattery]) hmin
  have hload : t.battery.load = s.battery.load := by simp [BatteryUnit.load, hbattery]
  refine ⟨fun cause => ?_, fun result h n => ?_, hpasses, hload⟩
  · simp [State.abortReport, hmin, htemp]
    simp [hbattery]
  · simp [State.completeReport, hmin, htemp, hload]
    simp [hbattery]

/-- A completed test with nothing pending. -/
theorem State.completeTest_of_nothing {s : State} (pass : Bool) (h : s.nothingPending) :
    s.completeTest pass =
      let result : TestResult := if pass then .pass else .fail
      let health := healthAfter pass s.battery.health
      let count := failCountAfter pass s.battery.failCount
      let b := { s.battery.testEnded result s.cmd.seconds with health := health, failCount := count }
      ((s.setBattery (b.inCharge b.bulkChoice)).chargerUpdate).report
        (if health = .failed ∧ s.battery.health ≠ .failed then 5 else 2) (.battery (s.completeReport result health count)) := by
  rw [State.completeTest]
  dsimp only
  rw [State.noticeTestEnded_of_nothing (by simpa [State.nothingPending] using h)]

/-- Settles O34: a test without a load is aborted; one with a load passes or fails by its lowest voltage. -/
theorem batteryTestConcludes : Obligations.BatteryTestConcludes := by
  unfold Obligations.BatteryTestConcludes
  intro s c hc hrun hnothing hgrant
  generalize hv : (s.advanceTo c.due).setBattery { s.battery with testTimer := none } = v
  have hexec : exec .testDurationTimerExpiry s =
      .next (if s.battery.load ≤ 0 then v.abortTest .noLoad v.entryChoice else v.completeTest (s.advanceTo c.due).testPasses).grant := by
    have hend : (s.advanceTo c.due).testExpiry =
        if s.battery.load ≤ 0 then v.abortTest .noLoad v.entryChoice else v.completeTest (s.advanceTo c.due).testPasses := by
      simp [State.testExpiry, hrun, ← hv]
    simp only [exec, execTestDurationTimerExpiry, hc, onExpiry_some, hend]
  have hvs : v.battery = { s.battery with testTimer := none } ∧ v.store = s.store ∧ v.reports = s.reports ∧
      v.cmd.seconds = s.cmd.seconds ∧ v.tags = s.tags ∧
      SamePath s v ∧ SameDrive s v ∧ v.faults = s.faults ∧ MovedTo c.due s v ∧ v.supply = s.supply := by
    subst hv; simp [State.advanceTo_now, MovedTo, SamePath, SameDrive]
  obtain ⟨hbattery, hstore, hreports, hseconds, htags, ⟨hsample, hmag, hoc⟩, ⟨hseq, hact⟩, hfaults, hmoved, hsupply⟩ := hvs
  have hpasses : (s.advanceTo c.due).testPasses = s.testPasses :=
     State.testPasses_congr (by simp) (State.testMinimum_congr (by simp) (by simp))
  obtain ⟨habort, hcomplete, -, -⟩ := State.test_congr hbattery hstore
  have hvnothing : v.nothingPending := by rw [State.nothingPending, hstore]; exact hnothing
  rw [hpasses] at hexec
  by_cases hload : s.battery.load ≤ 0
  · rw [if_pos hload, State.abortTest_of_nothing _ _ (by rw [hbattery]; exact hrun) hvnothing, habort,
      State.grant_of_arrays hgrant (by simp [SameArrays, hstore, htags])] at hexec
    refine ⟨_, hexec, ?_⟩
    have hno : ¬ 0 < s.battery.load := by omega
    simp_all [State.report, BatteryUnit.testEnded, SamePath, SameDrive, SameArrays, MovedTo]
  · rw [if_neg hload, State.completeTest_of_nothing _ hvnothing, State.grant_of_arrays hgrant (by simp [SameArrays, hstore, htags])] at hexec
    refine ⟨_, hexec, ?_⟩
    have hpos : 0 < s.battery.load := by omega
    cases hpass : s.testPasses
    · cases hhealth : s.battery.health <;>
      simp_all [State.report, BatteryUnit.testEnded, healthAfter, failCountAfter, BatteryUnit.bulkChoice, SamePath, SameDrive, SameArrays, MovedTo]
    · simp_all [State.report, BatteryUnit.testEnded, healthAfter, failCountAfter, BatteryUnit.bulkChoice, SamePath, SameDrive, SameArrays, MovedTo]

/-! ## The start of a test (R128, R129) -/

/-- A test that starts: the unit in TEST with its measurement cleared, and the content sent TEST_LOAD unless disconnected. -/
theorem State.startTest_battery (s : State) (origin : TestOrigin) :
    let b := (s.startTest origin).battery
    b.testState = .running ∧ b.testOrigin = origin ∧ b.charge = .test ∧ b.vRest = some s.supply.meas.battery ∧ b.vMin = none ∧
      b.dischargeSum = 0 ∧ b.frameCount = 0 ∧ b.testTimer = s.timer (sec (testDuration s.batteryTable)) ∧
      b.retryTimer = s.battery.retryTimer ∧ b.q = s.battery.q ∧ (s.battery.disconnect = false → b.sent = ⟨.testLoad, 0, 0⟩) := by
  simp +contextual [State.startTest, State.chargerUpdate_sent, State.chargerContent]

theorem State.startTest_only (s : State) (origin : TestOrigin) : OnlyBattery s (s.startTest origin) :=
  .setBattery_update _ _

/-- The try of the schedule (R128): not due, not ready, or started. -/
theorem State.tryScheduled_cases (s : State) (hidle : s.battery.testState = .idle) (hretry : s.battery.retryTimer = none) :
    s.tryScheduled = if s.testDue then
      (if s.testReady then s.startTest .scheduled else s.setBattery { s.battery with retryTimer := s.timer (sec 600) }) else s := by
  simp [State.tryScheduled, hidle, hretry]

theorem State.tryScheduled_only (s : State) : OnlyBattery s s.tryScheduled := by
  unfold State.tryScheduled
  split
  · split
    · exact s.startTest_only _
    · exact .setBattery _ _
  · simp [OnlyBattery, SamePath, SameDrive, SameLogs, SameArrays]

/-- Settles O35: a due test starts where its preconditions hold, from the schedule or at a request. -/
theorem batteryTestStarts : Obligations.BatteryTestStarts := by
  unfold Obligations.BatteryTestStarts
  refine ⟨fun s c hc hidle hgrant => ?retry, fun r s hgrant => ?request⟩
  case retry =>
    generalize hv : (s.advanceTo c.due).setBattery { s.battery with retryTimer := none } = v
    have hexec : exec .scheduleRetryTimerExpiry s = .next v.tryScheduled.grant := by
      have hend : (s.advanceTo c.due).setBattery { (s.advanceTo c.due).battery with retryTimer := none } = v := by simp [← hv]
      simp only [exec, execScheduleRetryTimerExpiry, hc, onExpiry_some, hend]
    have honly : OnlyBattery (s.advanceTo c.due) v.tryScheduled := by
      rw [← hv]
      exact (OnlyBattery.setBattery _ _).trans (State.tryScheduled_only _)
    rw [State.grant_at hgrant c.due honly.sameArrays] at hexec
    have hvs : v.battery = { s.battery with retryTimer := none } ∧ v.batteryTable = s.batteryTable ∧ v.supply = s.supply ∧
        v.testDue = s.testDue ∧ v.testReady = s.testReady ∧ ∀ len, v.timer len = startAt (max s.now c.due) len := by
      subst hv
      simp [State.testDue, State.testReady, State.sinceTest, State.batteryTable, State.table, State.tripReady, State.fresh, State.unit,
        State.timer, State.advanceTo_now]
    obtain ⟨hbattery, htable, hsupply, hdue, hready, htimer⟩ := hvs
    refine ⟨_, hexec, ?_, ?_, ?_, honly.at_expiry⟩
    all_goals rw [State.tryScheduled_cases v (by rw [hbattery]; exact hidle) (by rw [hbattery]), hdue, hready]
    · intro h
      simp [h, hbattery]
    · intro h h'
      simp [h, h', hbattery, htimer]
    · intro h h'
      obtain ⟨hstate, horigin, hcharge, hrest, hmin, hsum, hcount, htest, -, -, hsent⟩ := v.startTest_battery .scheduled
      simp only [h, h', if_true]
      exact ⟨hstate, horigin, hcharge, by rw [hrest, hsupply], hmin, hcount, by rw [htest, htable, htimer],
        fun hd => hsent (by rw [hbattery]; exact hd)⟩
  case request =>
    have hexec : exec (.batteryTest r) s = .next ((s.cancelSlot r.origin).batteryTestRequest r).grant := (rfl)
    have honly : OnlyBattery s ((s.cancelSlot r.origin).batteryTestRequest r) := by
      have hslot : OnlyBattery s (s.cancelSlot r.origin) := by
        simp [OnlyBattery, SamePath, SameDrive, SameLogs, SameArrays]
      unfold State.batteryTestRequest
      split
      · exact hslot.trans (.hand _ _)
      · split
        · exact (hslot.trans (State.startTest_only _ _)).trans (.hand _ _)
        · exact hslot.trans (.hand _ _)
    rw [State.grant_of_arrays hgrant honly.sameArrays] at hexec
    refine ⟨_, hexec, fun h => ?_, fun h h' => ?_, fun h h' => ?_, by simpa [OnlyBattery, SameClock] using honly⟩
    · simp [State.batteryTestRequest, h, Handed]
    · simp [State.batteryTestRequest, h, h', Handed]
    · obtain ⟨hstate, horigin, hcharge, hrest, hmin, hsum, hcount, htest, -⟩ := (s.cancelSlot r.origin).startTest_battery .requested
      simp [State.batteryTestRequest, h, h', hstate, horigin, hcharge, hrest, hmin, hsum, htest, State.timer]

end Sys2Proof.Machine
end

