-- ==== Sys2Proof/Proofs/Second.lean ====
section
/-! The whole second (O11), and the try of a scheduled test that it shares with TIME_SET (R99, R128). -/

namespace Sys2Proof.Machine

/-! ## A scheduled test tried -/

/-- A CHARGER update hands its frame where the content changes, and nothing otherwise. -/
theorem State.chargerUpdate_links (s : State) :
    s.chargerUpdate.links = s.links ∨ s.chargerUpdate.links = { s.links with tx := s.links.tx ++ [s.chargerContent.frame] } := by
  unfold State.chargerUpdate
  split
  · exact .inl rfl
  · exact .inr (by simp [State.chargerSend, State.hand_links _ _ (ChargerContent.frame_kind_ne _)])

/-- What a CHARGER update hands. -/
theorem State.chargerUpdate_tx (s : State) : ∃ charger, s.chargerUpdate.links.tx = s.links.tx ++ charger := by
  rcases s.chargerUpdate_links with h | h
  · exact ⟨[], by rw [h, List.append_nil]⟩
  · exact ⟨_, by rw [h]⟩

/-- A try hands CHARGER frames only where it starts a test. -/
theorem State.tryScheduled_tx (s : State) : ∃ charger, s.tryScheduled.links.tx = s.links.tx ++ charger ∧
    (s.tryScheduled.battery.testState = s.battery.testState → charger = []) := by
  unfold State.tryScheduled
  split
  · next hdue =>
    split
    · obtain ⟨charger, hcharger⟩ := State.chargerUpdate_tx (s.setBattery ({ s.battery with
        testState := .running, testOrigin := .scheduled, vRest := some s.supply.meas.battery, vMin := none, dischargeSum := 0,
        frameCount := 0, testTimer := s.timer (sec (testDuration s.batteryTable)) }.inCharge .test))
      refine ⟨charger, hcharger, fun hsame => ?_⟩
      rw [(s.startTest_battery .scheduled).1, hdue.2.1] at hsame
      exact nomatch hsame
    · exact ⟨[], by simp⟩
  · exact ⟨[], by simp⟩

/-- The try of the schedule as the statements give it, from a state that agrees with `s` in all that it reads. -/
theorem State.tryScheduled_scheduledTry {s u : State} {seconds : Long} {moment : Nat} (hbattery : u.battery = s.battery)
    (hsupply : u.supply = s.supply) (htable : u.batteryTable = s.batteryTable) (hnow : u.now = moment)
    (hdue : u.testDue = (s.setCmd { s.cmd with seconds := seconds }).testDue)
    (hready : u.testReady = (s.setCmd { s.cmd with seconds := seconds }).testReady) :
    ScheduledTry s u.tryScheduled seconds moment := by
  unfold ScheduledTry
  dsimp only
  rw [← hdue, ← hready]
  refine ⟨fun hd hidle hretry => ?_, fun hnot => ?_⟩
  · rw [u.tryScheduled_cases (by rw [hbattery]; exact hidle) (by rw [hbattery]; exact hretry), if_pos hd]
    refine ⟨fun hr => ?_, fun hr => ?_⟩
    · obtain ⟨hstate, horigin, hcharge, hrest, hmin, hsum, hcount, htest, hstart, hq, -⟩ := u.startTest_battery .scheduled
      rw [if_pos hr]
      exact ⟨hstate, horigin, hcharge, by rw [hrest, hsupply], hmin, hsum, hcount, by rw [htest, htable, State.timer, hnow],
        by rw [hstart, hbattery, hretry], by rw [hq, hbattery]⟩
    · rw [if_neg (by simp [hr])]
      simp [hbattery, State.timer, hnow]
  · have hskip : ¬ (u.testDue = true ∧ u.battery.testState = .idle ∧ u.battery.retryTimer.isNone = true) := by
      rw [hbattery, Option.isNone_iff_eq_none]
      rintro ⟨hd, hidle, hretry⟩
      rcases hnot with h | h | h
      · simp [hd] at h
      · exact h hidle
      · exact h hretry
    rw [State.tryScheduled, if_neg hskip, hbattery]

/-! ## The whole second (R175) -/

theorem SequenceController.clocked_eq (q : SequenceController) :
    q.clocked = { q with openClock := if q.openClockRuns then min 65535 (q.openClock + 1) else q.openClock } := by
  unfold SequenceController.clocked
  split <;> rfl

theorem State.refill_reports (s : State) :
    s.refill.reports = if s.supply.restoreMark then
      { s.reports with budget := min (airtimeCeiling s.unit : Int) (s.reports.budget + refillRate s.unit) } else s.reports := by
  unfold State.refill
  split <;> simp

/-- The METERING frame of a whole second clears the flag, and is held while fewer than 1,024 bytes wait (R16, R17, R182). -/
theorem State.secondMetering_effect {s : State} (h : s.mag.wholeSecond = true) :
    s.secondMetering.mag = { s.mag with wholeSecond := decide (s.sample.stream = .valid ∨ s.supply.power = .cutoff) } ∧
      s.secondMetering.links.tx = s.links.tx ++
        (if s.sample.stream ≠ .valid ∧ s.supply.power ≠ .cutoff ∧ s.links.waitingBytes < 1024 then [s.meteringFrame] else []) := by
  have hkind : s.meteringFrame.kind = kindMetering := (rfl)
  by_cases hdue : s.sample.stream ≠ .valid ∧ s.supply.power ≠ .cutoff
  · by_cases hroom : 1024 ≤ s.links.waitingBytes
    · simp [State.secondMetering, State.sendMetering, State.hand, hdue, hkind, hroom]
    · simp [State.secondMetering, State.sendMetering, State.hand, hdue, hkind, hroom]
  · rw [State.secondMetering, if_neg hdue]
    have hor : s.sample.stream = .valid ∨ s.supply.power = .cutoff := by
      by_contra hn
      exact hdue (not_or.mp hn)
    rcases hor with h' | h' <;> simp [h', ← h]

/-- Settles O11: the counts, then the METERING frame, then the try. -/
theorem wholeSecondCounts : Obligations.WholeSecondCounts := by
  unfold Obligations.WholeSecondCounts
  intro s hgrant
  generalize hv : ((s.advanceTo s.nextSecond).setNextSecond (s.nextSecond + sec 1)).secondCounts = v
  generalize hw : v.secondMetering = w
  have hexec : exec .wholeSecond s = .next w.tryScheduled.grant := by
    simp only [exec, execWholeSecond, State.second, hv, hw]
  have hvs : v.now = max s.now s.nextSecond ∧ v.nextSecond = s.nextSecond + 2000 ∧ v.cmd.seconds = s.cmd.seconds + 1 ∧
      v.cmd.slot = s.cmd.slot ∧ v.cmd.selectTimer = s.cmd.selectTimer ∧ v.cmd.restartMark = s.cmd.restartMark ∧
      v.cmd.deferredClose = s.cmd.deferredClose ∧ v.mag = { s.mag with wholeSecond := true } ∧
      v.seq = { s.seq with openClock := if s.seq.openClockRuns then min 65535 (s.seq.openClock + 1) else s.seq.openClock } ∧
      v.reports = (if s.supply.restoreMark then
          { s.reports with budget := min (airtimeCeiling s.unit : Int) (s.reports.budget + refillRate s.unit) }
        else s.reports) ∧ v.links = (s.advanceTo s.nextSecond).links ∧ v.sample = s.sample ∧ v.oc = s.oc ∧ v.act = s.act ∧
      v.supply = s.supply ∧ v.battery = s.battery ∧ v.faults = s.faults ∧ v.tags = s.tags ∧ v.store = s.store ∧ v.free = s.free ∧
      v.pending = s.pending := by
    subst hv
    simp [State.secondCounts, State.refill_reports, SequenceController.clocked_eq, State.advanceTo_now, State.unit, State.table, sec]
  obtain ⟨hnow, hnext, hseconds, hslot, hselect, hmark, hdeferred, hmag, hseq, hreports, hlinks, hsample, hoc, hact, hsupply, hbattery, hfaults,
    htags, hstore, hfree, hpending⟩ := hvs
  have hframe : v.meteringFrame = s.meteringFrame := by
    have hsoc := State.soc_congr (s := s) (t := v) (by rw [hbattery]) hstore
    simp [State.meteringFrame, hmag, hseq, hsample, hsupply, hsoc]
  have hws : w.mag = { s.mag with wholeSecond := decide (s.sample.stream = .valid ∨ s.supply.power = .cutoff) } ∧
      w.links.tx = v.links.tx ++
        (if s.sample.stream ≠ .valid ∧ s.supply.power ≠ .cutoff ∧ v.links.waitingBytes < 1024 then [s.meteringFrame] else []) := by
    obtain ⟨hwmag, hwtx⟩ := State.secondMetering_effect (s := v) (by rw [hmag])
    rw [← hw, hwmag, hwtx, hframe, hsample, hsupply, hmag]
    exact ⟨rfl, rfl⟩
  obtain ⟨hwmag, hwtx⟩ := hws
  have hsame : w.now = v.now ∧ w.nextSecond = v.nextSecond ∧ w.cmd = v.cmd ∧ w.seq = v.seq ∧ w.reports = v.reports ∧ w.sample = v.sample ∧
      w.oc = v.oc ∧ w.act = v.act ∧ w.supply = v.supply ∧ w.battery = v.battery ∧ w.faults = v.faults ∧ w.tags = v.tags ∧
      w.store = v.store ∧ w.free = v.free ∧ w.pending = v.pending := by
    subst hw
    simp
  obtain ⟨hwnow, hwnext, hwcmd, hwseq, hwreports, hwsample, hwoc, hwact, hwsupply, hwbattery, hwfaults, hwtags, hwstore, hwfree,
    hwpending⟩ := hsame
  obtain ⟨charger, hcharger, hnone⟩ := w.tryScheduled_tx
  have hwunit : w.unit = s.unit ∧ w.batteryTable = s.batteryTable := by
    obtain ⟨hunit, htable, -⟩ := State.tables_congr (hwstore.trans hstore)
    exact ⟨hunit, htable⟩
  have htry : ScheduledTry s w.tryScheduled (s.cmd.seconds + 1) (max s.now s.nextSecond) :=
    State.tryScheduled_scheduledTry (hwbattery.trans hbattery) (hwsupply.trans hsupply) hwunit.2 (hwnow.trans hnow)
      (by simp [State.testDue, State.sinceTest, State.batteryTable, State.table, *])
      (by simp [State.testReady, State.sinceTest, State.tripReady, State.fresh, State.unit, State.table, *])
  rw [State.grant_of_arrays hgrant (t := w.tryScheduled) (by simp [SameArrays, *])] at hexec
  refine ⟨_, hexec, ?_⟩
  rw [hlinks] at hwtx
  simp only [htry]
  refine ⟨?_, ?_, ?_, ?_, ?_, ?_, ?_, ?_, ?_, ?_, ⟨charger, ?_, ?_⟩, ?_⟩
  all_goals simp_all [SameArrays]

end Sys2Proof.Machine
end

