-- ==== Sys2Proof/Proofs/Reports.lean ====
section
/-! The Report Queue at the ends of its timers (O37, O40), and at a poll (O38). -/

namespace Sys2Proof.Machine

/-! ## STATUS reports (R137) -/

theorem State.statusBody_isStatus (s : State) : s.statusBody.isStatus = true := (rfl)

/-- A STATUS report takes the place of the one in the queue. -/
theorem ReportQueue.enter_of_status (q : ReportQueue) (cls : Nat) (created : Long) {body : ReportBody} (hbody : body.isStatus = true)
    (h : ∃ x ∈ q.records, x.body.isStatus = true) :
    (q.enter cls created body).1 = { q with records := coalesce body created q.records } := by
  simp [ReportQueue.enter, hbody, h]

/-- A STATUS report with none in the queue, and room in it, is placed. -/
theorem ReportQueue.enter_of_room (q : ReportQueue) (cls : Nat) (created : Long) (body : ReportBody)
    (h : ∀ x ∈ q.records, x.body.isStatus = false) (hroom : q.records.length < 32) :
    (q.enter cls created body).1 = q.placed q.records cls created body := by
  have hnone : q.records.any (fun x => x.body.isStatus) = false := by simpa using h
  simp [ReportQueue.enter, hnone, hroom]

/-- Entering a report changes neither the budget nor the status-interval timer. -/
@[simp] theorem ReportQueue.enter_unchanged (q : ReportQueue) (cls : Nat) (created : Long) (body : ReportBody) :
    (q.enter cls created body).1.budget = q.budget ∧ (q.enter cls created body).1.statusTimer = q.statusTimer := by
  rcases q.enter_cases cls created body with ⟨_, _, he⟩ | ⟨_, ⟨_, he⟩ | ⟨_, rest, _, he⟩ | ⟨_, _, he⟩⟩
  all_goals simp [he, ReportQueue.placed, ReportQueue.drop]

/-- Settles O37: the STATUS report takes its place or the next number. -/
theorem statusReportEntered : Obligations.StatusReportEntered := by
  unfold Obligations.StatusReportEntered
  intro s c hc hgrant
  have hexec : exec .statusIntervalTimerExpiry s = .next (s.advanceTo c.due).statusExpiry.grant := by
    simp only [exec, execStatusIntervalTimerExpiry, hc, onExpiry_some]
  have hbody : (s.advanceTo c.due).statusBody = s.statusBody := by
    have hsoc : (s.advanceTo c.due).soc = s.soc := State.soc_congr (by simp) (by simp)
    simp [State.statusBody, hsoc]
  have hreports : (s.advanceTo c.due).statusExpiry.reports =
      ({ s.reports with statusTimer := startAt (max s.now c.due) (sec (statusInterval s.unit)) }.enter 1 s.cmd.seconds s.statusBody).1 := by
    simp [State.statusExpiry, State.report, hbody, State.statusTimer, State.advanceTo_timer]
  rw [State.grant_at hgrant c.due (by simp [SameArrays, State.statusExpiry])] at hexec
  generalize hq : { s.reports with statusTimer := startAt (max s.now c.due) (sec (statusInterval s.unit)) } = q at hreports
  have hqs : q.records = s.reports.records ∧ q.nextNumber = s.reports.nextNumber ∧ q.budget = s.reports.budget ∧
      q.statusTimer = startAt (max s.now c.due) (sec (statusInterval s.unit)) := by
    subst hq
    exact ⟨rfl, rfl, rfl, rfl⟩
  obtain ⟨hrecords, hnumber, hbudget, htimer⟩ := hqs
  refine ⟨_, hexec, ?_, fun hin => ?_, fun hnone hroom => ?_, ?_, ?_⟩
  · simp [hreports, htimer]
  · rw [hreports, ReportQueue.enter_of_status _ _ _ s.statusBody_isStatus (by rw [hrecords]; exact hin), hrecords]
    exact ⟨rfl, hnumber⟩
  · rw [hreports, ReportQueue.enter_of_room _ _ _ _ (by rw [hrecords]; exact hnone) (by rw [hrecords]; exact hroom), hrecords]
    simp [ReportQueue.placed, hnumber]
  · simp [hreports, hbudget]
  · simp [State.statusExpiry, SamePath, SameDrive, SamePower, SameArrays, MovedTo, State.advanceTo_now]

/-! ## The ack timers (R145) -/

theorem awaitsAck_iff (number : Word) (r : Report) :
    awaitsAck number r = true ↔ r.number = number ∧ r.state = .sent ∧ ∃ c, r.ack = some c := by
  simp [awaitsAck, Option.isSome_iff_exists, and_assoc]

theorem Report.dueBy_iff {r y : Report} {c d : Countdown} (hr : r.ack = some c) (hy : y.ack = some d) :
    r.dueBy y = true ↔ c.due ≤ d.due := by
  simp [Report.dueBy, hr, hy]

/-- The record that expires next is the first of those due earliest (log 38). -/
theorem ReportQueue.expiresNext_first (q : ReportQueue) {before after : List Report} {x : Report} {c : Countdown}
    (hsplit : q.records = before ++ x :: after) (hsent : x.state = .sent) (hc : x.ack = some c)
    (hbefore : ∀ y ∈ before, y.number = x.number → y.state = .sent → ∀ d, y.ack = some d → c.due < d.due)
    (hafter : ∀ y ∈ after, y.number = x.number → y.state = .sent → ∀ d, y.ack = some d → c.due ≤ d.due) :
    (∀ y ∈ before, q.expiresNext x.number y = false) ∧ q.expiresNext x.number x = true := by
  have hx : awaitsAck x.number x = true := (awaitsAck_iff _ _).2 ⟨rfl, hsent, c, hc⟩
  refine ⟨fun y hy => ?_, (q.expiresNext_iff _ _).2 ⟨hx, fun y hy hawaits => ?_⟩⟩
  · by_contra hnext
    obtain ⟨hawaits, hall⟩ := (q.expiresNext_iff _ _).1 (by simpa using hnext)
    obtain ⟨hnumber, hstate, d, hd⟩ := (awaitsAck_iff _ _).1 hawaits
    have hle := (Report.dueBy_iff hd hc).1 (hall x (by simp [hsplit]) hx)
    exact absurd (hbefore y hy hnumber hstate d hd) (by omega)
  · obtain ⟨hnumber, hstate, d, hd⟩ := (awaitsAck_iff _ _).1 hawaits
    rw [Report.dueBy_iff hc hd]
    rw [hsplit] at hy
    rcases List.mem_append.1 hy with hmem | hmem
    · exact (hbefore y hmem hnumber hstate d hd).le
    · rcases List.mem_cons.1 hmem with heq | hmem
      · rw [heq, hc] at hd
        exact (congrArg Countdown.due (Option.some.inj hd)).le
      · exact hafter y hmem hnumber hstate d hd

theorem find?_append_of_first {α : Type} (p : α → Bool) {before after : List α} {x : α} (hb : ∀ y ∈ before, p y = false) (hx : p x = true) :
    (before ++ x :: after).find? p = some x := by
  rw [List.find?_append, List.find?_eq_none.2 (by simpa using hb)]
  simp [hx]

/-- Settles O40: the record that expires next is queued again, or removed after its fourth send. -/
theorem ackTimeoutRequeues : Obligations.AckTimeoutRequeues := by
  unfold Obligations.AckTimeoutRequeues
  intro s c before x after hsplit hsent hc hbefore hafter hgrant
  obtain ⟨hfirst, hx⟩ := s.reports.expiresNext_first hsplit hsent hc hbefore hafter
  have hfind : s.reports.records.find? (s.reports.expiresNext x.number) = some x := by
    rw [hsplit]
    exact find?_append_of_first _ hfirst hx
  have htimer : s.reports.ackTimer x.number = some c := by
    simp [ReportQueue.ackTimer, hfind, hc]
  have hexec : exec (.ackTimerExpiry x.number) s = .next ((s.advanceTo c.due).ackExpiry x.number).grant := by
    simp only [exec, execAckTimerExpiry, htimer, onExpiry_some]
  have hreports : ((s.advanceTo c.due).ackExpiry x.number).reports =
      { (if 4 ≤ x.sends then s.reports.drop else s.reports) with
        records := before ++ ((s.advanceTo c.due).afterTimeout x).toList ++ after } := by
    simp only [State.ackExpiry, State.advanceTo_frame, hfind, Option.any_some, decide_eq_true_eq, State.setReports_reports]
    rw [hsplit, updateFirst_append _ _ before x after hfirst hx]
  rw [State.grant_at hgrant c.due (by simp [SameArrays, State.ackExpiry])] at hexec
  refine ⟨_, hexec, fun hfew => ?_, fun hmany => ?_, ?_⟩
  · rw [hreports, if_neg (by omega), State.afterTimeout, if_neg (by omega)]
    simp [State.advanceTo_now]
  · rw [hreports, if_pos hmany, State.afterTimeout, if_pos hmany]
    simp [ReportQueue.drop]
  · simp [State.ackExpiry, SamePath, SameDrive, SamePower, SameArrays, MovedTo, State.advanceTo_now]

/-! ## Polling (R142, R143) -/

/-- What a poll reads of the state. -/
theorem State.sendable_congr {s t : State} (hsupply : t.supply = s.supply) (hstore : t.store = s.store) (hnow : t.now = s.now) :
    t.sendable = s.sendable := by
  funext r
  unfold State.sendable State.threshold
  rw [hsupply, hnow, (State.tables_congr hstore).1]

theorem State.afterSending_congr {s t : State} (hstore : t.store = s.store) (hnow : t.now = s.now) : t.afterSending = s.afterSending := by
  funext r
  simp [State.afterSending, State.timer, hnow, (State.tables_congr hstore).1]

theorem exec_reportPoll (r : Req) (s : State) : exec (.reportPoll r) s = .next (s.poll r).grant := (rfl)

/-- The queue after a record was sent (R143). -/
theorem State.sendReport_reports (s : State) (q : Req) (x : Report) :
    (s.sendReport q x).reports = { s.reports with
      budget := s.reports.budget - s.cost x
      dropped := if x.body.isStatus then 0 else s.reports.dropped
      records := updateFirst s.sendable s.afterSending s.reports.records } := by
  generalize hv : (s.respond q .reportPoll .ok (encWord x.number)).hand (s.toSend x).frame = v
  have hvs : v.supply = s.supply ∧ v.store = s.store ∧ v.now = s.now ∧ v.reports = s.reports := by
    subst hv
    simp
  obtain ⟨hsupply, hstore, hnow, hreports⟩ := hvs
  have hcost : v.cost x = s.cost x := by simp [State.cost, State.toSend, hreports]
  rw [State.sendReport, hv]
  simp [State.chargeSent, State.sendable_congr hsupply hstore hnow, State.afterSending_congr hstore hnow, hcost, hreports]

theorem Report.frame_kind_ne (x : Report) : x.frame.kind ≠ kindMetering := by
  simp [Report.frame, kindReport, kindMetering]

/-- What the Supply Monitor is told of: the response and the report handed, the queue charged. -/
def State.sentCharged (s : State) (q : Req) (x : Report) : State :=
  ((s.respond q .reportPoll .ok (encWord x.number)).hand (s.toSend x).frame).chargeSent x

theorem State.sendReport_eq (s : State) (q : Req) (x : Report) : s.sendReport q x = (s.sentCharged q x).finalNotice x.number := (rfl)

theorem State.sentCharged_links (s : State) (q : Req) (x : Report) :
    (s.sentCharged q x).links =
      { s.links with tx := s.links.tx ++ [responseFrame q.id 16 .ok (encWord x.number), (s.toSend x).frame] } := by
  simp [State.sentCharged, State.chargeSent, State.hand_links _ _ (Report.frame_kind_ne _)]

@[simp] theorem State.sentCharged_power (s : State) (q : Req) (x : Report) :
    (s.sentCharged q x).supply = s.supply ∧ (s.sentCharged q x).battery = s.battery ∧ (s.sentCharged q x).arbiterIdle = s.arbiterIdle := by
  simp [State.sentCharged, State.chargeSent, State.arbiterIdle]

theorem State.finalNotice_of_other {s : State} {n : Word} (h : s.supply.stage ≠ .draining ∨ s.supply.finalReport ≠ some n) :
    s.finalNotice n = s := by
  rw [State.finalNotice, if_neg]
  rintro ⟨hstage, hfinal⟩
  exact h.elim (fun hne => hne hstage) fun hne => hne hfinal

/-- The final report of a drain: marked as sent, and with the arbiter idle the battery is disconnected (R112). -/
theorem State.finalNotice_of_final {s : State} {n : Word} (hstage : s.supply.stage = .draining) (hfinal : s.supply.finalReport = some n) :
    (s.arbiterIdle = false → s.finalNotice n = s.setSupply { s.supply with finalSent := true }) ∧
      (s.arbiterIdle = true → s.finalNotice n =
        ((s.setSupply { s.supply with finalSent := true, stage := .disconnected, finalTimer := none }).setBattery
          { s.battery with disconnect := true }).chargerUpdate) := by
  have harbiter (u : SupplyMonitor) : (s.setSupply u).arbiterIdle = s.arbiterIdle := by simp [State.arbiterIdle]
  rw [State.finalNotice, if_pos ⟨hstage, hfinal⟩, State.disconnectTest, harbiter]
  refine ⟨fun h => ?_, fun h => ?_⟩
  · simp only [h, Bool.false_eq_true, false_and, and_false, if_false]
  · simp only [h, State.setSupply_supply, hstage, SupplyMonitor.finalSettled, Bool.true_or, and_self, if_true]
    rfl

/-- A poll with nothing that may be sent is answered NONE. -/
theorem State.poll_of_none {s : State} (r : Req) (h : (∀ y ∈ s.reports.records, s.sendable y = false) ∨ s.supply.restoreMark = false ∨
    ∃ before x after, s.reports.records = before ++ x :: after ∧ (∀ y ∈ before, s.sendable y = false) ∧ s.sendable x = true ∧
      budgetAllows s.reports.budget (airtimeCeiling s.unit) x.cls (s.cost x) = false) :
    s.poll r = s.respond r .reportPoll .none s.noneBody := by
  rcases h with hall | hrestore | ⟨before, x, after, hsplit, hbefore, hx, hbudget⟩
  · have hnone : s.candidate = none := List.find?_eq_none.2 (by simpa using hall)
    simp [State.poll, hnone]
  · unfold State.poll
    split
    · rfl
    · simp [hrestore]
  · have hfind : s.candidate = some x := by
      rw [State.candidate, hsplit]
      exact find?_append_of_first _ hbefore hx
    simp [State.poll, hfind, hbudget]

/-- Settles O38: the first sendable record is sent where the budget allows it, and the final report ends a drain. -/
theorem pollAnswers : Obligations.PollAnswers := by
  unfold Obligations.PollAnswers
  refine ⟨fun r s before x after hsplit hbefore hx hrestore hbudget hgrant => ?sent, fun r s hnone hgrant => ?none⟩
  case none =>
    have hexec := exec_reportPoll r s
    rw [State.poll_of_none r hnone, State.grant_of_arrays hgrant (by simp [SameArrays])] at hexec
    exact ⟨_, hexec, s.respond_links r _ _ _, s.respond_onlyLinksAndCommand r _ _ _, by simp⟩
  case sent =>
    have hfind : s.candidate = some x := by
      rw [State.candidate, hsplit]
      exact find?_append_of_first _ hbefore hx
    have hpoll : s.poll r = s.sendReport r x := by simp [State.poll, hfind, hrestore, hbudget]
    have hexec := exec_reportPoll r s
    rw [hpoll, State.grant_of_arrays hgrant (by simp [SameArrays])] at hexec
    refine ⟨_, hexec, fun hother => ?_, fun hstage hfinal => ?_, ?_⟩
    · rw [State.sendReport_eq, State.finalNotice_of_other (by simpa using hother)]
      exact ⟨by simp [SamePower], s.sentCharged_links r x⟩
    · obtain ⟨hbusy, hidle⟩ := State.finalNotice_of_final (s := s.sentCharged r x) (by simpa using hstage) (by simpa using hfinal)
      have hlinks := s.sentCharged_links r x
      rw [State.sendReport_eq]
      refine ⟨fun h => ?_, fun h => ?_, ?_⟩
      · rw [hbusy (by simpa using h)]
        simp
      · rw [hidle (by simpa using h)]
        simp [State.chargerUpdate_sent, State.chargerContent]
      · cases h : s.arbiterIdle with
        | false =>
          rw [hbusy (by simpa using h)]
          exact ⟨[], by simp [hlinks]⟩
        | true =>
          rw [hidle (by simpa using h)]
          rcases State.chargerUpdate_links (((s.sentCharged r x).setSupply { (s.sentCharged r x).supply with
            finalSent := true, stage := .disconnected, finalTimer := none }).setBattery
              { (s.sentCharged r x).battery with disconnect := true }) with h' | h'
          · exact ⟨[], by rw [h']; simp [hlinks]⟩
          · exact ⟨_, by rw [h']; simp [hlinks]; rfl⟩
    · have hrecords : updateFirst s.sendable s.afterSending s.reports.records = before ++ (s.afterSending x).toList ++ after := by
        rw [hsplit, updateFirst_append _ _ before x after hbefore hx]
      rw [State.sendReport_reports, hrecords]
      refine ⟨rfl, fun hack => ?_, fun hack => ?_, rfl, rfl, ?_⟩
      · simp [State.afterSending, hack]
      · simp [State.afterSending, hack, State.timer]
      · simp [SamePath, SameDrive, SameArrays, SameClock]

end Sys2Proof.Machine
end

