-- ==== Sys2Proof/Proofs/Settings.lean ====
section
/-! The requests of the Table Store (O18, O42, O43, O44), and the ends of its timers and writes (O46, O47). -/

namespace Sys2Proof.Machine

section
variable {s : State} {r : Req}

/-! ## Requests that are refused, and requests that touch the buffer or a lock alone -/

/-- A request that is answered at once, and does nothing else. -/
theorem exec_answered {i : Instr} {u : State} (hexec : exec i s = .next u.grant) (hgrant : NothingToGrant s) {k : RequestKind}
    {c : ResultCode} {body : List Byte} (hu : u = (s.cancelSlot r.origin).respond r k c body) :
    ∃ t, exec i s = .next t ∧ Handed (responseFrame r.id (requestCode k) c body) s t ∧ OnlyLinksAndCommand s t := by
  subst hu
  rw [State.grant_of_arrays hgrant (by simp [SameArrays])] at hexec
  exact ⟨_, hexec, s.respond_cancelSlot_handed _ _ _ _ _, s.respond_cancelSlot _ _ _ _ _⟩

/-- The Table Store with another buffer and other locks. -/
def TableStore.staged (t : TableStore) (b : StagingBuffer) (locks : List Bool) : TableStore := { t with buffer := b, locks := locks }

/-- A request that is answered at once, and otherwise writes the buffer and the locks alone. -/
theorem exec_staged {i : Instr} {u : State} (hexec : exec i s = .next u.grant) (hgrant : NothingToGrant s) {k : RequestKind}
    {c : ResultCode} {body : List Byte} {b : StagingBuffer} {locks : List Bool}
    (hu : u = ((s.cancelSlot r.origin).setStore (s.store.staged b locks)).respond r k c body) :
    ∃ t, exec i s = .next t ∧ t.store = s.store.staged b locks ∧ Handed (responseFrame r.id (requestCode k) c body) s t ∧
      SamePath s t ∧ SameDrive s t ∧ SamePower s t ∧ SameLogs s t ∧ t.tags = s.tags ∧ SameClock s t := by
  have hsame : NothingToGrant u := hgrant.of_eq (by simp [hu]) (by simp [hu, TableStore.staged]) (by simp [hu, TableStore.staged])
    (by simp [hu, TableStore.staged])
  rw [u.grant_of_nothing hsame] at hexec
  subst hu
  refine ⟨_, hexec, ?_⟩
  simp [Handed, SamePath, SameDrive, SamePower, SameLogs, SameClock]

theorem State.setStore_setStore (a b : TableStore) : (s.setStore a).setStore b = s.setStore b := (rfl)

theorem State.setLock_staged (id : Nat) (x : Bool) : s.setLock id x = s.setStore (s.store.staged s.store.buffer (s.store.locks.set id x)) :=
  (rfl)

theorem State.setBuffer_staged (b : StagingBuffer) : s.setBuffer b = s.setStore (s.store.staged b s.store.locks) := (rfl)

theorem State.giveUp_staged : s.giveUp = s.setStore (s.store.staged emptyBuffer (s.store.locks.set s.store.buffer.table true)) := (rfl)

end

/-- Settles O44: by the state of the buffer. -/
theorem tableAbortOutcomes : Obligations.TableAbortOutcomes := by
  unfold Obligations.TableAbortOutcomes
  intro r s hgrant
  have hexec : exec (.tableAbort r) s = .next ((s.cancelSlot r.origin).tableAbortRequest r).grant := (rfl)
  have hbusy : (s.cancelSlot r.origin).tableAbortRequest r = (s.cancelSlot r.origin).respond r .tableAbort .busy [] →
      ∃ t, exec (.tableAbort r) s = .next t ∧ t.store = s.store ∧ Handed (responseFrame r.id 7 .busy []) s t ∧
        SamePath s t ∧ SameDrive s t ∧ SamePower s t ∧ SameLogs s t ∧ t.tags = s.tags ∧ SameClock s t := fun hu => by
    obtain ⟨t, ht, hanswer, hpath, hdrive, hpower, hlogs, ⟨htags, hstore⟩, hclock⟩ := exec_answered (k := .tableAbort) hexec hgrant hu
    exact ⟨t, ht, hstore, hanswer, hpath, hdrive, hpower, hlogs, htags, hclock⟩
  by_cases hrestore : s.supply.restoreMark = true
  case neg =>
    obtain ⟨t, ht, hstore, hanswer, hrest⟩ := hbusy (by simp [State.tableAbortRequest, hrestore])
    exact ⟨t, ht, fun _ => ⟨hstore, hanswer⟩, fun h => absurd h hrestore, hrest⟩
  by_cases hempty : s.store.buffer.state = .empty
  · obtain ⟨t, ht, hstore, hanswer, hrest⟩ := exec_staged (r := r) (k := .tableAbort) (c := .ok) (body := []) (b := s.store.buffer)
      (locks := s.store.locks.map fun _ => true) hexec hgrant (by
        simp [State.tableAbortRequest, hrestore, hempty, TableStore.staged])
    exact ⟨t, ht, by simp [hrestore], fun _ => ⟨fun _ => ⟨hstore, hanswer⟩, by simp [hempty], by simp [hempty]⟩, hrest⟩
  by_cases hown : (s.store.buffer.state = .loading ∨ s.store.buffer.state = .pending) ∧ s.store.buffer.origin = r.origin
  · obtain ⟨t, ht, hstore, hanswer, hrest⟩ := exec_staged (r := r) (k := .tableAbort) (c := .ok) (body := []) (b := emptyBuffer)
      (locks := s.store.locks.set s.store.buffer.table true) hexec hgrant (by
        rcases hown.1 with h | h <;> simp [State.tableAbortRequest, hrestore, h, hown.2, State.giveUp_staged])
    have hwriting : s.store.buffer.state ≠ .writing := by rcases hown.1 with h | h <;> simp [h]
    exact ⟨t, ht, by simp [hrestore], fun _ => ⟨fun h => absurd h hempty, fun _ _ => ⟨hstore, hanswer⟩, by simp [hwriting, hown.2]⟩, hrest⟩
  · obtain ⟨t, ht, hstore, hanswer, hrest⟩ := hbusy (by
      cases hstate : s.store.buffer.state <;> simp_all [State.tableAbortRequest])
    exact ⟨t, ht, by simp [hrestore], fun _ => ⟨fun h => absurd h hempty, fun h h' => absurd ⟨h, h'⟩ hown, fun _ => ⟨hstore, hanswer⟩⟩, hrest⟩

/-- Settles O42: each request passes its checks in order, or is answered by the first that fails. -/
theorem tableLoadRequests : Obligations.TableLoadRequests := by
  unfold Obligations.TableLoadRequests
  intro r s hgrant
  dsimp only
  have hunlock (id : Byte) : exec (.tableUnlock r id) s = .next ((s.cancelSlot r.origin).tableUnlockRequest r id.toNat).grant := (rfl)
  have hbegin (id len : Byte) :
      exec (.tableBegin r id len) s = .next ((s.cancelSlot r.origin).tableBeginRequest r id.toNat len.toNat).grant := (rfl)
  have hdata (o : Byte) (ws : List Word) :
      exec (.tableData r o ws) s = .next ((s.cancelSlot r.origin).tableDataRequest r o.toNat ws).grant := (rfl)
  have hzero (id : Byte) : id = 0 ↔ id.toNat = 0 := by bv_omega
  refine ⟨fun hrestore hremote => ⟨fun id hlow hhigh => ?_, fun id len hlow hhigh hbuffer hlock hfits => ?_,
    fun o ws hstate horigin hne hlen hfit => ?_⟩, fun id => ⟨fun hrestore => ?_, fun hrestore hid => ?_, fun hrestore hid => ?_,
      fun hrestore hlow hhigh hremote => ?_⟩, fun id len => ⟨fun hrestore => ?_, fun hrestore hid => ?_, fun hrestore hid =>
        ⟨fun hremote => ?_, fun hremote hbuffer => ?_, fun hremote hbuffer hlock => ?_, fun hremote hbuffer hid' hlock hfits => ?_⟩⟩,
    fun o ws => ⟨fun hlen => ?_, fun hlen hrestore => ?_, fun hlen hrestore => ⟨fun hremote => ?_, fun hremote hbuffer => ?_,
      fun hremote hstate horigin hrange => ?_⟩⟩⟩
  · exact exec_staged (k := .tableUnlock) (hunlock id) hgrant (by
      simp [State.tableUnlockRequest, hrestore, hremote, show ¬ 14 < id.toNat by omega, show id.toNat ≠ 0 by omega, State.setLock_staged])
  · exact exec_staged (k := .tableBegin) (hbegin id len) hgrant (by
      simp [State.tableBeginRequest, hrestore, hremote, show ¬ 14 < id.toNat by omega, show id.toNat ≠ 0 by omega, hbuffer, hlock, hfits,
        State.setBuffer_staged, State.claimed, State.loadingTimer, State.timer])
  · exact exec_staged (k := .tableData) (hdata o ws) hgrant (by
      simp [State.tableDataRequest, hrestore, hremote, show ¬ 48 < ws.length by omega, StagingBuffer.loadedBy, hstate, horigin, hne,
        show ¬ s.store.buffer.length < o.toNat + ws.length by omega, State.setBuffer_staged,
        StagingBuffer.written, State.loadingTimer, State.timer])
  · exact exec_answered (k := .tableUnlock) (hunlock id) hgrant (by simp [State.tableUnlockRequest, hrestore])
  · exact exec_answered (k := .tableUnlock) (hunlock id) hgrant (by simp [State.tableUnlockRequest, hrestore, hid])
  · exact exec_answered (k := .tableUnlock) (hunlock id) hgrant (by simp [State.tableUnlockRequest, hrestore, hid])
  · exact exec_answered (k := .tableUnlock) (hunlock id) hgrant (by
      simp [State.tableUnlockRequest, hrestore, hremote, show ¬ 14 < id.toNat by omega, show id.toNat ≠ 0 by omega])
  · exact exec_answered (k := .tableBegin) (hbegin id len) hgrant (by simp [State.tableBeginRequest, hrestore])
  · exact exec_answered (k := .tableBegin) (hbegin id len) hgrant (by simp [State.tableBeginRequest, hrestore, hid])
  · exact exec_answered (k := .tableBegin) (hbegin id len) hgrant (by
      simp [State.tableBeginRequest, hrestore, hremote, show ¬ 14 < id.toNat by omega])
  · exact exec_answered (k := .tableBegin) (hbegin id len) hgrant (by
      simp [State.tableBeginRequest, hrestore, hremote, show ¬ 14 < id.toNat by omega, hbuffer])
  · have hlocked : s.store.locked id.toNat = true ∨ id.toNat = 0 := hlock.symm.imp_right fun h => (hzero id).1 h
    exact exec_answered (k := .tableBegin) (hbegin id len) hgrant (by
      simp [State.tableBeginRequest, hrestore, hremote, show ¬ 14 < id.toNat by omega, hbuffer, hlocked])
  · have hid0 : id.toNat ≠ 0 := fun h => hid' ((hzero id).2 h)
    exact exec_answered (k := .tableBegin) (hbegin id len) hgrant (by
      simp [State.tableBeginRequest, hrestore, hremote, show ¬ 14 < id.toNat by omega, hbuffer, hlock, hid0, hfits])
  · exact exec_answered (k := .tableData) (hdata o ws) hgrant (by simp [State.tableDataRequest, hlen])
  · exact exec_answered (k := .tableData) (hdata o ws) hgrant (by
      simp [State.tableDataRequest, show ¬ 48 < ws.length by omega, hrestore])
  · exact exec_answered (k := .tableData) (hdata o ws) hgrant (by
      simp [State.tableDataRequest, show ¬ 48 < ws.length by omega, hrestore, hremote])
  · have hother : s.store.buffer.loadedBy r.origin = false := by
      rcases hbuffer with h | h <;> simp [StagingBuffer.loadedBy, h]
    exact exec_answered (k := .tableData) (hdata o ws) hgrant (by
      simp [State.tableDataRequest, show ¬ 48 < ws.length by omega, hrestore, hremote, hother])
  · exact exec_answered (k := .tableData) (hdata o ws) hgrant (by
      simp [State.tableDataRequest, show ¬ 48 < ws.length by omega, hrestore, hremote, StagingBuffer.loadedBy, hstate, horigin, hrange])

/-! ## GROUP_SELECT (R164, R66) -/

theorem groupOf_eq_none {n : Nat} (h : 4 ≤ n) : groupOf n = none := dif_neg (by omega)

theorem groupOf_eq_some {n : Nat} (h : n < 4) : groupOf n = some ⟨n, h⟩ := dif_pos h

/-- A group made active: its number is in force, and a change asks for a state-record write. -/
theorem State.makeActive_effect (s : State) (g : Fin 4) :
    (s.makeActive g).store.activeGroup = g ∧ (s.makeActive g).store.tables = s.store.tables ∧ (s.makeActive g).store.nv = s.store.nv ∧
      (g ≠ s.store.activeGroup → (s.makeActive g).store.recordWaiting.isSome = true) := by
  unfold State.makeActive
  split
  · next h => exact ⟨h.symm, rfl, rfl, fun hne => absurd h hne⟩
  · simp [State.requestRecordWrite]

/-- Settles O18: taken at a rest of the sequence, pending otherwise. -/
theorem groupSelectTakesGroup : Obligations.GroupSelectTakesGroup := by
  unfold Obligations.GroupSelectTakesGroup
  have hselect (r : Req) (group : Byte) (s : State) :
      exec (.groupSelect r group) s = .next ((s.cancelSlot r.origin).groupSelectRequest r group.toNat).grant := (rfl)
  refine ⟨fun r group s hgrant => ⟨fun hrestore => ?_, fun hrestore hgroup => ?_, fun hrestore hgroup hremote => ?_⟩,
    fun r g s hrestore hremote => ?taken⟩
  · exact exec_answered (k := .groupSelect) (hselect r group s) hgrant (by simp [State.groupSelectRequest, hrestore])
  · exact exec_answered (k := .groupSelect) (hselect r group s) hgrant (by
      simp [State.groupSelectRequest, hrestore, groupOf_eq_none hgroup])
  · exact exec_answered (k := .groupSelect) (hselect r group s) hgrant (by
      simp [State.groupSelectRequest, hrestore, groupOf_eq_some hgroup, hremote])
  case taken =>
    have hnumber : groupOf (BitVec.ofNat 8 g : Byte).toNat = some g := by
      have hg : (BitVec.ofNat 8 g : Byte).toNat = g := by
        rw [BitVec.toNat_ofNat]
        omega
      rw [hg]
      exact groupOf_eq_some g.isLt
    have hrests : (s.cancelSlot r.origin).sequenceRests = s.sequenceRests := by simp [State.sequenceRests]
    have hexec := hselect r (BitVec.ofNat 8 g) s
    refine ⟨_, hexec, ?_⟩
    obtain ⟨hactive, htables, hnv, hasked⟩ := (s.cancelSlot r.origin).makeActive_effect g
    cases hrest : s.sequenceRests with
    | true =>
      have hrequest : (s.cancelSlot r.origin).groupSelectRequest r (BitVec.ofNat 8 g : Byte).toNat =
          ((s.cancelSlot r.origin).makeActive g).respond r .groupSelect .ok [] := by
        rw [State.groupSelectRequest, hnumber]
        simp [hrestore, hremote, hrests, hrest]
      have hwrite : g ≠ s.store.activeGroup →
          (((s.cancelSlot r.origin).makeActive g).respond r .groupSelect .ok []).grant.store.recordWaiting.isSome = true ∨
            (((s.cancelSlot r.origin).makeActive g).respond r .groupSelect .ok []).grant.store.inFlight.isSome = true := fun hne =>
        State.grant_recordAsked (by simpa using hasked (by simpa using hne))
      rw [hrequest]
      simp [hactive, htables, hnv, Handed, SamePath, SamePower, SameLogs, SameClock]
      exact hwrite
    | false =>
      have hrequest : (s.cancelSlot r.origin).groupSelectRequest r (BitVec.ofNat 8 g : Byte).toNat =
          ((s.cancelSlot r.origin).setSeq { s.seq with pendingGroup := some g }).respond r .groupSelect .pending [] := by
        rw [State.groupSelectRequest, hnumber]
        simp [hrestore, hremote, hrests, hrest]
      rw [hrequest]
      simp [Handed, SamePath, SamePower, SameLogs, SameClock]

/-! ## Timers of the store (R159, R165) -/

/-- Settles O46: the load is given up; the state record is asked for, and written where the array is free. -/
theorem storeTimersEnd : Obligations.StoreTimersEnd := by
  unfold Obligations.StoreTimersEnd
  refine ⟨fun s c hc hgrant => ?loading, fun s c hc => ⟨fun hidle => ?idle, fun hbusy => ?busy⟩⟩
  case loading =>
    have hexec : exec .loadingTimerExpiry s = .next (s.advanceTo c.due).loadingExpiry.grant := by
      simp only [exec, execLoadingTimerExpiry, hc, onExpiry_some]
    have hstore : (s.advanceTo c.due).loadingExpiry.store =
        { s.store with buffer := emptyBuffer, locks := s.store.locks.set s.store.buffer.table true } := by
      simp [State.loadingExpiry, State.giveUp, State.setLock, State.setBuffer]
    have hnone : NothingToGrant (s.advanceTo c.due).loadingExpiry :=
      hgrant.of_eq (by simp) (by rw [hstore]) (by rw [hstore]) (by rw [hstore])
    rw [State.grant_of_nothing _ hnone] at hexec
    refine ⟨_, hexec, hstore, ?_⟩
    simp [State.loadingExpiry, State.report, State.giveUp, State.setLock, State.setBuffer, SamePath, SameDrive, SamePower, MovedTo,
      State.advanceTo_now]
  case idle =>
    have hexec : exec .stateRecordTimerExpiry s = .next (s.advanceTo c.due).recordExpiry.grant := by
      simp only [exec, execStateRecordTimerExpiry, hc, onExpiry_some]
    obtain ⟨hjob, hwriteState, hwaiting⟩ : s.store.inFlight = none ∧ s.tags.writeState = .idle ∧ s.store.recordWaiting = none := by
      simp only [State.arbiterIdle, Bool.and_eq_true, decide_eq_true_eq, Option.isNone_iff_eq_none] at hidle
      exact ⟨hidle.1.1.1, hidle.1.1.2, hidle.1.2⟩
    refine ⟨_, hexec, ?_⟩
    simp [State.grant, State.recordExpiry, State.requestRecordWrite, hjob, hwriteState, hwaiting, State.stateRecord, State.timer,
      State.advanceTo_now, startAt, SamePath, SameDrive, SamePower, SameLogs, MovedTo]
  case busy =>
    have hexec : exec .stateRecordTimerExpiry s = .next (s.advanceTo c.due).recordExpiry.grant := by
      simp only [exec, execStateRecordTimerExpiry, hc, onExpiry_some]
    rw [State.grant_of_nothing _ (.inl (by simpa [State.recordExpiry, State.requestRecordWrite] using hbusy))] at hexec
    refine ⟨_, hexec, ?_⟩
    simp [State.recordExpiry, State.requestRecordWrite, SamePath, SameDrive, SamePower, SameLogs, MovedTo, State.advanceTo_now,
      State.advanceTo_timer]

/-! ## Ends of the state-record and table writes (R161, R165) -/

/-- What the array holds after a state-record write, through the end of the write. -/
theorem State.recordWriteEnd_of_job {s : State} {record : StateRecord} {causes : WriteCauses} (verified : Bool)
    (hjob : s.store.inFlight = some (.record record causes)) :
    (s.recordWriteEnd verified).store.nv =
        (if verified then { s.store.nv with record := .good record }
         else { s.store.nv with record := Config.recordAfterFault s.free }) ∧
      (s.recordWriteEnd verified).reports =
        (if verified then s.reports else (s.reports.enter 4 s.cmd.seconds (.settings (.stateWriteFailed causes))).1) ∧
      (s.recordWriteEnd verified).store.tables = s.store.tables := by
  have hrecord : s.store.recordJob = some (record, causes) := by simp [TableStore.recordJob, hjob]
  cases verified <;> simp [State.recordWriteEnd, hrecord, State.storeRecord, State.endJob, State.useFree, State.report]

/-- What a table write leaves: the array, the buffer empty, and the commit concluded. -/
theorem State.tableWriteEnd_of_job {s : State} {id : Nat} {image : Table} (verified : Bool) (hjob : s.store.inFlight = some (.table id image)) :
    s.tableWriteEnd verified =
      (((s.storeTable id image verified).endJob).setBuffer emptyBuffer).concludeCommit s.store.buffer verified := by
  have htable : s.store.tableJob = some (id, image) := by simp [TableStore.tableJob, hjob]
  simp only [State.tableWriteEnd, htable]

/-- The notices at a free array hand CHARGER frames at most. -/
theorem State.disconnectTest_tx (s : State) : ∃ charger, s.disconnectTest.links.tx = s.links.tx ++ charger := by
  unfold State.disconnectTest
  split
  · exact State.chargerUpdate_tx _
  · exact ⟨[], by simp⟩

theorem State.arrayFreed_tx (s : State) : ∃ charger, s.arrayFreed.links.tx = s.links.tx ++ charger := by
  unfold State.arrayFreed State.idleNotice State.fenceRestart
  obtain ⟨charger, h⟩ := s.grant.disconnectTest_tx
  split
  · exact ⟨charger, by split <;> simpa using h⟩
  · exact ⟨[], by simp⟩

/-- Settles O47: what the array holds, and how the end is reported or answered. -/
theorem writesComplete : Obligations.WritesComplete := by
  unfold Obligations.WritesComplete
  intro s c verified hc
  refine ⟨fun record causes hjob => ?record, fun id image hjob => ?table⟩
  case record =>
    have htimer : s.store.recordJobTimer = some c := by simp [TableStore.recordJobTimer, hjob, hc]
    have hexec : exec (.stateRecordWriteComplete verified) s = .next ((s.advanceTo c.due).recordWriteEnd verified).arrayFreed := by
      simp only [exec, execStateRecordWriteComplete, htimer, onExpiry_some]
    obtain ⟨hnv, hreports, htables⟩ := State.recordWriteEnd_of_job (s := s.advanceTo c.due) verified (by simpa using hjob)
    refine ⟨_, hexec, ?_⟩
    cases verified <;> simp [State.arrayFreed, hnv, hreports, htables, SamePath, SameDrive, State.advanceTo_now]
  case table =>
    have htimer : s.store.tableJobTimer = some c := by simp [TableStore.tableJobTimer, hjob, hc]
    have hexec : exec (.tableWriteComplete verified) s = .next ((s.advanceTo c.due).tableWriteEnd verified).arrayFreed := by
      simp only [exec, execTableWriteComplete, htimer, onExpiry_some]
    obtain ⟨left, hleft, hfailed⟩ := (s.advanceTo c.due).storeTable_failed id image
    rw [State.tableWriteEnd_of_job verified (by simpa using hjob)] at hexec
    generalize hv : (((s.advanceTo c.due).storeTable id image verified).endJob).setBuffer emptyBuffer = v at hexec
    have hvs : v.store.buffer = emptyBuffer ∧ v.reports = s.reports ∧ v.cmd.seconds = s.cmd.seconds ∧ v.store.tables = s.store.tables ∧
        v.faults = s.faults ∧ SamePath s v ∧ SameDrive s v ∧ v.now = max s.now c.due := by
      subst hv
      cases verified <;> simp [State.storeTable, State.endJob, State.useFree, State.setBuffer, SamePath, SameDrive, State.advanceTo_now]
    have hnv : v.store.nv = { s.store.nv with tables := s.store.nv.tables.set id (if verified then .good image else left) } := by
      subst hv
      cases verified
      · simp [State.setBuffer, State.endJob, hfailed]
      · simp [State.setBuffer, State.endJob, State.storeTable]
    obtain ⟨hbuffer, hreports, hseconds, htables, hfaults, ⟨hsample, hmag, hoc⟩, ⟨hseq, hact⟩, hnow⟩ := hvs
    have hbefore : (s.advanceTo c.due).store.buffer = s.store.buffer := by simp
    rw [hbefore] at hexec
    have hend (hnone : s.store.buffer.request = none) : v.concludeCommit s.store.buffer verified =
        v.report 4 (.settings (.commitApplied s.store.buffer.table s.store.buffer.origin verified)) := by
      simp [State.concludeCommit, hnone]
    have hanswer (r : Req) (hsome : s.store.buffer.request = some r) : v.concludeCommit s.store.buffer verified =
        v.respond r .tableCommit (if verified then .ok else .nvFault) [] := by
      simp [State.concludeCommit, hsome]
    have hconcluded : (v.concludeCommit s.store.buffer verified).store = v.store := by simp
    refine ⟨_, hexec, by simp [State.arrayFreed, hbuffer], fun h => ?_, fun h => ⟨left, hleft, ?_⟩, fun hnone => ?_, fun r hsome => ⟨?_, ?_⟩, ?_⟩
    · simp [State.arrayFreed, hnv, h]
    · simp [State.arrayFreed, hnv, h]
    · simp [State.arrayFreed, hend hnone, State.report, hreports, hseconds]
    · simp [State.arrayFreed, hanswer r hsome, hreports]
    · obtain ⟨charger, hcharger⟩ := (v.concludeCommit s.store.buffer verified).arrayFreed_tx
      rw [hcharger, hanswer r hsome]
      simp
    · simp [State.arrayFreed, SamePath, SameDrive, *]

/-! ## TABLE_COMMIT (R160, R161) -/

theorem tableKind_eq_unit_iff (id : Nat) : tableKind id = .unit ↔ id = 1 := by
  unfold tableKind
  (repeat' split) <;> simp_all

/-- The settings in force after a grant are those before it. -/
@[simp] theorem State.grant_tables (s : State) : s.grant.unit = s.unit ∧ s.grant.batteryTable = s.batteryTable := by
  simp [State.unit, State.batteryTable, State.table]

/-- A table write that is asked for waits or is under way, through the grant. -/
theorem State.grant_tableAsked {s : State} (h : s.store.tableWaiting = true) :
    s.grant.store.tableWaiting = true ∨ s.grant.store.inFlight = some (.table s.store.buffer.table s.store.buffer.image) := by
  cases hjob : s.store.inFlight with
  | some j => exact .inl (by rw [s.grant_of_nothing (.inl (by simp [hjob]))]; exact h)
  | none =>
    by_cases hwaiting : s.tags.writeState = .waiting
    · exact .inl (by simp [State.grant, hjob, hwaiting, h])
    · cases hrecord : s.store.recordWaiting with
      | some causes => exact .inl (by simp [State.grant, hjob, hwaiting, hrecord, h])
      | none => exact .inr (by simp [State.grant, hjob, hwaiting, hrecord, h])

/-- An applied UNIT table: the budget lowered to its ceiling, and a live stream restarted where the frequency changes (R9, R140). -/
theorem State.unitApplied_effect (s : State) (f : Nat) :
    (s.unitApplied f).reports = { s.reports with budget := min s.reports.budget (airtimeCeiling s.unit : Int) } ∧
      (if nominalFrequency s.unit ≠ f ∧ s.streamLive = true then
        (s.unitApplied f).sample = { s.sample with stream := .filling, run := 0 } ∧ (s.unitApplied f).mag = s.mag.cleared
       else (s.unitApplied f).sample = s.sample ∧ (s.unitApplied f).mag = s.mag) := by
  have hunit : s.restartStream.unit = s.unit := (State.tables_congr (by simp)).1
  by_cases hf : nominalFrequency s.unit = f
  · simp [State.unitApplied, hf]
  · cases hlive : s.streamLive
    · simp [State.unitApplied, hf, State.restartStream, hlive]
    · simp [State.unitApplied, hf, hunit]
      simp [State.restartStream, hlive]

/-- An applied BATTERY table: Q lowered, the retry timer stopped at an interval of 0, and a changed content sent (R120, R127, R128). -/
theorem State.batteryApplied_effect (s : State) :
    let t := s.batteryApplied
    t.battery = { s.battery with
        q := min s.battery.q (qMax s.batteryTable)
        retryTimer := if testInterval s.batteryTable = 0 then none else s.battery.retryTimer
        sent := t.chargerContent
        repeatTimer := if t.chargerContent = s.battery.sent then s.battery.repeatTimer else s.timer (sec 1) } ∧
      (t.chargerContent = s.battery.sent → t.links = s.links) ∧
      (t.chargerContent ≠ s.battery.sent → t.links = { s.links with tx := s.links.tx ++ [t.chargerContent.frame] }) := by
  generalize hv : s.setBattery { s.battery with
    q := min s.battery.q (qMax s.batteryTable)
    retryTimer := if testInterval s.batteryTable = 0 then none else s.battery.retryTimer } = v
  have heq : s.batteryApplied = v.chargerUpdate := by rw [State.batteryApplied, hv]
  have hcontent : s.batteryApplied.chargerContent = v.chargerContent := by
    rw [heq]
    simp [State.chargerContent, State.absorbTarget, State.floatTarget, BatteryUnit.workingTemp, State.batteryTable, State.table]
  have hvs : v.links = s.links ∧ v.now = s.now ∧ v.battery.sent = s.battery.sent := by
    subst hv
    simp
  obtain ⟨hlinks, hnow, hsent⟩ := hvs
  dsimp only
  rw [hcontent, heq]
  unfold State.chargerUpdate
  rw [hsent]
  split
  · next h =>
    refine ⟨?_, fun _ => hlinks, fun hne => absurd h hne⟩
    rw [h, ← hv]
    simp
  · next h =>
    refine ⟨?_, fun heq => absurd heq h, fun _ => ?_⟩
    · simp [State.chargerSend, State.timer, ← hv]
    · simp [State.chargerSend, State.hand_links _ _ (ChargerContent.frame_kind_ne _), hlinks]

/-- The image of a commit that is applied at once, before its effects. -/
def State.committed (s : State) (r : Req) : State :=
  ((s.cancelSlot r.origin).setStore (s.store.staged { s.store.buffer with timer := none } (s.store.locks.set s.store.buffer.table true))).imaged
    (some r)

/-- What an image put into force has changed, before the effects of its kind. -/
theorem State.committed_parts (s : State) (r : Req) :
    (s.committed r).store = { s.store with
        tables := s.store.tables.set s.store.buffer.table s.store.buffer.image, locks := s.store.locks.set s.store.buffer.table true,
        buffer := { s.store.buffer with state := .writing, timer := none, request := some r }, tableWaiting := true } ∧
      SamePath s (s.committed r) ∧ SameDrive s (s.committed r) ∧ SamePower s (s.committed r) ∧ SameLogs s (s.committed r) ∧
      (s.committed r).tags = s.tags ∧ SameClock s (s.committed r) ∧ (s.committed r).links = s.links := by
  simp [State.committed, State.imaged, TableStore.staged, SamePath, SameDrive, SamePower, SameLogs, SameClock]

/-- The apply condition of a table (R160): only a BATTERY table waits for the end of a test. -/
theorem State.applyCondition_iff (s : State) (id : Nat) :
    s.applyCondition id = true ↔ if id = 2 then s.battery.testState = .idle else s.sequenceRests = true := by
  have hkind := tableKind_eq_battery_iff id
  unfold State.applyCondition
  split
  · next h => simp [hkind.1 h]
  · next h => rw [if_neg fun h2 => h (hkind.2 h2)]

/-- TABLE_COMMIT of a checked image: applied, or held pending (R160). -/
theorem State.tableCommitRequest_of_valid {s : State} {r : Req} (hrestore : s.supply.restoreMark = true) (hremote : s.remoteRefused r = false)
    (hstate : s.store.buffer.state = .loading) (horigin : s.store.buffer.origin = r.origin) (hwritten : s.store.buffer.unwritten = none)
    (hvalid : firstInvalid s.store.buffer.table s.store.buffer.image = none) :
    let v := (s.cancelSlot r.origin).setStore
      (s.store.staged { s.store.buffer with timer := none } (s.store.locks.set s.store.buffer.table true))
    (s.applyCondition s.store.buffer.table = true → (s.cancelSlot r.origin).tableCommitRequest r = v.applyCommit (some r)) ∧
      (s.applyCondition s.store.buffer.table = false → (s.cancelSlot r.origin).tableCommitRequest r =
        ((s.cancelSlot r.origin).setStore (s.store.staged { s.store.buffer with state := .pending, timer := none }
          (s.store.locks.set s.store.buffer.table true))).respond r .tableCommit .pending []) := by
  have hcondition : (s.cancelSlot r.origin).applyCondition s.store.buffer.table = s.applyCondition s.store.buffer.table := by
    simp [State.applyCondition, State.sequenceRests]
  have hchecked :
      (s.cancelSlot r.origin).tableCommitRequest r = (s.cancelSlot r.origin).commitOutcome r := by
    simp [State.tableCommitRequest, hrestore, hremote, StagingBuffer.loadedBy, hstate, horigin]
  refine ⟨fun h => ?_, fun h => ?_⟩
  all_goals
    rw [hchecked, State.commitOutcome]
    simp [hwritten, hvalid, hcondition, h, State.setLock, State.setBuffer, TableStore.staged,
      State.setStore_setStore]

/-- Settles O43: refused, given up, applied by its kind, or pending. -/
theorem tableCommitOutcomes : Obligations.TableCommitOutcomes := by
  unfold Obligations.TableCommitOutcomes
  intro r s hgrant
  dsimp only
  have hexec : exec (.tableCommit r) s = .next ((s.cancelSlot r.origin).tableCommitRequest r).grant := (rfl)
  have hcondition : s.applyCondition s.store.buffer.table = true ↔
      if s.store.buffer.table = 2 then s.battery.testState = .idle else s.sequenceRests = true := s.applyCondition_iff _
  refine ⟨fun hrestore => ?_, fun hrestore hremote => ?_, fun hrestore hremote hbuffer => ?_, fun hrestore hremote hstate horigin =>
    ⟨fun i hi => ?_, fun i hwritten hi => ?_, fun hwritten hvalid happlies => ?applied, fun hwritten hvalid hholds => ?pending⟩⟩
  · exact exec_answered (k := .tableCommit) hexec hgrant (by simp [State.tableCommitRequest, hrestore])
  · exact exec_answered (k := .tableCommit) hexec hgrant (by simp [State.tableCommitRequest, hrestore, hremote])
  · have hother : s.store.buffer.loadedBy r.origin = false := by
      rcases hbuffer with h | h <;> simp [StagingBuffer.loadedBy, h]
    exact exec_answered (k := .tableCommit) hexec hgrant (by simp [State.tableCommitRequest, hrestore, hremote, hother])
  · exact exec_staged (k := .tableCommit) hexec hgrant (by
      simp [State.tableCommitRequest, hrestore, hremote, StagingBuffer.loadedBy, hstate, horigin, State.commitOutcome, hi, State.giveUp_staged])
  · exact exec_staged (k := .tableCommit) hexec hgrant (by
      simp [State.tableCommitRequest, hrestore, hremote, StagingBuffer.loadedBy, hstate, horigin, State.commitOutcome, hwritten, hi,
        State.giveUp_staged])
  case pending =>
    have hfalse : s.applyCondition s.store.buffer.table = false := by
      rw [← hcondition] at hholds
      simpa using hholds
    exact exec_staged (k := .tableCommit) hexec hgrant
      ((State.tableCommitRequest_of_valid hrestore hremote hstate horigin hwritten hvalid).2 hfalse)
  case applied =>
    have happlied := (State.tableCommitRequest_of_valid hrestore hremote hstate horigin hwritten hvalid).1 (hcondition.2 happlies)
    rw [happlied] at hexec
    obtain ⟨hstore, ⟨hsample, hmag, hoc⟩, ⟨hseq, hact⟩, ⟨hsupply, hbattery⟩, ⟨hreports, hfaults⟩, htags, ⟨hnow, hnext, hfree, hpending⟩,
      hlinks⟩ := s.committed_parts r
    generalize hv : (s.cancelSlot r.origin).setStore
      (s.store.staged { s.store.buffer with timer := none } (s.store.locks.set s.store.buffer.table true)) = v at hexec
    have himaged : v.imaged (some r) = s.committed r := by rw [← hv]; rfl
    have hvtable : v.store.buffer.table = s.store.buffer.table ∧ v.unit = s.unit ∧ v.store.inFlight = s.store.inFlight ∧ v.tags = s.tags := by
      subst hv; simp [TableStore.staged, State.unit, State.table]
    obtain ⟨htable, hvunit, hvjob, hvtags⟩ := hvtable
    have hcommitted : (v.applyCommit (some r)).store = (s.committed r).store := by rw [v.applyCommit_store, himaged]
    have hasked := State.grant_tableAsked (s := v.applyCommit (some r)) (by rw [hcommitted, hstore])
    have hgtags : (v.applyCommit (some r)).grant.tags = s.tags := State.grant_tags_of_nothing hgrant (by simpa using hvtags) (by simpa using hvjob)
    have hframe : SameDrive s (v.applyCommit (some r)) ∧ (v.applyCommit (some r)).oc = s.oc ∧
        (v.applyCommit (some r)).supply = s.supply ∧ (v.applyCommit (some r)).faults = s.faults ∧ SameClock s (v.applyCommit (some r)) := by
      subst hv; simp [SameDrive, SameClock]
    obtain ⟨hdrive, hcoc, hcsupply, hcfaults, hclock⟩ := hframe
    refine ⟨_, hexec, ?_, ?_, ?_, ?_, ?_, ?_, fun h1 h2 => ?_, fun h1 => ?_, fun h2 => ?_⟩
    · simp [hcommitted, hstore]
    · simp [hcommitted, hstore]
    · simp [hcommitted, hstore]
    · simpa [hcommitted, hstore] using hasked
    · simp [hcommitted, hstore]
    · exact ⟨by simpa [SameDrive] using hdrive, by simpa using hcoc, by simpa using hcsupply, by simpa using hcfaults, hgtags,
        by simpa [SameClock] using hclock⟩
    · have hprotection : v.applyCommit (some r) = s.committed r := by
        rw [v.applyCommit_of_protection _ (by rw [htable, ne_eq, tableKind_eq_unit_iff]; exact h1)
          (by rw [htable, ne_eq, tableKind_eq_battery_iff]; exact h2), himaged]
      rw [hprotection] at hgtags ⊢
      simp [SamePath, SameDrive, SamePower, SameLogs, SameClock, *]
    · have hunit : v.applyCommit (some r) = (s.committed r).unitApplied (nominalFrequency s.unit) := by
        rw [v.applyCommit_of_unit _ (by rw [htable, tableKind_eq_unit_iff]; exact h1), himaged, hvunit]
      obtain ⟨hbudget, hstream⟩ := (s.committed r).unitApplied_effect (nominalFrequency s.unit)
      rw [hunit] at hgtags ⊢
      have hgunit : ((s.committed r).unitApplied (nominalFrequency s.unit)).grant.unit = (s.committed r).unit := by
        simp [State.unit, State.table]
      have hlive : (s.committed r).streamLive = s.streamLive := by simp [State.streamLive, hsample]
      rw [hlive, hsample, hmag] at hstream
      rw [hgunit]
      exact ⟨by simpa using hbattery, by simpa using hlinks, by simpa [hreports] using hbudget, by simpa using hstream⟩
    · have hbatt : v.applyCommit (some r) = (s.committed r).batteryApplied := by
        rw [v.applyCommit_of_battery _ (by rw [htable, tableKind_eq_battery_iff]; exact h2), himaged]
      obtain ⟨heffect, hkept, hsent⟩ := (s.committed r).batteryApplied_effect
      rw [hbatt]
      have hcontent : (s.committed r).batteryApplied.grant.chargerContent = (s.committed r).batteryApplied.chargerContent := by
        simp [State.chargerContent, State.absorbTarget, State.floatTarget]
      have hctable : (s.committed r).batteryApplied.grant.batteryTable = (s.committed r).batteryTable := by
        simp [State.batteryTable, State.table]
      rw [hcontent, hctable]
      refine ⟨by simp [SamePath, *], by simpa using hreports, ?_, fun h => ?_, fun h => ?_⟩
      · simpa [hbattery, State.timer, hnow] using heffect
      · simpa [hlinks] using hkept (by rw [hbattery]; exact h)
      · simpa [Handed, hlinks] using hsent (by rw [hbattery]; exact h)

end Sys2Proof.Machine
end

