-- ==== Sys2Proof/Proofs/Commands.lean ====
section
/-! SELECT (O50), OPERATE on CLOSE and RESTART selections (O52, O53), the reads and TIME_SET (O54), and inputs that are discarded
or refused (O55). -/

namespace Sys2Proof.Machine

section
variable {s : State} {r : Req}

/-! ## The end of a selection (R177) -/

theorem State.cancelSlot_of_own {o : Origin} (h : ∃ sel, s.cmd.slot = some sel ∧ sel.origin = o) : s.cancelSlot o = s.clearSlot := by
  obtain ⟨sel, hslot, horigin⟩ := h
  simp [State.cancelSlot, hslot, horigin]

theorem State.cancelSlot_of_other {o : Origin} (h : ∀ sel, s.cmd.slot = some sel → sel.origin ≠ o) : s.cancelSlot o = s := by
  unfold State.cancelSlot
  split
  · next sel hslot => rw [if_neg (h sel hslot)]
  · rfl

theorem State.clearSlot_cmd : s.clearSlot.cmd = { s.cmd with slot := none, selectTimer := none } := (rfl)

/-- What the end of a request's own selection leaves of the Command Unit. -/
theorem State.cancelSlot_cmd_cases (o : Origin) :
    ((∃ sel, s.cmd.slot = some sel ∧ sel.origin = o) → (s.cancelSlot o).cmd = { s.cmd with slot := none, selectTimer := none }) ∧
      ((∀ sel, s.cmd.slot = some sel → sel.origin ≠ o) → (s.cancelSlot o).cmd = s.cmd) :=
  ⟨fun h => by rw [State.cancelSlot_of_own h, State.clearSlot_cmd], fun h => by rw [State.cancelSlot_of_other h]⟩

/-- Where no other origin holds the slot, it is free once the request's own selection is ended. -/
theorem State.cancelSlot_slot {o : Origin} (h : ∀ sel, s.cmd.slot = some sel → sel.origin = o) : (s.cancelSlot o).cmd.slot = none := by
  unfold State.cancelSlot
  split
  · next sel hslot => simp [h sel hslot, State.clearSlot]
  · next hslot => exact hslot

/-! ## SELECT (R176) -/

theorem targetOf_ctorIdx (tg : Target) : targetOf (BitVec.ofNat 8 tg.ctorIdx) = some tg := by
  cases tg <;> decide

theorem targetOf_eq_none {target : Byte} (h : 3 ≤ target.toNat) : targetOf target = none := by
  have h0 : target ≠ 0 := by bv_omega
  have h1 : target ≠ 1 := by bv_omega
  have h2 : target ≠ 2 := by bv_omega
  rw [targetOf, if_neg h0, if_neg h1, if_neg h2]

end

/-- A request that is answered at once, and what it leaves of the Command Unit. -/
theorem exec_answered_cmd {i : Instr} {u s : State} {r : Req} (hexec : exec i s = .next u.grant) (hgrant : NothingToGrant s) {k : RequestKind}
    {c : ResultCode} {body : List Byte} (hu : u = (s.cancelSlot r.origin).respond r k c body) :
    ∃ t, exec i s = .next t ∧ Handed (responseFrame r.id (requestCode k) c body) s t ∧ OnlyLinksAndCommand s t ∧
      ((∃ sel, s.cmd.slot = some sel ∧ sel.origin = r.origin) → t.cmd = { s.cmd with slot := none, selectTimer := none }) ∧
      ((∀ sel, s.cmd.slot = some sel → sel.origin ≠ r.origin) → t.cmd = s.cmd) := by
  subst hu
  rw [State.grant_of_arrays hgrant (by simp [SameArrays])] at hexec
  obtain ⟨hown, hother⟩ := State.cancelSlot_cmd_cases (s := s) r.origin
  exact ⟨_, hexec, s.respond_cancelSlot_handed _ _ _ _ _, s.respond_cancelSlot _ _ _ _ _, fun h => by simpa using hown h,
    fun h => by simpa using hother h⟩

/-- Settles O50: the checks of R176 in order, and the end of the select timer. -/
theorem selectHoldsSlot : Obligations.SelectHoldsSlot := by
  unfold Obligations.SelectHoldsSlot
  intro r tg token s hgrant
  have hselect (target : Byte) : exec (.select r target token) s = .next ((s.cancelSlot r.origin).selectRequest r target token).grant := (rfl)
  refine ⟨fun hremote hslot hclose => ?held, fun c hc => ?timer, fun target htarget => ?_, fun hremote => ?_, fun hremote hslot => ?_,
    fun item hremote hslot hitem => ?_⟩
  case held =>
    have hrefusal : (s.cancelSlot r.origin).selectRefusal tg = none := by
      unfold State.selectRefusal
      split
      · next h => simp [hclose h]
      · rfl
    have hheld : (s.cancelSlot r.origin).selectRequest r (BitVec.ofNat 8 tg.ctorIdx) token =
        ((s.cancelSlot r.origin).holdSlot r tg token).respond r .select .ok (enc1 tg.ctorIdx) := by
      simp [State.selectRequest, targetOf_ctorIdx, hremote, State.cancelSlot_slot hslot, hrefusal]
    have hexec := hselect (BitVec.ofNat 8 tg.ctorIdx)
    rw [hheld, State.grant_of_arrays hgrant (by simp [SameArrays])] at hexec
    refine ⟨_, hexec, ?_, by simp [Handed], by simp [OnlyLinksAndCommand, SamePath, SameDrive, SamePower, SameLogs, SameArrays, SameClock]⟩
    simp [State.holdSlot, State.timer]
  case timer =>
    have hexec : exec .selectTimerExpiry s = .next (s.advanceTo c.due).clearSlot.grant := by
      simp only [exec, execSelectTimerExpiry, hc, onExpiry_some]
    rw [State.grant_at hgrant c.due (by simp [SameArrays])] at hexec
    refine ⟨_, hexec, ?_⟩
    simp [State.clearSlot, SamePath, SameDrive, SamePower, SameLogs, SameArrays, MovedTo, State.advanceTo_now]
  · exact exec_answered_cmd (k := .select) (hselect target) hgrant (by simp [State.selectRequest, targetOf_eq_none htarget])
  · exact exec_answered_cmd (k := .select) (hselect _) hgrant (by simp [State.selectRequest, targetOf_ctorIdx, hremote])
  · obtain ⟨sel, hsel, hne⟩ := hslot
    have hheld : (s.cancelSlot r.origin).cmd.slot = some sel := by
      rw [State.cancelSlot_of_other (fun sel' hsel' => by rw [hsel] at hsel'; cases hsel'; exact hne), hsel]
    exact exec_answered_cmd (k := .select) (hselect _) hgrant (by simp [State.selectRequest, targetOf_ctorIdx, hremote, hheld])
  · have htarget : targetOf 1#8 = some .close := by decide
    exact exec_answered_cmd (k := .select) (hselect 1) hgrant (by
      simp [State.selectRequest, htarget, hremote, State.cancelSlot_slot hslot, State.selectRefusal, hitem])

/-! ## OPERATE (R178) -/

section
variable {s : State} {r : Req} {token : Word}

/-- An OPERATE that matches the selection held is executed on its target. -/
theorem State.operate_of_match {tg : Target} (hremote : s.remoteRefused r = false) (hslot : s.cmd.slot = some ⟨r.origin, tg, token⟩) :
    s.operate r token = s.clearSlot.operateTarget r tg := by
  simp [State.operate, hremote, hslot, Selection.matchedBy]

/-- An OPERATE that matches none is refused. -/
theorem State.operate_of_mismatch (h : ∀ sel, s.cmd.slot = some sel → sel.origin = r.origin → sel.token ≠ token) :
    s.operate r token = (s.cancelSlot r.origin).respond r .operate (if s.remoteRefused r then .remoteDisabled else .noSelect) [] := by
  unfold State.operate
  cases hremote : s.remoteRefused r with
  | true => simp [State.operateRefused]
  | false =>
    cases hslot : s.cmd.slot with
    | none => simp [State.operateRefused]
    | some sel =>
      have hmatch : sel.matchedBy r token = false := by
        by_cases horigin : sel.origin = r.origin
        · simp [Selection.matchedBy, h sel hslot horigin]
        · simp [Selection.matchedBy, horigin]
      simp [State.operateRefused, hmatch]

@[simp] theorem State.clearSlot_permission : s.clearSlot.permission = s.permission :=
  State.permission_congr (by simp) (by simp) (by simp) (by simp) (by simp)

@[simp] theorem State.clearSlot_arbiterIdle : s.clearSlot.arbiterIdle = s.arbiterIdle := by simp [State.arbiterIdle]

end

/-- Settles O52: refused outside LOCKOUT, decided by permission, or deferred behind a trip pulse. -/
theorem operateCloseCloses : Obligations.OperateCloseCloses := by
  unfold Obligations.OperateCloseCloses
  intro r token s hremote hslot hgrant
  have hexec : exec (.operateClose r token) s = .next (s.clearSlot.operateClose r).grant := by
    have hmatch : s.operate r token = s.clearSlot.operateClose r := State.operate_of_match hremote hslot
    rw [← hmatch]
    rfl
  refine ⟨fun hstate => ?other, fun hstate hdeferred htrip => ⟨fun hpermitted => ?permitted, fun item hitem => ?refused⟩,
    fun hstate hdeferred htrip => ?deferred⟩
  case other =>
    have hrefused : s.clearSlot.operateClose r = s.clearSlot.respond r .operate .refusedState [] := by
      simp [State.operateClose, hstate]
    rw [hrefused, State.grant_of_arrays hgrant (by simp [SameArrays])] at hexec
    refine ⟨_, hexec, ?_⟩
    simp [State.clearSlot_cmd, Handed, OnlyLinksAndCommand, SamePath, SameDrive, SamePower, SameLogs, SameArrays, SameClock]
  case permitted =>
    have hclosed : s.clearSlot.operateClose r = ((s.clearSlot.enterClosing .manual).startClose).respond r .operate .ok [] := by
      simp [State.operateClose, hstate, hdeferred, htrip, State.answerManual_of_permitted s.clearSlot (by simpa using hpermitted)]
    rw [hclosed, State.grant_of_arrays hgrant (by simp [SameArrays])] at hexec
    refine ⟨_, hexec, ?_⟩
    simp [State.clearSlot_cmd, State.startClose, State.enterClosing, State.timer, State.unit, State.table, htrip, Handed, SamePower, SameLogs,
      SameArrays, SameClock]
  case refused =>
    have hrefused : s.clearSlot.operateClose r = s.clearSlot.respond r .operate (permissionCode item) [] := by
      simp [State.operateClose, hstate, hdeferred, htrip, State.answerManual_of_refused s.clearSlot (by simpa using hitem)]
    rw [hrefused, State.grant_of_arrays hgrant (by simp [SameArrays])] at hexec
    refine ⟨_, hexec, ?_⟩
    simp [State.clearSlot_cmd, Handed, OnlyLinksAndCommand, SamePath, SameDrive, SamePower, SameLogs, SameArrays, SameClock]
  case deferred =>
    have hwaits : s.clearSlot.operateClose r =
        (s.clearSlot.setAct { s.act with deferred := some .manual }).setCmd { s.clearSlot.cmd with deferredClose := some r } := by
      simp [State.operateClose, hstate, hdeferred, htrip]
    rw [hwaits, State.grant_of_arrays hgrant (by simp [SameArrays])] at hexec
    refine ⟨_, hexec, ?_⟩
    simp [State.clearSlot_cmd, SamePath, SamePower, SameLogs, SameArrays, SameClock]

/-- Settles O53: the restart mark set, or a request that matches nothing. -/
theorem operateRestartOrNothing : Obligations.OperateRestartOrNothing := by
  unfold Obligations.OperateRestartOrNothing
  intro r token s hgrant
  refine ⟨fun hremote hslot => ?restart, fun hnone => ?nothing⟩
  case restart =>
    have hmatch : s.operate r token = s.clearSlot.operateRestart r := State.operate_of_match hremote hslot
    have hexec : exec (.operateRestart r token) s = .next (s.clearSlot.operateRestart r).grant := by
      rw [← hmatch]
      rfl
    rw [State.grant_of_arrays hgrant (by simp [SameArrays])] at hexec
    refine ⟨_, hexec, ?_⟩
    have hidle (u : State) (hstore : u.store = s.store) (htags : u.tags = s.tags) : u.arbiterIdle = s.arbiterIdle := by
      simp [State.arbiterIdle, hstore, htags]
    cases hmark : s.cmd.restartMark with
    | true =>
      simp [State.operateRestart, State.clearSlot_cmd, hmark, Handed, OnlyLinksAndCommand, SamePath, SameDrive, SamePower, SameLogs, SameArrays,
        SameClock]
    | false =>
      cases harbiter : s.arbiterIdle with
      | true =>
        simp [State.operateRestart, State.clearSlot_cmd, hmark, hidle, harbiter, State.fenceRestart, Handed, OnlyLinksAndCommand, SamePath,
          SameDrive, SamePower, SameLogs, SameArrays, SameClock]
      | false =>
        simp [State.operateRestart, State.clearSlot_cmd, hmark, hidle, harbiter, Handed, OnlyLinksAndCommand, SamePath,
          SameDrive, SamePower, SameLogs, SameArrays, SameClock]
  case nothing =>
    have hexec : exec (.operateNoSelect r token) s = .next (s.operate r token).grant := (rfl)
    obtain ⟨t, ht, hanswer, honly, hown, hother⟩ := exec_answered_cmd (k := .operate) hexec hgrant (State.operate_of_mismatch hnone)
    refine ⟨t, ht, hanswer, fun sel hsel horigin => ?_, fun h => hother fun sel hsel => ?_, honly⟩
    · rw [hown ⟨sel, hsel, horigin⟩]
      exact ⟨rfl, rfl⟩
    · rcases h with hfree | ⟨sel', hsel', hne⟩
      · rw [hfree] at hsel
        cases hsel
      · rw [hsel] at hsel'
        cases hsel'
        exact hne

/-! ## The reads and TIME_SET (R99, R174, R175) -/

theorem enc1_length (n : Nat) : (enc1 n).length = 1 := (rfl)
theorem encWord_length (w : Word) : (encWord w).length = 2 := (rfl)
theorem enc2_length (n : Nat) : (enc2 n).length = 2 := (rfl)
theorem encInt_length (i : Int) : (encInt i).length = 2 := (rfl)
theorem encLong_length (l : Long) : (encLong l).length = 4 := (rfl)
theorem encFlag_length (b : Bool) : (encFlag b).length = 1 := (rfl)
theorem encCurrents_length (c : Currents Nat) : (encCurrents c).length = 8 := (rfl)

/-- An optional field is as long as its absent value. -/
theorem encOpt_length {α : Type} {absent : List Byte} {enc : α → List Byte} (o : Option α) (h : ∀ a, (enc a).length = absent.length) :
    (encOpt absent enc o).length = absent.length := by
  cases o with
  | none => rfl
  | some a => exact h a

/-- The parts of a STATUS_READ body, by their lengths (R174). -/
theorem State.statusReadBody_length (s : State) : s.statusReadBody.length = 95 := by
  have hsample : s.statusSample.length = 22 := by
    simp [State.statusSample, enc1_length, enc2_length, encLong_length, encWord_length, encCurrents_length]
  have hsequence : s.statusSequence.length = 12 := by
    simp [State.statusSequence, encGroup, enc1_length, encFlag_length, encOpt_length, absent1]
  have hsupply : s.statusSupply.length = 13 := by
    simp [State.statusSupply, enc1_length, enc2_length, encFlag_length]
  have hbattery : s.statusBattery.length = 23 := by
    simp [State.statusBattery, enc1_length, encInt_length, encLong_length, encOpt_length, absent4]
  have hreports : s.statusReports.length = 11 := by
    simp [State.statusReports, enc1_length, encInt_length, encWord_length, encFlag_length, encOpt_length, absent2]
  have hsettings : s.statusSettings.length = 5 := by
    unfold State.statusSettings
    split <;> simp [enc1_length, enc2_length, absent1]
  have hrequests : s.statusRequests.length = 9 := by
    cases hslot : s.cmd.slot <;> simp [State.statusRequests, hslot, enc1_length, enc2_length, encFlag_length, absent1]
  simp [State.statusReadBody, hsample, hsequence, hsupply, hbattery, hreports, hsettings, hrequests]

/-- Ten bytes for each record. -/
theorem tagListEntries_length (slots : List (Option TagRecord)) (n : Nat) :
    ((slots.mapIdx fun i => tagListEntry (i + n)).flatten).length = 10 * (slots.filterMap id).length := by
  induction slots generalizing n with
  | nil => rfl
  | cons o slots ih =>
    have hrest : (fun i => tagListEntry (i + 1 + n)) = fun i => tagListEntry (i + (n + 1)) := by
      funext i
      rw [Nat.add_assoc, Nat.add_comm 1 n]
    rw [List.mapIdx_cons, List.flatten_cons, List.length_append]
    rw [hrest, ih]
    cases o with
    | none => simp [tagListEntry]
    | some rec => simp [tagListEntry, enc1_length, encWord_length, encLong_length]; omega

/-- Settles O54: the two reads change nothing; TIME_SET tries a scheduled test. -/
theorem readAndTimeRequests : Obligations.ReadAndTimeRequests := by
  unfold Obligations.ReadAndTimeRequests
  refine ⟨fun r s hgrant => ⟨?status, ?list⟩, fun r v s hgrant => ?time⟩
  case status =>
    have hexec : exec (.statusRead r) s = .next (s.respond r .statusRead .ok s.statusReadBody).grant := (rfl)
    rw [State.grant_of_arrays hgrant (by simp [SameArrays])] at hexec
    exact ⟨_, hexec, s.respond_links r _ _ _, s.statusReadBody_length, s.respond_onlyLinksAndCommand r _ _ _, by simp⟩
  case list =>
    have hexec : exec (.tagList r) s = .next ((s.cancelSlot r.origin).respond r .tagList .ok s.tags.listBody).grant := (rfl)
    have hlength : s.tags.listBody.length = 2 + 10 * s.tags.count := by
      have hentries := tagListEntries_length s.tags.slots 0
      simp only [Nat.add_zero] at hentries
      simp [TagTable.listBody, enc1_length, encFlag_length, hentries, TagTable.count, TagTable.records]
      omega
    obtain ⟨t, ht, hanswer, honly⟩ := exec_answered (k := .tagList) hexec hgrant rfl
    exact ⟨t, ht, hanswer, hlength, honly⟩
  case time =>
    have hexec : exec (.timeSet r v) s = .next ((s.cancelSlot r.origin).timeSetRequest r v).grant := (rfl)
    generalize hu : (s.cancelSlot r.origin).setCmd { (s.cancelSlot r.origin).cmd with seconds := v } = u
    have hrequest : (s.cancelSlot r.origin).timeSetRequest r v = u.tryScheduled.respond r .timeSet .ok [] := by
      rw [State.timeSetRequest, hu]
    have hus : u.battery = s.battery ∧ u.supply = s.supply ∧ u.batteryTable = s.batteryTable ∧ u.now = s.now ∧ u.cmd.seconds = v ∧
        u.cmd.restartMark = s.cmd.restartMark ∧ u.links = s.links ∧ OnlyBattery s u ∧
        u.testDue = (s.setCmd { s.cmd with seconds := v }).testDue ∧ u.testReady = (s.setCmd { s.cmd with seconds := v }).testReady := by
      subst hu
      simp [OnlyBattery, SamePath, SameDrive, SameLogs, SameArrays, State.testDue, State.testReady, State.sinceTest, State.batteryTable,
        State.table, State.tripReady, State.fresh, State.unit]
    obtain ⟨hbattery, hsupply, htable, hnow, hseconds, hmark, hlinks, honly, hdue, hready⟩ := hus
    have htry := State.tryScheduled_scheduledTry hbattery hsupply htable hnow hdue hready
    have honlyTry : OnlyBattery s (u.tryScheduled.respond r .timeSet .ok []) := (honly.trans u.tryScheduled_only).trans (.hand _ _)
    rw [hrequest, State.grant_of_arrays hgrant honlyTry.sameArrays] at hexec
    obtain ⟨hpath, hdrive, hsame, hlogs, harrays, hclock⟩ := honlyTry
    refine ⟨_, hexec, by simp [hseconds], by simp [hmark], by simp, hpath, hdrive, hsame, hlogs, harrays, ?_, ?_, fun hnever => ?_⟩
    · simpa [SameClock] using hclock
    · simpa [ScheduledTry] using htry
    · have hnot : u.testDue = false := by simp [State.testDue, htable, hnever]
      have hskip : u.tryScheduled = u := by simp [State.tryScheduled, hnot]
      rw [hskip]
      simp [hbattery, Handed, hlinks]

/-! ## Inputs refused or discarded (R3, R103, R171, R181) -/

/-- Settles O55: answered, counted or discarded. -/
theorem malformedInputsCounted : Obligations.MalformedInputsCounted := by
  unfold Obligations.MalformedInputsCounted
  refine ⟨fun r kind body s hgrant => ?bad, fun s => ⟨rfl, rfl⟩, fun f s e hstream he hlate hgrant => ?sample,
    fun f s l hl hfresh hlate hgrant => ?cabinet⟩
  case bad =>
    have hexec : exec (.badRequest r kind body) s =
        .next ((s.cancelSlot r.origin).hand (responseFrame r.id kind .badRequest [])).grant := (rfl)
    have hkind : (responseFrame r.id kind .badRequest []).kind ≠ kindMetering := by
      simp [responseFrame, kindResponse, kindMetering]
    rw [State.grant_of_arrays hgrant (by simp [SameArrays])] at hexec
    refine ⟨_, hexec, ?_, ?_⟩
    · simp [Handed, State.hand_links _ _ hkind]
      rfl
    · simp [OnlyLinksAndCommand, SamePath, SameDrive, SamePower, SameLogs, SameArrays, SameClock]
  case sample =>
    have htaken : s.takeSample f = s := by
      have hchecked : s.checkedFrame f (seqDelta f.seq e) = s := by
        rw [State.checkedFrame, if_neg (by omega), if_neg (by omega), if_neg (by omega)]
      unfold State.takeSample
      rcases hstream with h | h <;> simp [h, he, hchecked]
    have hexec : exec (.sampleFrame f) s = .next (s.takeSample f).grant := (rfl)
    rw [hexec, htaken, s.grant_of_nothing hgrant]
  case cabinet =>
    have hgap : s.cabinetGap f = none := by
      have hdelta : seqDelta f.seq l = 0 ∨ 128 ≤ seqDelta f.seq l := hlate.imp_left fun h => by simp [h, seqDelta]
      simp [State.cabinetGap, hl, hfresh, hdelta]
    have htaken : s.takeCabinet f = s := by simp [State.takeCabinet, hgap]
    have hexec : exec (.cabinetFrame f) s = .next (s.takeCabinet f).grant := (rfl)
    rw [hexec, htaken, s.grant_of_nothing hgrant]

end Sys2Proof.Machine
end

