-- ==== Sys2Proof/Proofs/Chargers.lean ====
section
/-! What the operations of the drive hand to the transmitter: CHARGER frames at most (R127). -/

namespace Sys2Proof.Machine

/-- CHARGER frames have been handed, or nothing, and nothing else of the links has changed. -/
def ChargersHanded (s t : State) : Prop :=
  ∃ charger : List OutFrame, t.links = { s.links with tx := s.links.tx ++ charger } ∧ ∀ x ∈ charger, x.kind = kindCharger

theorem ChargersHanded.of_links {s t : State} (h : t.links = s.links) : ChargersHanded s t := ⟨[], by simp [h], nofun⟩

theorem ChargersHanded.refl (s : State) : ChargersHanded s s := .of_links rfl

theorem ChargersHanded.trans {s t u : State} (h : ChargersHanded s t) (k : ChargersHanded t u) : ChargersHanded s u := by
  obtain ⟨a, ha, hka⟩ := h
  obtain ⟨b, hb, hkb⟩ := k
  refine ⟨a ++ b, by simp [hb, ha], fun x hx => ?_⟩
  rcases List.mem_append.1 hx with h | h
  · exact hka x h
  · exact hkb x h

/-- What is handed depends on the links before and after alone. -/
theorem ChargersHanded.congr {s s' t t' : State} (h : ChargersHanded s' t') (hs : s'.links = s.links) (ht : t.links = t'.links) :
    ChargersHanded s t := by
  obtain ⟨charger, hlinks, hkind⟩ := h
  exact ⟨charger, by rw [ht, hlinks, hs], hkind⟩

theorem ChargersHanded.after {s t u : State} (h : ChargersHanded s t) (hu : u.links = t.links) : ChargersHanded s u := h.congr rfl hu

section
variable (s : State)

theorem State.chargerUpdate_chargers : ChargersHanded s s.chargerUpdate := by
  rcases s.chargerUpdate_links with h | h
  · exact .of_links h
  · exact ⟨_, h, fun x hx => by rw [List.mem_singleton.1 hx]; rfl⟩

theorem State.applyCommit_chargers (req : Option Req) : ChargersHanded s (s.applyCommit req) :=
  s.applyCommit_cases (P := ChargersHanded s) req (fun _ => .of_links (by simp [State.imaged]))
    (fun _ => (State.chargerUpdate_chargers _).congr (by simp [State.imaged]) rfl) fun _ _ => .of_links (by simp [State.imaged])

theorem State.noticeTestEnded_chargers : ChargersHanded s s.noticeTestEnded := by
  unfold State.noticeTestEnded
  split
  · exact s.applyCommit_chargers none
  · exact .refl s

/-- What is pending at an entry to IDLE or LOCKOUT is no BATTERY table: applying it hands nothing. -/
@[simp] theorem State.applyPending_links : s.applyPending.links = s.links := by
  unfold State.applyPending State.noticeSequenceRests
  split
  · next h =>
    refine Eq.trans (State.applyCommit_cases (P := fun t => t.links = s.applyGroup.links) _ none (fun _ => by simp [State.imaged])
      (fun hb => absurd hb h.2) fun _ _ => by simp [State.imaged]) (by simp)
  · simp

theorem State.applyPending_chargers : ChargersHanded s s.applyPending := .of_links s.applyPending_links

theorem State.abortTest_chargers (cause : AbortCause) (charge : ChargeState) : ChargersHanded s (s.abortTest cause charge) := by
  unfold State.abortTest
  split
  · have hcharged := State.chargerUpdate_chargers (s.setBattery ((s.battery.testEnded .aborted s.cmd.seconds).inCharge charge))
    exact (hcharged.trans (State.noticeTestEnded_chargers _)).congr (by simp) (by simp)
  · exact .refl s

theorem State.leaveIdle_chargers : ChargersHanded s s.leaveIdle := by
  unfold State.leaveIdle
  split
  · exact s.abortTest_chargers _ _
  · exact .refl s

theorem State.enterLockout_chargers (reason : LockoutReason) : ChargersHanded s (s.enterLockout reason) := by
  have happlied := State.applyPending_chargers (s.leaveIdle.setSeq
    { s.leaveIdle.seq.timersStopped with state := .lockout, reason := some reason, latched := none })
  exact (s.leaveIdle_chargers.trans (happlied.congr (by simp) rfl)).after (by simp [State.enterLockout])

/-- Outside IDLE, where no test is aborted, an entry to LOCKOUT hands nothing. -/
theorem State.enterLockout_links {s : State} (reason : LockoutReason) (h : s.seq.state ≠ .idle) : (s.enterLockout reason).links = s.links := by
  simp [State.enterLockout, s.leaveIdle_of_ne h]

theorem State.enterTiming_chargers : ChargersHanded s s.enterTiming :=
  s.leaveIdle_chargers.congr rfl (by simp [State.enterTiming, State.latch])

theorem State.enterIdle_chargers : ChargersHanded s s.enterIdle := by
  have happlied := (State.applyPending_chargers (s.setSeq { s.seq.timersStopped with state := .idle, s := 0, latched := none })).congr
    (s := s) (by simp) rfl
  unfold State.enterIdle
  dsimp only
  split
  · exact happlied.trans ((State.enterTiming_chargers _).congr rfl (by simp))
  · exact happlied

theorem State.enterTripping_chargers (kind : TripKind) (raise : Bool) : ChargersHanded s (s.enterTripping kind raise) :=
  s.leaveIdle_chargers.congr rfl (by simp [State.enterTripping, State.latch])

theorem State.openConfirm_chargers : ChargersHanded s s.openConfirm := by
  have hlocked (reason : LockoutReason) : ChargersHanded s (s.recordOpen.enterLockout reason) :=
    (State.enterLockout_chargers _ reason).congr (by simp) rfl
  unfold State.openConfirm
  split
  · split
    · dsimp only
      split
      · exact (hlocked .tag).after (by simp)
      · split
        · exact .of_links (by simp [State.enterDead])
        · exact (hlocked .operations).after (by simp)
    · exact hlocked .restart
    · exact (hlocked .manual).after (by simp)
    · exact (hlocked .sensor).after (by simp)
  · exact .refl s

theorem State.tripStart_chargers : ChargersHanded s s.tripStart := by
  unfold State.tripStart
  split
  · exact s.enterTripping_chargers _ _
  · exact s.enterTripping_chargers _ _
  · exact s.enterTripping_chargers _ _
  · exact s.enterTripping_chargers _ _
  · exact .refl s

theorem State.tripTest_chargers : ChargersHanded s s.tripTest := by
  unfold State.tripTest
  split
  · exact (State.openConfirm_chargers _).congr (by simp) rfl
  · exact .refl s

theorem State.startTrip_chargers (reported : Bool) : ChargersHanded s (s.startTrip reported) := by
  unfold State.startTrip
  dsimp only
  cases reported with
  | true => exact ((State.tripStart_chargers _).trans (State.tripTest_chargers _)).congr (by simp [State.pulseStarted]) rfl
  | false => exact (State.tripTest_chargers _).congr (by simp [State.pulseStarted]) rfl

theorem State.endClosePulse_chargers : ChargersHanded s s.endClosePulse := by
  unfold State.endClosePulse State.startHeld
  split
  · exact (State.startTrip_chargers _ _).congr (by simp) rfl
  · exact .of_links (by simp)

theorem State.tagEntry_chargers : ChargersHanded s s.tagEntry := by
  have hsequence : ChargersHanded s s.sequenceTagEntry := by
    unfold State.sequenceTagEntry
    split
    · exact s.enterLockout_chargers _
    · exact .refl s
  unfold State.tagEntry
  dsimp only
  split
  · exact hsequence.trans (State.endClosePulse_chargers _)
  · exact hsequence

end

end Sys2Proof.Machine
end

