-- ==== Sys2Proof/Proofs/Tags.lean ====
section
/-! TAG_PLACE and TAG_REMOVE (O24, O25), and what the two resets leave (O57). -/

namespace Sys2Proof.Machine

/-! ## One slot written -/

theorem TagTable.freeSlot_at {t : TagTable} {i : Nat} (h : t.freeSlot = some i) : t.slots[i]? = some none := by
  obtain ⟨hlt, hnone, -⟩ := List.findIdx?_eq_some_iff_getElem.1 h
  rw [List.getElem?_eq_getElem hlt]
  simpa using hnone

/-- The records of a list of slots, split at one of them. -/
theorem records_set {slots : List (Option TagRecord)} {i : Nat} {o : Option TagRecord} (h : slots[i]? = some o) (r : TagRecord) :
    ((slots.set i (some r)).filterMap id).length = (slots.filterMap id).length + (if o.isSome then 0 else 1) := by
  induction slots generalizing i with
  | nil => cases h
  | cons x slots ih =>
    cases i with
    | zero =>
      obtain rfl : x = o := by simpa using h
      cases x <;> simp
    | succ i =>
      have hrest := ih (i := i) (by simpa using h)
      cases x with
      | none => exact hrest
      | some y =>
        have hcons : ∀ l : List (Option TagRecord), ((some y :: l).filterMap id).length = (l.filterMap id).length + 1 := fun l => by simp
        rw [List.set_cons_succ, hcons, hcons, hrest]
        omega

/-- A change of the records leaves their number. -/
theorem records_map (f : TagRecord → TagRecord) (slots : List (Option TagRecord)) :
    ((slots.map (Option.map f)).filterMap id).length = (slots.filterMap id).length := by
  induction slots with
  | nil => rfl
  | cons x slots ih => cases x <;> simpa using ih

/-- After a request for the tag write, one is waited for or under way (R90). -/
theorem State.requestTagWrite_asked (s : State) : s.requestTagWrite.tags.writeState ≠ .idle := by
  unfold State.requestTagWrite
  split
  · simp
  · next h => exact fun hidle => h hidle

/-- A grant may set records that wait to writing, and the write state to that of a write in flight. -/
theorem State.grant_slots (s : State) :
    ∃ f : TagRecord → TagRecord, s.grant.tags.slots = s.tags.slots.map (Option.map f) ∧ (∀ r, f r = r ∨ f r = r.granted) ∧
      (s.tags.writeState ≠ .idle → s.grant.tags.writeState ≠ .idle) := by
  rcases s.grant_tags_cases with h | h
  · exact ⟨id, by simp [h], fun r => .inl rfl, fun hne => by rwa [h]⟩
  · exact ⟨TagRecord.granted, by rw [h], fun r => .inr rfl, fun _ => by simp [h]⟩

/-- What becomes of a record that was written to a slot and asks for its write, through the grant. -/
theorem State.grant_asked {s : State} {slots : List (Option TagRecord)} {i : Nat} {o : Option TagRecord} {r : TagRecord}
    (hi : slots[i]? = some o) (hslots : s.tags.slots = slots.set i (some r)) (hstage : r.stage = .waiting)
    (hwrite : s.tags.writeState ≠ .idle) :
    (∃ stage, stage ≠ .none ∧ s.grant.tags.at i = some { r with stage := stage }) ∧
      s.grant.tags.count = (slots.filterMap id).length + (if o.isSome then 0 else 1) ∧ s.grant.tags.writeState ≠ .idle := by
  obtain ⟨f, hgrant, hf, hstate⟩ := s.grant_slots
  have hlt : i < slots.length := (List.getElem?_eq_some_iff.1 hi).1
  refine ⟨?_, ?_, hstate hwrite⟩
  · have hat : s.grant.tags.at i = some (f r) := by
      rw [TagTable.at_eq_some_iff, hgrant, hslots]
      simp [hlt]
    rcases hf r with h | h
    · exact ⟨.waiting, nofun, by rw [hat, h, ← hstage]⟩
    · exact ⟨.writing, nofun, by rw [hat, h, TagRecord.granted, if_pos hstage]⟩
  · rw [TagTable.count, TagTable.records, hgrant, hslots, records_map, records_set hi r]

/-! ## TAG_PLACE (R94, R95) -/

/-- A tag entry in LOCKOUT leaves the sequence, even where a held trip starts with it (R65, R82). -/
theorem State.startTrip_of_lockout {s : State} (reported : Bool) (h : s.seq.state = .lockout) : (s.startTrip reported).seq = s.seq := by
  have htest (u : State) (hu : u.seq.state = .lockout) : u.tripTest.seq = u.seq := by
    unfold State.tripTest
    split
    · simp [State.openConfirm, hu]
    · rfl
  have hstart (u : State) (hu : u.seq.state = .lockout) : u.tripStart = u := by simp [State.tripStart, hu]
  unfold State.startTrip
  dsimp only
  split
  · rw [hstart _ (by simpa [State.pulseStarted] using h), htest _ (by simpa [State.pulseStarted] using h)]
    simp [State.pulseStarted]
  · rw [htest _ (by simpa [State.pulseStarted] using h)]
    simp [State.pulseStarted]

theorem State.endClosePulse_of_lockout {s : State} (h : s.seq.state = .lockout) : s.endClosePulse.seq = s.seq := by
  unfold State.endClosePulse State.startHeld
  split
  · rw [State.startTrip_of_lockout _ (by simpa using h)]
    simp
  · simp

/-- A tag entry: CLOSE inactive, and DEAD left for LOCKOUT (R65, R82). -/
theorem State.tagEntry_effect (s : State) :
    s.tagEntry.act.close = false ∧ (s.seq.state = .dead → s.tagEntry.seq.state = .lockout ∧ s.tagEntry.seq.reason = some .tag) ∧
      (s.act.close = false → s.seq.state ≠ .dead → s.tagEntry = s) := by
  have hend (u : State) : u.endClosePulse.act.close = false := by
    unfold State.endClosePulse State.startHeld
    split
    · rw [(State.startTrip_lines _ _).2.1]
      simp
    · simp
  refine ⟨?_, fun hdead => ?_, fun hclose hstate => ?_⟩
  · unfold State.tagEntry
    dsimp only
    split
    · exact hend _
    · next h => simpa using h
  · obtain ⟨hstate, hreason, -⟩ := s.enterLockout_ends .tag
    have hsequence : s.sequenceTagEntry = s.enterLockout .tag := by simp [State.sequenceTagEntry, hdead]
    unfold State.tagEntry
    rw [hsequence]
    dsimp only
    split
    · rw [State.endClosePulse_of_lockout hstate]
      exact ⟨hstate, hreason⟩
    · exact ⟨hstate, hreason⟩
  · rw [State.tagEntry_of_close hclose, State.sequenceTagEntry, if_neg hstate]

theorem tagBody_refused (crew : Word) : tagBody crew none none = [hiByte crew, loByte crew, 0xFF, 0xFF] := (rfl)

/-- A refused tag request, with the body of log 32. -/
theorem exec_tagRefused {i : Instr} {u s : State} {r : Req} {crew : Word} (hexec : exec i s = .next u.grant) (hgrant : NothingToGrant s)
    {k : RequestKind} {c : ResultCode} (hu : u = (s.cancelSlot r.origin).refuseTag r k c crew) :
    ∃ t, exec i s = .next t ∧ OnlyLinksAndCommand s t ∧
      Handed (responseFrame r.id (requestCode k) c [hiByte crew, loByte crew, 0xFF, 0xFF]) s t := by
  obtain ⟨t, ht, hanswer, honly⟩ := exec_answered hexec hgrant hu
  exact ⟨t, ht, honly, hanswer⟩

/-- Settles O24: refused in order, or entered. -/
theorem tagPlaceAnswers : Obligations.TagPlaceAnswers := by
  unfold Obligations.TagPlaceAnswers
  have hplace (r : Req) (crew : Word) (kind : Byte) (s : State) :
      exec (.tagPlace r crew kind) s = .next ((s.cancelSlot r.origin).tagPlaceRequest r crew kind).grant := (rfl)
  refine ⟨fun r crew kind k i s hrestore hkind hcrew hremote hfind hfree => ?entered, fun r crew kind s hgrant => ⟨fun hrestore => ?_,
    fun hrestore hrange => ?_, fun hrestore hkind hcrew hremote => ?_, fun hrestore hkind hcrew hremote hfind => ?_,
    fun hrestore hkind hcrew hremote hfind hfree => ?_⟩⟩
  case entered =>
    have hcrew' : crew ≠ 0#16 := hcrew
    have hnone := TagTable.freeSlot_at hfree
    generalize hrec : placedRecord r crew k s.cmd.seconds = rec
    have hentered : (s.cancelSlot r.origin).tagPlaceRequest r crew kind =
        (((s.cancelSlot r.origin).setSlot i (some rec)).tagEntry).requestTagWrite := by
      rw [State.tagPlaceRequest, hkind]
      simp [hrestore, hcrew', hremote, hfind, hfree, State.enterTag, hrec]
    generalize hv : (s.cancelSlot r.origin).setSlot i (some rec) = v at hentered
    have hvs : v.tags.slots = s.tags.slots.set i (some rec) ∧ v.links = s.links ∧ v.act = s.act ∧ v.seq = s.seq ∧ v.supply = s.supply ∧
        v.cmd.seconds = s.cmd.seconds ∧ v.cmd.deferredClose = s.cmd.deferredClose ∧ SamePath s v ∧ SamePower s v ∧ SameLogs s v ∧
        SameClock s v := by
      subst hv
      simp [State.setSlot, SamePath, SamePower, SameLogs, SameClock]
    obtain ⟨hslots, hlinks, hact, hseq, hsupply, hseconds, hdeferred, hpath, hpower, hlogs, hclock⟩ := hvs
    obtain ⟨hopen, hdead, hsame⟩ := v.tagEntry_effect
    obtain ⟨w, hw⟩ := v.tagEntry.requestTagWrite_tags
    have hexec := hplace r crew kind s
    rw [hentered] at hexec
    obtain ⟨⟨stage, hstage, hat⟩, hcount, hwrite⟩ := State.grant_asked (s := v.tagEntry.requestTagWrite) (r := rec) hnone
      (by rw [hw]; simp [hslots]) (by simp [← hrec, placedRecord]) (State.requestTagWrite_asked _)
    obtain ⟨charger, hcharger, hkindCharger⟩ := v.tagEntry_chargers
    refine ⟨_, _, hexec, hat, ?_, ?_, ?_, ?_, ?_, ?_, hstage, hcount, hwrite, ?_, fun h => ?_, ⟨charger, ?_, hkindCharger⟩, fun h => ?_, ?_, ?_,
      fun hclose hstate => ?_, ?_, ?_⟩
    · simp [← hrec, placedRecord]
    · simp [← hrec, placedRecord]
    · simp [← hrec, placedRecord]
    · simp [← hrec, placedRecord]
    · simp [← hrec, placedRecord]
    · simp [← hrec, placedRecord]
    · simpa using hopen
    · simpa using hdead (by rw [hseq]; exact h)
    · simpa [hlinks] using hcharger
    · by_cases hstate : v.seq.state = .dead
      · rw [State.tagEntry_of_close (by rw [hact]; exact h), State.sequenceTagEntry, if_pos hstate]
        simpa [State.enterLockout_links .tag (show v.seq.state ≠ .idle by simp [hstate])] using hlinks
      · rw [hsame (by rw [hact]; exact h) hstate]
        simpa using hlinks
    · simpa using hdeferred
    · simpa using hseconds
    · rw [hsame (by rw [hact]; exact hclose) (by rw [hseq]; exact hstate)]
      simpa [SamePath, SameDrive, SamePower, SameLogs, hseq, hact] using And.intro hpath (And.intro hpower hlogs)
    · simpa using hsupply
    · simpa [SameClock] using hclock
  · exact exec_tagRefused (k := .tagPlace) (hplace r crew kind s) hgrant (by simp [State.tagPlaceRequest, hrestore])
  · refine exec_tagRefused (k := .tagPlace) (hplace r crew kind s) hgrant ?_
    unfold State.tagPlaceRequest
    cases hk : tagKindOf kind with
    | none => simp [hrestore]
    | some k =>
      have hcrew : crew = 0 := hrange.resolve_left (by simp [hk])
      simp [hrestore, hcrew]
  · obtain ⟨k, hk⟩ := Option.ne_none_iff_exists'.1 hkind
    exact exec_tagRefused (k := .tagPlace) (hplace r crew kind s) hgrant (by
      rw [State.tagPlaceRequest, hk]
      simp [hrestore, show crew ≠ 0#16 from hcrew, hremote])
  · obtain ⟨k, hk⟩ := Option.ne_none_iff_exists'.1 hkind
    obtain ⟨j, hj⟩ := Option.ne_none_iff_exists'.1 hfind
    exact exec_tagRefused (k := .tagPlace) (hplace r crew kind s) hgrant (by
      rw [State.tagPlaceRequest, hk]
      simp [hrestore, show crew ≠ 0#16 from hcrew, hremote, hj])
  · obtain ⟨k, hk⟩ := Option.ne_none_iff_exists'.1 hkind
    exact exec_tagRefused (k := .tagPlace) (hplace r crew kind s) hgrant (by
      rw [State.tagPlaceRequest, hk]
      simp [hrestore, show crew ≠ 0#16 from hcrew, hremote, hfind, hfree])

/-! ## TAG_REMOVE (R96, R97) -/

/-- Settles O25: refused in order, or REMOVING. -/
theorem tagRemoveBegins : Obligations.TagRemoveBegins := by
  unfold Obligations.TagRemoveBegins
  have hremove (r : Req) (crew : Word) (s : State) :
      exec (.tagRemove r crew) s = .next ((s.cancelSlot r.origin).tagRemoveRequest r crew).grant := (rfl)
  refine ⟨fun r crew i rec s hrestore hfind hat hheld horigin hremote => ?begun, fun r crew s hgrant => ⟨fun hrestore => ?_,
    fun hrestore hfind => ?_, fun i rec hrestore hfind hat => ⟨fun hstate => ?_, fun hheld hpanel hradio => ?_,
      fun hheld horigin hremote => ?_⟩⟩⟩
  case begun =>
    generalize hrec : { rec with state := .removing, stage := .waiting, request := some r } = rec'
    have hbegun : (s.cancelSlot r.origin).tagRemoveRequest r crew =
        ((s.cancelSlot r.origin).setSlot i (some rec')).requestTagWrite := by
      simp [State.tagRemoveRequest, hrestore, hfind, hat, State.removeRefusal, hheld, horigin, hremote, State.beginRemoval, hrec]
    have hexec := hremove r crew s
    rw [hbegun] at hexec
    obtain ⟨w, hw⟩ := ((s.cancelSlot r.origin).setSlot i (some rec')).requestTagWrite_tags
    obtain ⟨⟨stage, hstage, hat'⟩, hcount, hwrite⟩ := State.grant_asked
      (s := ((s.cancelSlot r.origin).setSlot i (some rec')).requestTagWrite) (r := rec') ((s.tags.at_eq_some_iff i rec).1 hat)
      (by rw [hw]; simp [State.setSlot]) (by simp [← hrec]) (State.requestTagWrite_asked _)
    refine ⟨_, _, hexec, hat', ?_, ?_, ?_, ?_, hstage, hcount, hwrite, ?_⟩
    · simp [← hrec]
    · simp [← hrec]
    · simp [← hrec]
    · simp [← hrec]
    · simp [State.setSlot, SamePath, SameDrive, SamePower, SameLogs, SameClock]
  · exact exec_tagRefused (k := .tagRemove) (hremove r crew s) hgrant (by simp [State.tagRemoveRequest, hrestore])
  · exact exec_tagRefused (k := .tagRemove) (hremove r crew s) hgrant (by simp [State.tagRemoveRequest, hrestore, hfind])
  · exact exec_tagRefused (k := .tagRemove) (hremove r crew s) hgrant (by
      simp [State.tagRemoveRequest, hrestore, hfind, hat, State.removeRefusal, hstate])
  · exact exec_tagRefused (k := .tagRemove) (hremove r crew s) hgrant (by
      simp [State.tagRemoveRequest, hrestore, hfind, hat, State.removeRefusal, hheld, hpanel, hradio])
  · exact exec_tagRefused (k := .tagRemove) (hremove r crew s) hgrant (by
      simp [State.tagRemoveRequest, hrestore, hfind, hat, State.removeRefusal, hheld, horigin, hremote])

/-! ## The resets (R167, R178) -/

/-- What every boot state holds, whatever the reset (R19, R69, R115, R154, R179). -/
theorem bootState_starts (kind : ResetKind) (nv : NvArray) (seconds : Long) (held : Option Nat) (free : Nat) (pending : List Instr) :
    let t := bootState kind nv seconds held free pending
    t.cmd.seconds = seconds ∧ t.battery.heldQ = held ∧ t.reports.records = [newRecord 0 4 seconds (.start kind)] ∧ t.store.nv = nv ∧
      t.store.tables = romTables ∧ t.supply.power = .start ∧ t.seq.state = .init ∧ t.sample.stream = .absent ∧
      t.sample.view = .unknown ∧ t.cmd.slot = none ∧ t.cmd.restartMark = false ∧ t.links.tx = [] :=
  ⟨rfl, rfl, rfl, rfl, rfl, rfl, rfl, rfl, rfl, rfl, rfl, rfl⟩

/-- Settles O57: both resets boot; a RESTART that is not ready changes nothing. -/
theorem resetsDiffer : Obligations.ResetsDiffer := by
  unfold Obligations.ResetsDiffer
  refine fun s => ⟨?powerOn, fun hmark hidle hafter => ?restart, fun h => ?early⟩
  case powerOn =>
    obtain ⟨hseconds, hheld, hreports, hnv, htables, hpower, hstate, hstream, hview, hslot, -, htx⟩ :=
      bootState_starts .powerOn (s.store.nv.interrupted s.store.inFlight) 0 none s.free s.pending
    exact ⟨_, exec_powerOn s, hseconds, hheld, hreports, hnv, htables, hpower, hstate, hstream, hview, hslot, htx⟩
  case restart =>
    have hready : s.restartReady = true := s.restartReady_iff.2 ⟨hmark, hidle, hafter⟩
    exact ⟨_, exec_restart_of_ready hready, bootState_starts .restart s.store.nv s.cmd.seconds (some s.battery.aside) s.free s.pending⟩
  case early =>
    have hready : ¬ s.restartReady = true := fun hready => by
      obtain ⟨hmark, hidle, hafter⟩ := s.restartReady_iff.1 hready
      rcases h with h | h | h
      · simp [hmark] at h
      · simp [hidle] at h
      · exact h hafter
    exact if_neg hready

end Sys2Proof.Machine
end

