-- ==== Sys2Proof/Proofs/TagWrites.lean ====
section
/-! The end of a tag write (O26): each record that it carried is concluded, answered and reported, in slot order. -/

namespace Sys2Proof.Machine

/-! ## One record concluded (R92, R93) -/

section
variable {u : State} {t : TagTable} {verified : Bool} {i : Nat} {r : TagRecord}

/-- A conclusion enters the one report, with the count after it and the new durable flag (R100, log 43). -/
theorem State.concludeRecord_reports (hstage : r.stage = .writing) (hdurable : u.tags.durable = verified)
    (hcount : (t.concludedBelow verified (i + 1)).count =
      TagTable.count { u.tags with slots := u.tags.slots.set i (concludedRecord verified r) }) :
    (u.concludeRecord verified i r).reports =
      (t.conclusionReport verified i (some r)).toList.foldl (fun q body => (q.enter 6 u.cmd.seconds body).1) u.reports := by
  cases hstate : r.state <;> cases verified <;>
    simp [concludedRecord, hstate] at hcount <;>
    simp [State.concludeRecord, TagTable.conclusionReport, hstate, hstage, State.tagReport, State.report, hcount, hdurable,
      State.setSlot]

/-- What the slots hold when those below a number have been concluded. -/
theorem TagTable.concludedBelow_getElem? (k j : Nat) :
    (t.concludedBelow verified k).slots[j]? = t.slots[j]?.map fun o => o.bind fun r =>
      if j < k ∧ r.stage = .writing then concludedRecord verified r else some r := by
  simp [TagTable.concludedBelow, List.getElem?_mapIdx]

theorem TagTable.concludedBelow_zero : (t.concludedBelow verified 0).slots = t.slots := by
  refine List.ext_getElem? fun j => ?_
  rw [TagTable.concludedBelow_getElem?]
  rcases t.slots[j]? with _ | _ | r <;> simp

/-- A record that the write carried is concluded in its turn. -/
theorem TagTable.concludedBelow_succ_of_writing {k : Nat} (hk : t.slots[k]? = some (some r)) (hstage : r.stage = .writing) :
    (t.concludedBelow verified (k + 1)).slots = (t.concludedBelow verified k).slots.set k (concludedRecord verified r) := by
  have hlen : k < (t.concludedBelow verified k).slots.length := by
    simpa [TagTable.concludedBelow] using (List.getElem?_eq_some_iff.1 hk).1
  refine List.ext_getElem? fun j => ?_
  rw [List.getElem?_set, TagTable.concludedBelow_getElem?, TagTable.concludedBelow_getElem?]
  by_cases hjk : k = j
  · subst hjk
    simp [hk, hstage, hlen]
  · have hlt : j < k + 1 ↔ j < k := by omega
    simp [hjk, hlt]

/-- Any other slot stays as it is. -/
theorem TagTable.concludedBelow_succ_of_other {k : Nat} (h : ∀ r, t.slots[k]? = some (some r) → r.stage ≠ .writing) :
    (t.concludedBelow verified (k + 1)).slots = (t.concludedBelow verified k).slots := by
  refine List.ext_getElem? fun j => ?_
  rw [TagTable.concludedBelow_getElem?, TagTable.concludedBelow_getElem?]
  by_cases hjk : k = j
  · subst hjk
    rcases hk : t.slots[k]? with _ | _ | r
    · rfl
    · rfl
    · simp [h r hk]
  · have hlt : j < k + 1 ↔ j < k := by omega
    simp [hlt]

end

/-! ## The slots in their order -/

/-- The answers, and the bodies of the reports, of the slots below a number. -/
def TagTable.answersBelow (t : TagTable) (verified : Bool) (k : Nat) : List OutFrame :=
  ((t.slots.mapIdx (tagAnswer verified)).take k).filterMap id

def TagTable.bodiesBelow (t : TagTable) (verified : Bool) (k : Nat) : List ReportBody :=
  ((t.slots.mapIdx (t.conclusionReport verified)).take k).filterMap id

/-- One more element of a list of optional values. -/
theorem filterMap_take_succ {α β : Type} (f : Nat → α → Option β) (l : List α) (k : Nat) :
    ((l.mapIdx f).take (k + 1)).filterMap id = ((l.mapIdx f).take k).filterMap id ++ ((l[k]?).bind (f k)).toList := by
  rw [List.take_add_one, List.filterMap_append, List.getElem?_mapIdx]
  congr 1
  rcases l[k]? with _ | a
  · rfl
  · rcases h : f k a with _ | b <;> simp [h]

/-- What the conclusion of the slots below a number has done. -/
structure SlotsConcluded (verified : Bool) (k : Nat) (s u : State) : Prop where
  slots : u.tags.slots = (s.tags.concludedBelow verified k).slots
  durable : u.tags.durable = verified
  links : u.links = { s.links with tx := s.links.tx ++ s.tags.answersBelow verified k }
  reports : u.reports = (s.tags.bodiesBelow verified k).foldl (fun q body => (q.enter 6 s.cmd.seconds body).1) s.reports
  seconds : u.cmd.seconds = s.cmd.seconds

theorem SlotsConcluded.zero {verified : Bool} {s : State} (h : s.tags.durable = verified) : SlotsConcluded verified 0 s s :=
  ⟨TagTable.concludedBelow_zero.symm, h, by simp [TagTable.answersBelow], by simp [TagTable.bodiesBelow], rfl⟩

/-- The next slot in its turn. -/
theorem SlotsConcluded.succ {verified : Bool} {k : Nat} {s u : State} (h : SlotsConcluded verified k s u) :
    SlotsConcluded verified (k + 1) s (State.concludeSlot verified u k) := by
  have hanswers := filterMap_take_succ (tagAnswer verified) s.tags.slots k
  have hbodies := filterMap_take_succ (s.tags.conclusionReport verified) s.tags.slots k
  have hat : u.tags.slots[k]? = s.tags.slots[k]? := by
    rw [h.slots, TagTable.concludedBelow_getElem?]
    rcases s.tags.slots[k]? with _ | _ | r <;> simp
  have hskip (hother : ∀ r, s.tags.slots[k]? = some (some r) → r.stage ≠ .writing) :
      SlotsConcluded verified (k + 1) s (State.concludeSlot verified u k) := by
    have hsame : State.concludeSlot verified u k = u := by
      unfold State.concludeSlot
      split
      · rfl
      · next r hr =>
        rw [TagTable.at_eq_some_iff, hat] at hr
        rw [if_neg (hother r hr)]
    have hnoAnswer : (s.tags.slots[k]?).bind (tagAnswer verified k) = none := by
      rcases hslot : s.tags.slots[k]? with _ | _ | r
      · rfl
      · rfl
      · cases hrequest : r.request <;> simp [tagAnswer, hother r hslot, hrequest]
    have hnoBody : (s.tags.slots[k]?).bind (s.tags.conclusionReport verified k) = none := by
      rcases hslot : s.tags.slots[k]? with _ | _ | r
      · rfl
      · rfl
      · simp [TagTable.conclusionReport, hother r hslot]
    rw [hsame]
    refine ⟨by rw [h.slots, TagTable.concludedBelow_succ_of_other hother], h.durable, ?_, ?_, h.seconds⟩
    · rw [h.links, TagTable.answersBelow, TagTable.answersBelow, hanswers, hnoAnswer]
      simp
    · rw [h.reports, TagTable.bodiesBelow, TagTable.bodiesBelow, hbodies, hnoBody]
      simp
  rcases hslot : s.tags.slots[k]? with _ | _ | r
  · exact hskip (by simp [hslot])
  · exact hskip (by simp [hslot])
  · by_cases hstage : r.stage = .writing
    · have hconcluded : State.concludeSlot verified u k = u.concludeRecord verified k r := by
        simp [State.concludeSlot, (u.tags.at_eq_some_iff k r).2 (hat.trans hslot), hstage]
      have hslots : (s.tags.concludedBelow verified (k + 1)).slots = u.tags.slots.set k (concludedRecord verified r) := by
        rw [TagTable.concludedBelow_succ_of_writing hslot hstage, h.slots]
      have hcount : (s.tags.concludedBelow verified (k + 1)).count =
          TagTable.count { u.tags with slots := u.tags.slots.set k (concludedRecord verified r) } := by
        rw [TagTable.count, TagTable.records, hslots]
        rfl
      rw [hconcluded]
      refine ⟨?_, ?_, ?_, ?_, by simpa using h.seconds⟩
      · rw [State.concludeRecord_tags, hslots]
      · rw [State.concludeRecord_tags]
        exact h.durable
      · rw [State.concludeRecord_links _ _ _ _ hstage, h.links, TagTable.answersBelow, TagTable.answersBelow, hanswers, hslot]
        simp
      · rw [State.concludeRecord_reports hstage h.durable hcount, h.reports, h.seconds, TagTable.bodiesBelow, TagTable.bodiesBelow, hbodies,
          hslot, List.foldl_append]
        rfl
    · exact hskip fun r' hr' => by
        rw [hslot] at hr'
        cases hr'
        exact hstage

theorem SlotsConcluded.all (verified : Bool) {s : State} (h : s.tags.durable = verified) :
    SlotsConcluded verified 6 s (s.concludeSlots verified) := by
  have hbelow (k : Nat) : SlotsConcluded verified k s ((List.range k).foldl (State.concludeSlot verified) s) := by
    induction k with
    | zero => exact .zero h
    | succ k ih =>
      rw [List.range_succ, List.foldl_append]
      exact ih.succ
  exact hbelow 6

/-! ## The end of the write (R92, R93, R166) -/

theorem TagTable.answersBelow_all {t : TagTable} (verified : Bool) (h : t.slots.length = 6) :
    t.answersBelow verified 6 = (t.slots.mapIdx (tagAnswer verified)).filterMap id := by
  rw [TagTable.answersBelow, List.take_of_length_le (by simp [h])]

theorem TagTable.bodiesBelow_all {t : TagTable} (verified : Bool) (h : t.slots.length = 6) :
    t.bodiesBelow verified 6 = (t.slots.mapIdx (t.conclusionReport verified)).filterMap id := by
  rw [TagTable.bodiesBelow, List.take_of_length_le (by simp [h])]

/-- A record waits after the conclusion exactly where it waited before it. -/
theorem TagTable.concludedBelow_waiting (t : TagTable) (verified : Bool) (k : Nat) (r : TagRecord) (h : r.stage = .waiting) :
    some r ∈ (t.concludedBelow verified k).slots ↔ some r ∈ t.slots := by
  rw [List.mem_iff_getElem?, List.mem_iff_getElem?]
  refine exists_congr fun j => ?_
  rw [TagTable.concludedBelow_getElem?]
  rcases t.slots[j]? with _ | _ | r'
  · simp
  · simp
  · simp only [Option.map_some, Option.bind_some, Option.some_inj]
    split
    · next hwriting =>
      refine ⟨fun hconcluded => ?_, fun hsame => ?_⟩
      · unfold concludedRecord at hconcluded
        split at hconcluded
        · cases hconcluded
        · cases hconcluded
          cases h
      · cases hsame
        rw [h] at hwriting
        cases hwriting.2
    · exact Option.some_inj

theorem TagTable.nextWriteState_concluded {t u : TagTable} {verified : Bool} {k : Nat}
    (hslots : u.slots = (t.concludedBelow verified k).slots) :
    ((∃ r ∈ t.records, r.stage = .waiting) → u.nextWriteState = .waiting) ∧
      ((∀ r ∈ t.records, r.stage ≠ .waiting) → u.nextWriteState = .idle) := by
  have hmem (r : TagRecord) (h : r.stage = .waiting) : r ∈ u.records ↔ r ∈ t.records := by
    have hiff := t.concludedBelow_waiting verified k r h
    simpa [TagTable.records, hslots] using hiff
  refine ⟨fun ⟨r, hr, hwaiting⟩ => if_pos ?_, fun hnone => if_neg ?_⟩
  · exact List.any_eq_true.2 ⟨r, (hmem r hwaiting).2 hr, decide_eq_true hwaiting⟩
  · intro hany
    obtain ⟨r, hr, hwaiting⟩ := List.any_eq_true.1 hany
    have hwaiting := of_decide_eq_true hwaiting
    exact hnone r ((hmem r hwaiting).1 hr) hwaiting

/-- The image of a table is that before its waiting records were granted (R91). -/
theorem tagImage_granted (slots : List (Option TagRecord)) : tagImage (slots.map (Option.map TagRecord.granted)) = tagImage slots := by
  have hgranted (r : TagRecord) : r.granted.state = r.state ∧ r.granted.crew = r.crew ∧ r.granted.kind = r.kind ∧
      r.granted.origin = r.origin ∧ r.granted.placed = r.placed := by
    unfold TagRecord.granted
    split <;> simp
  unfold tagImage
  rw [List.filterMap_filterMap, List.filterMap_filterMap, List.filterMap_map]
  refine congrArg (fun f => List.filterMap f slots) (funext fun o => ?_)
  cases o with
  | none => rfl
  | some r => simp [hgranted]

/-- What a table shows of each slot once the write is concluded and what waits is granted. -/
theorem TagTable.concluded_at {t u : TagTable} {verified : Bool} {f : TagRecord → TagRecord} (hlen : t.slots.length = 6)
    (hslots : u.slots = (t.concludedBelow verified 6).slots.map (Option.map f)) (hf : ∀ r, r.stage = .none → f r = r) :
    (∀ i r, t.at i = some r → r.stage = .writing → u.at i = concludedRecord verified r) ∧
      (∀ i r, t.at i = some r → r.stage ≠ .writing → u.at i = some (f r)) ∧ (∀ i, t.at i = none → u.at i = none) := by
  have hget (i : Nat) : u.slots[i]? = (t.slots[i]?).map fun o => (o.bind fun r =>
      if i < 6 ∧ r.stage = .writing then concludedRecord verified r else some r).map f := by
    rw [hslots, List.getElem?_map, TagTable.concludedBelow_getElem?, Option.map_map]
    rfl
  refine ⟨fun i r hr hstage => ?_, fun i r hr hstage => ?_, fun i hi => ?_⟩
  · have hslot := (t.at_eq_some_iff i r).1 hr
    have hlt : i < 6 := by
      rw [← hlen]
      exact (List.getElem?_eq_some_iff.1 hslot).1
    rw [TagTable.at, List.getD_eq_getElem?_getD, hget, hslot]
    simp only [Option.map_some, Option.bind_some, if_pos (And.intro hlt hstage), Option.getD_some]
    unfold concludedRecord
    split
    · rfl
    · exact congrArg some (hf _ rfl)
  · rw [TagTable.at_eq_some_iff, hget, (t.at_eq_some_iff i r).1 hr]
    simp [hstage]
  · rw [TagTable.at, List.getD_eq_getElem?_getD] at hi ⊢
    rw [hget]
    rcases hslot : t.slots[i]? with _ | _ | r
    · rfl
    · rfl
    · rw [hslot] at hi
      cases hi

theorem SamePath.trans {s t u : State} (h : SamePath s t) (k : SamePath t u) : SamePath s u :=
  ⟨k.1.trans h.1, k.2.1.trans h.2.1, k.2.2.trans h.2.2⟩

theorem SameDrive.trans {s t u : State} (h : SameDrive s t) (k : SameDrive t u) : SameDrive s u := ⟨k.1.trans h.1, k.2.trans h.2⟩

/-- A tag write that waits is granted the free array. -/
theorem State.grant_of_waiting {z : State} (hfree : z.store.inFlight = none) (hstate : z.tags.writeState = .waiting) :
    z.grant.tags.slots = z.tags.slots.map (Option.map TagRecord.granted) ∧ z.grant.tags.writeState = .inFlight ∧
      z.grant.store.inFlight = some (.tag (tagImage z.grant.tags.slots)) ∧ z.grant.store.writeTimer = z.timer (msec 25) := by
  simp [State.grant, hfree, hstate, tagImage_granted]

/-- With no tag write asked for, the free array goes to another write or to none. -/
theorem State.grant_of_idle {z : State} (hfree : z.store.inFlight = none) (hstate : z.tags.writeState = .idle) :
    z.grant.tags = z.tags ∧ ∀ image, z.grant.store.inFlight ≠ some (.tag image) := by
  unfold State.grant
  rw [hfree, hstate]
  dsimp only
  (repeat' split) <;> simp_all

/-- What the notices at a free array leave. -/
theorem State.arrayFreed_grant (z : State) :
    z.arrayFreed.tags = z.grant.tags ∧ z.arrayFreed.store = z.grant.store ∧ z.arrayFreed.reports = z.reports ∧
      SamePath z z.arrayFreed ∧ SameDrive z z.arrayFreed ∧
      (z.supply.stage ≠ .draining → z.arrayFreed.links = z.links) := by
  refine ⟨by simp [State.arrayFreed], by simp [State.arrayFreed], by simp [State.arrayFreed], by simp [State.arrayFreed, SamePath],
    by simp [State.arrayFreed, SameDrive], fun hstage => ?_⟩
  have hskip : z.grant.disconnectTest = z.grant := by simp [State.disconnectTest, hstage]
  unfold State.arrayFreed State.idleNotice State.fenceRestart
  rw [hskip]
  (repeat' split) <;> simp

/-- The table and the write that follow the conclusion of a tag write (R92, R166). -/
theorem State.grant_concluded {s z : State} {verified : Bool} {k : Nat} (hslots : z.tags.slots = (s.tags.concludedBelow verified k).slots)
    (hstate : z.tags.writeState = z.tags.nextWriteState) (hfree : z.store.inFlight = none) :
    ∃ f : TagRecord → TagRecord, z.grant.tags.slots = (s.tags.concludedBelow verified k).slots.map (Option.map f) ∧
      (∀ r, r.stage = .none → f r = r) ∧ (∀ rec ∈ s.tags.records, rec.stage = .waiting → f rec = { rec with stage := .writing }) ∧
      ((∀ r ∈ s.tags.records, r.stage ≠ .waiting) →
        z.grant.tags.writeState = .idle ∧ ∀ image, z.grant.store.inFlight ≠ some (.tag image)) ∧
      ((∃ r ∈ s.tags.records, r.stage = .waiting) →
        z.grant.tags.writeState = .inFlight ∧ z.grant.store.inFlight = some (.tag (tagImage z.grant.tags.slots)) ∧
        z.grant.store.writeTimer = z.timer (msec 25)) := by
  obtain ⟨hwaits, hnoWait⟩ := TagTable.nextWriteState_concluded hslots
  by_cases hwaiting : ∃ r ∈ s.tags.records, r.stage = .waiting
  · obtain ⟨hgslots, hgrest⟩ := State.grant_of_waiting hfree (hstate.trans (hwaits hwaiting))
    exact ⟨TagRecord.granted, by rw [hgslots, hslots], fun r hr => by simp [TagRecord.granted, hr], fun r _ hr => by
      simp [TagRecord.granted, hr], fun hnone => absurd hwaiting (by simpa using hnone), fun _ => hgrest⟩
  · have hnone : ∀ r ∈ s.tags.records, r.stage ≠ .waiting := by simpa using hwaiting
    obtain ⟨hgtags, hgjob⟩ := State.grant_of_idle hfree (hstate.trans (hnoWait hnone))
    exact ⟨id, by rw [hgtags, hslots]; simp, fun r _ => rfl, fun r hr hw => absurd hw (hnone r hr),
      fun _ => ⟨by rw [hgtags, hstate, hnoWait hnone], hgjob⟩, fun h => absurd h hwaiting⟩

/-- Settles O26: the records concluded, then the next write. -/
theorem tagWriteConcludes : Obligations.TagWriteConcludes := by
  unfold Obligations.TagWriteConcludes
  intro verified image c s hsound hjob hc
  dsimp only
  have hlen : s.tags.slots.length = 6 := hsound.1
  have htimer : s.store.tagJobTimer = some c := by simp [TableStore.tagJobTimer, hjob, hc]
  have himage : (s.advanceTo c.due).store.tagJob = image := by simp [TableStore.tagJob, hjob]
  have hexec : exec (.tagWriteComplete verified) s = .next ((s.advanceTo c.due).tagWriteEnd image verified).arrayFreed := by
    simp only [exec, execTagWriteComplete, htimer, onExpiry_some, himage]
  generalize hv : (((s.advanceTo c.due).storeTagImage image verified).endJob.setTags
    { ((s.advanceTo c.due).storeTagImage image verified).endJob.tags with durable := verified }) = v
  have hw : SlotsConcluded verified 6 v (v.concludeSlots verified) := .all verified (by rw [← hv]; simp)
  have hvs : v.tags = { s.tags with durable := verified } ∧ v.links = (s.advanceTo c.due).links ∧ v.reports = s.reports ∧
      v.cmd.seconds = s.cmd.seconds ∧ v.store.inFlight = none ∧ v.store.tables = s.store.tables ∧ v.store.buffer = s.store.buffer ∧
      SamePath s v ∧ SameDrive s v ∧ v.faults = s.faults ∧ v.supply = s.supply ∧ v.now = max s.now c.due ∧ v.pending = s.pending ∧
      (verified = true → v.store.nv = { s.store.nv with tags := .good image }) ∧
      (verified = false → v.store.nv.tables = s.store.nv.tables ∧ v.store.nv.record = s.store.nv.record) := by
    subst hv
    cases verified <;>
      simp [State.storeTagImage, State.endJob, State.useFree, SamePath, SameDrive, State.advanceTo_now]
  obtain ⟨htags, hlinks, hreports, hseconds, hfree, htables, hbuffer, hpath, hdrive, hfaults, hsupply, hnow, hpending, hgood, hbad⟩ := hvs
  generalize hz : (v.concludeSlots verified).setTags
    { (v.concludeSlots verified).tags with writeState := (v.concludeSlots verified).tags.nextWriteState } = z
  have hend : (s.advanceTo c.due).tagWriteEnd image verified = z := by
    rw [← hz, State.tagWriteEnd_eq, State.concluded, hv]
  rw [hend] at hexec
  have hzs : z.tags = { (v.concludeSlots verified).tags with writeState := (v.concludeSlots verified).tags.nextWriteState } ∧
      z.links = (v.concludeSlots verified).links ∧ z.reports = (v.concludeSlots verified).reports ∧ z.store = v.store ∧ SamePath v z ∧
      SameDrive v z ∧ z.faults = v.faults ∧ z.supply = v.supply ∧ z.now = v.now ∧ z.pending = v.pending := by
    subst hz
    simp [SamePath, SameDrive]
  obtain ⟨hztags, hzlinks, hzreports, hzstore, hzpath, hzdrive, hzfaults, hzsupply, hznow, hzpending⟩ := hzs
  have hslots : z.tags.slots = (s.tags.concludedBelow verified 6).slots := by
    rw [hztags]
    simpa [htags, TagTable.concludedBelow] using hw.slots
  have hdurable : z.tags.durable = verified := by
    rw [hztags]
    exact hw.durable
  have hanswers : z.links = { (s.advanceTo c.due).links with
      tx := (s.advanceTo c.due).links.tx ++ (s.tags.slots.mapIdx (tagAnswer verified)).filterMap id } := by
    rw [hzlinks, hw.links, hlinks, TagTable.answersBelow_all verified (by simp [htags, hlen]), htags]
  have hbodies : z.reports = ((s.tags.slots.mapIdx (s.tags.conclusionReport verified)).filterMap id).foldl
      (fun q body => (q.enter 6 s.cmd.seconds body).1) s.reports := by
    rw [hzreports, hw.reports, hreports, hseconds, TagTable.bodiesBelow_all verified (by simp [htags, hlen]), htags]
    rfl
  have hwriteState : z.tags.writeState = z.tags.nextWriteState := by
    rw [hztags]
    rfl
  clear hz hv hztags
  obtain ⟨charger, hcharger⟩ := z.arrayFreed_tx
  obtain ⟨hgtags, hgstore, hrep, hpath', hdrive', hjoblinks⟩ := z.arrayFreed_grant
  obtain ⟨f, hfslots, hfnone, hfwaiting, hidle, hbusy⟩ := State.grant_concluded hslots hwriteState (hzstore ▸ hfree)
  have hstore : z.arrayFreed.store.nv = v.store.nv ∧ z.arrayFreed.store.tables = v.store.tables ∧ z.arrayFreed.store.buffer = v.store.buffer := by
    rw [hgstore, ← hzstore]
    simp
  obtain ⟨hnv, htab, hbuf⟩ := hstore
  have hmoment : z.timer (msec 25) = startAt (max s.now c.due) (msec 25) := by rw [State.timer, hznow, hnow]
  obtain ⟨hwritten, hother, hempty⟩ := TagTable.concluded_at hlen hfslots hfnone
  have hmem (i : Nat) (rec : TagRecord) (h : s.tags.at i = some rec) : rec ∈ s.tags.records := by
    have hslot := List.mem_of_getElem? ((s.tags.at_eq_some_iff i rec).1 h)
    simpa [TagTable.records] using hslot
  refine ⟨_, hexec, by rw [hgtags, z.grant_tags.2, hdurable], ?_, fun i rec hat hstage => ?_, fun i rec hat hstage => ?_, ?_, fun hstage => ?_, fun x hx => ?_,
    ?_, ?_, ?_, ?_, ?_, ?_, ?_, hpath.trans (hzpath.trans hpath'), hdrive.trans (hzdrive.trans hdrive'), ?_, ?_, ?_⟩
  · rw [hgtags]
    exact hwritten
  · rw [hgtags, hother i rec hat (by simp [hstage]), hfnone rec hstage]
  · rw [hgtags, hother i rec hat (by simp [hstage]), hfwaiting rec (hmem i rec hat) hstage]
  · rw [hgtags]
    exact hempty
  · rw [hjoblinks (by rw [hzsupply, hsupply]; exact hstage), hanswers]
  · rw [hcharger, hanswers]
    simp only [List.mem_append]
    exact .inl (.inr hx)
  · rw [hrep, hbodies]
  · rw [hgtags, hgstore]
    exact fun h => ⟨(hidle h).1, (hidle h).2 image⟩
  · rw [hgtags, hgstore, ← hmoment]
    exact hbusy
  · rw [hnv]
    exact hgood
  · rw [hnv]
    exact hbad
  · rw [htab, htables]
  · rw [hbuf, hbuffer]
  · simp [State.arrayFreed, hzfaults, hfaults]
  · simp [State.arrayFreed, hznow, hnow]
  · simp [State.arrayFreed, hzpending, hpending]

end Sys2Proof.Machine
end

