-- ==== Sys2Proof/Proofs/Rests.lean ====
section
/-! Entries to IDLE and LOCKOUT with what is pending applied (R67), at the ends of the energy wait and the reclaim timer (O15). -/

namespace Sys2Proof.Machine

/-! ## The queue at a changed budget -/

/-- What a report displaces does not depend on the budget. -/
theorem ReportQueue.enter_budget (q : ReportQueue) (b : Int) (cls : Nat) (created : Long) (body : ReportBody) :
    ({ q with budget := b }.enter cls created body).1 = { (q.enter cls created body).1 with budget := b } := by
  unfold ReportQueue.enter
  dsimp only
  split
  · rfl
  · split
    · rfl
    · split <;> rfl

/-! ## What is pending, applied (R67, R161, R164) -/

section
variable (v : State)

/-- An image is put into force: one is PENDING, of another kind than BATTERY. -/
theorem State.applyPending_of_applied (h : v.store.buffer.state = .pending ∧ tableKind v.store.buffer.table ≠ .battery) :
    v.applyPending = v.applyGroup.applyCommit none := by
  obtain ⟨-, -, -, -, hbuffer, -, -⟩ := v.applyGroup_taken
  rw [State.applyPending, State.noticeSequenceRests, hbuffer, if_pos h]

theorem State.applyPending_of_none (h : ¬ (v.store.buffer.state = .pending ∧ tableKind v.store.buffer.table ≠ .battery)) :
    v.applyPending = v.applyGroup := by
  obtain ⟨-, -, -, -, hbuffer, -, -⟩ := v.applyGroup_taken
  rw [State.applyPending, State.noticeSequenceRests, hbuffer, if_neg h]

/-- An applied table of another kind than UNIT and BATTERY changes the Table Store alone. -/
theorem State.applyPending_of_protection (h : v.store.buffer.state = .pending) (hu : tableKind v.store.buffer.table ≠ .unit)
    (hb : tableKind v.store.buffer.table ≠ .battery) : v.applyPending = v.applyGroup.imaged none := by
  obtain ⟨-, -, -, -, hbuffer, -, -⟩ := v.applyGroup_taken
  rw [v.applyPending_of_applied ⟨h, hb⟩, State.applyCommit_of_protection _ _ (by rw [hbuffer]; exact hu) (by rw [hbuffer]; exact hb)]

theorem State.applyPending_of_unit (h : v.store.buffer.state = .pending) (hu : tableKind v.store.buffer.table = .unit) :
    v.applyPending = (v.applyGroup.imaged none).unitApplied (nominalFrequency v.unit) := by
  obtain ⟨-, -, -, htables, hbuffer, -, -⟩ := v.applyGroup_taken
  rw [v.applyPending_of_applied ⟨h, by simp [hu]⟩, State.applyCommit_of_unit _ _ (by rw [hbuffer]; exact hu)]
  simp [State.unit, State.table, htables]

theorem State.afterGroupReport_budget : v.afterGroupReport.budget = v.reports.budget := by
  unfold State.afterGroupReport
  split <;> simp

/-- The kinds of what may be pending. -/
theorem State.applyPending_cases {P : State → Prop}
    (hnone : ¬ (v.store.buffer.state = .pending ∧ tableKind v.store.buffer.table ≠ .battery) → P v.applyGroup)
    (hunit : v.store.buffer.state = .pending → tableKind v.store.buffer.table = .unit →
      P ((v.applyGroup.imaged none).unitApplied (nominalFrequency v.unit)))
    (hprotection : v.store.buffer.state = .pending → tableKind v.store.buffer.table ≠ .unit → tableKind v.store.buffer.table ≠ .battery →
      P (v.applyGroup.imaged none)) : P v.applyPending := by
  by_cases happlied : v.store.buffer.state = .pending ∧ tableKind v.store.buffer.table ≠ .battery
  · by_cases hu : tableKind v.store.buffer.table = .unit
    · rw [v.applyPending_of_unit happlied.1 hu]
      exact hunit happlied.1 hu
    · rw [v.applyPending_of_protection happlied.1 hu happlied.2]
      exact hprotection happlied.1 hu happlied.2
  · rw [v.applyPending_of_none happlied]
    exact hnone happlied

theorem State.imaged_same (req : Option Req) :
    (v.imaged req).reports = v.reports ∧ (v.imaged req).sample = v.sample ∧ (v.imaged req).mag = v.mag ∧ (v.imaged req).battery = v.battery ∧
      (v.imaged req).seq = v.seq := by
  simp [State.imaged]

/-- What is pending leaves of the sequence, the Battery Unit and the queue. -/
theorem State.applyPending_leaves :
    v.applyPending.seq = { v.seq with pendingGroup := none } ∧ v.applyPending.battery = v.battery ∧
      v.applyPending.sample.view = v.sample.view ∧
      ∃ b, v.applyPending.reports = { v.afterGroupReport with budget := b } := by
  have hseq : v.applyGroup.seq = { v.seq with pendingGroup := none } := by
    unfold State.applyGroup State.makeActive
    cases h : v.seq.pendingGroup with
    | none => simp [← h]
    | some g =>
      dsimp only
      split <;> simp
  obtain ⟨-, -, -, -, -, -, hreports⟩ := v.applyGroup_taken
  obtain ⟨hsame, hsample, -, hbattery, hsequence⟩ := v.applyGroup.imaged_same none
  refine v.applyPending_cases (P := fun t => t.seq = { v.seq with pendingGroup := none } ∧ t.battery = v.battery ∧
    t.sample.view = v.sample.view ∧ ∃ b, t.reports = { v.afterGroupReport with budget := b })
    (fun _ => ⟨hseq, by simp, by simp, v.afterGroupReport.budget, by rw [hreports]⟩) (fun _ _ => ?_)
    fun _ _ _ => ⟨by rw [hsequence, hseq], by rw [hbattery]; simp, by rw [hsample]; simp, v.afterGroupReport.budget, by rw [hsame, hreports]⟩
  obtain ⟨hbudget, hstream⟩ := (v.applyGroup.imaged none).unitApplied_effect (nominalFrequency v.unit)
  refine ⟨by simp [hsequence, hseq], by simp [hbattery], ?_, _, by rw [hbudget, hsame, hreports]⟩
  split at hstream
  · rw [hstream.1]
    simp [hsample]
  · rw [hstream.1]
    simp [hsample]

end

/-- An entry that applies what is pending, through the grant, from a state that agrees with `s` in what that depends on. -/
theorem PendingTaken.of_applyPending {s v t : State} (hgroup : v.seq.pendingGroup = s.seq.pendingGroup) (hstore : v.store = s.store)
    (hbudget : v.reports.budget = s.reports.budget) (hsample : v.sample = s.sample) (hmag : v.mag = s.mag)
    (htgroup : t.seq.pendingGroup = none) (htstore : t.store = v.applyPending.store)
    (htbudget : t.reports.budget = v.applyPending.reports.budget) (htsample : t.sample = v.applyPending.sample)
    (htmag : t.mag = v.applyPending.mag) : PendingTaken s t.grant := by
  obtain ⟨-, hactive, hchanged, htables, hbuffer, -, hreports⟩ := v.applyGroup_taken
  rw [hgroup, hstore] at hactive
  rw [hstore] at hchanged htables hbuffer
  have hbudgets : v.applyGroup.reports.budget = s.reports.budget := by rw [hreports, v.afterGroupReport_budget, hbudget]
  obtain ⟨hisame, hisample, himag, -⟩ := v.applyGroup.imaged_same none
  have hvunit : v.unit = s.unit := (State.tables_congr hstore).1
  have hasked (h : t.store.activeGroup ≠ s.store.activeGroup) (hrecord : t.store.recordWaiting = v.applyGroup.store.recordWaiting)
      (hsame : t.store.activeGroup = v.applyGroup.store.activeGroup) :
      t.grant.store.recordWaiting.isSome = true ∨ t.grant.store.inFlight.isSome = true :=
    State.grant_recordAsked (by rw [hrecord]; exact hchanged (by rw [← hsame]; exact h))
  have himaged : (v.applyGroup.imaged none).store = { v.applyGroup.store with
      tables := s.store.tables.set s.store.buffer.table s.store.buffer.image,
      buffer := { s.store.buffer with state := .writing, request := none }, tableWaiting := true } := by
    simp [State.imaged, htables, hbuffer]
  have happlied : t.store = (v.applyGroup.imaged none).store →
      (t.store.activeGroup = s.seq.pendingGroup.getD s.store.activeGroup) ∧
      (t.grant.store.activeGroup ≠ s.store.activeGroup → t.grant.store.recordWaiting.isSome = true ∨ t.grant.store.inFlight.isSome = true) ∧
      t.grant.store.tables = s.store.tables.set s.store.buffer.table s.store.buffer.image ∧
      t.grant.store.buffer = { s.store.buffer with state := .writing, request := none } ∧
      (t.grant.store.tableWaiting = true ∨
        t.grant.store.inFlight = some (.table s.store.buffer.table s.store.buffer.image)) := fun hst => by
    have hwrite := State.grant_tableAsked (s := t) (by rw [hst, himaged])
    have hrecord := hasked (hrecord := by rw [hst, himaged]) (hsame := by rw [hst, himaged])
    rw [hst, himaged] at hwrite
    refine ⟨by rw [hst, himaged]; exact hactive, fun h => hrecord (by simpa using h), ?_, ?_, hwrite⟩
    · simp [hst, himaged]
    · simp [hst, himaged]
  unfold PendingTaken
  dsimp only
  revert htstore htbudget htsample htmag
  refine v.applyPending_cases (P := fun u => t.store = u.store → t.reports.budget = u.reports.budget → t.sample = u.sample → t.mag = u.mag → _)
    (fun hnone htstore htbudget htsample htmag => ?none) (fun hpend hu htstore htbudget htsample htmag => ?unit)
    (fun hpend hu hb htstore htbudget htsample htmag => ?protection)
  case none =>
    rw [hstore] at hnone
    have hrecord := hasked (hrecord := by rw [htstore]) (hsame := by rw [htstore])
    simp only [hnone, false_and, if_false, not_false_eq_true, true_implies, false_implies, true_and]
    refine ⟨by simpa using htgroup, by simp [htstore, hactive], fun h => hrecord (by simpa using h), by simp [htstore, htables, hbuffer],
      by simp [htbudget, hbudgets], by simp [htsample, hsample], by simp [htmag, hmag]⟩
  case unit =>
    rw [hstore] at hpend hu
    obtain ⟨hubudget, hustream⟩ := (v.applyGroup.imaged none).unitApplied_effect (nominalFrequency v.unit)
    have htst : t.store = (v.applyGroup.imaged none).store := by rw [htstore]; simp
    obtain ⟨hact, hrec, htab, hbuf, hwrite⟩ := happlied htst
    have htunit : t.unit = (v.applyGroup.imaged none).unit := (State.tables_congr htst).1
    have hlive : (v.applyGroup.imaged none).streamLive = s.streamLive := by simp [State.streamLive, hisample, hsample]
    have hkinds : s.store.buffer.state = .pending ∧ tableKind s.store.buffer.table ≠ .battery := ⟨hpend, by simp [hu]⟩
    rw [hlive, hisample, himag, hvunit] at hustream
    rw [hvunit] at htsample htmag htbudget hubudget
    refine ⟨by simpa using htgroup, by simpa using hact, hrec, fun _ => ⟨htab, hbuf, hwrite⟩, fun h => absurd hkinds h, ?_, ?_⟩
    · rw [if_pos ⟨hkinds, hu⟩]
      have hmin : t.reports.budget = min s.reports.budget (airtimeCeiling t.unit : Int) := by
        rw [htbudget, hubudget, hisame, hbudgets, htunit]
      simpa using hmin
    · simpa [hkinds, hu, htunit, htsample, htmag, hsample, hmag] using hustream
  case protection =>
    rw [hstore] at hpend hu hb
    obtain ⟨hact, hrec, htab, hbuf, hwrite⟩ := happlied htstore
    refine ⟨by simpa using htgroup, by simpa using hact, hrec, fun _ => ⟨htab, hbuf, hwrite⟩, fun h => absurd ⟨hpend, hb⟩ h, ?_, ?_⟩
    · simp [hu, htbudget, hisame, hbudgets]
    · simp [hu, htsample, htmag, hisample, himag, hsample, hmag]

/-! ## The entries (R46, R58) -/

section
variable {s : State}

/-- The controller in LOCKOUT, before what is pending is applied. -/
def State.lockedSeq (s : State) (reason : LockoutReason) : State :=
  s.setSeq { s.seq.timersStopped with state := .lockout, reason := some reason, latched := none }

/-- The controller in IDLE, before what is pending is applied. -/
def State.idleSeq (s : State) : State := s.setSeq { s.seq.timersStopped with state := .idle, s := 0, latched := none }

/-- An entry to LOCKOUT outside IDLE: what is pending, then the report. -/
theorem State.enterLockout_of_ne (reason : LockoutReason) (h : s.seq.state ≠ .idle) :
    s.enterLockout reason =
      (s.lockedSeq reason).applyPending.report 6 (.lockout reason s.seq.s s.governing s.seq.state s.sample.view) := by
  obtain ⟨hseq, -, hview, -⟩ := (s.lockedSeq reason).applyPending_leaves
  rw [State.enterLockout, s.leaveIdle_of_ne h]
  show (s.lockedSeq reason).applyPending.report 6 (.lockout reason (s.lockedSeq reason).applyPending.seq.s s.governing s.seq.state
    (s.lockedSeq reason).applyPending.sample.view) = _
  rw [hseq, hview]
  rfl

/-- An entry to IDLE with the elements QUIET is what is pending, applied. -/
theorem State.enterIdle_of_quiet (h : s.oc.active = false) : s.enterIdle = s.idleSeq.applyPending := by
  have hquiet : s.idleSeq.applyPending.oc.active = false := by
    obtain ⟨-, -, hoc, -⟩ := s.idleSeq.applyPending_frame
    rw [hoc]
    exact h
  rw [State.enterIdle]
  show (if s.idleSeq.applyPending.oc.active then _ else s.idleSeq.applyPending) = _
  rw [if_neg (by rw [hquiet]; decide)]

end

/-- `l` is `s` at an expiry, but for the controller and the queued reports. -/
def AtExpiry (due : Nat) (s l : State) : Prop :=
  l.sample = s.sample ∧ l.mag = s.mag ∧ l.store = s.store ∧ l.reports.budget = s.reports.budget ∧ l.cmd.seconds = s.cmd.seconds ∧ l.oc = s.oc ∧
    l.act = s.act ∧ SamePower s l ∧ l.faults = s.faults ∧ l.tags = s.tags ∧ MovedTo due s l

section
variable {due : Nat} {s l t : State} (h : AtExpiry due s l) (hgroup : l.seq.pendingGroup = s.seq.pendingGroup)
include h hgroup

theorem AtExpiry.afterGroupReport (hreports : l.reports = s.reports) : l.afterGroupReport = s.afterGroupReport := by
  obtain ⟨-, -, hstore, -, hseconds, -⟩ := h
  simp [State.afterGroupReport, hgroup, hstore, hreports, hseconds]

theorem AtExpiry.pendingTaken (htgroup : t.seq.pendingGroup = none) (htstore : t.store = l.applyPending.store)
    (htbudget : t.reports.budget = l.applyPending.reports.budget) (htsample : t.sample = l.applyPending.sample)
    (htmag : t.mag = l.applyPending.mag) : PendingTaken s t.grant := by
  obtain ⟨hsample, hmag, hstore, hreports, -⟩ := h
  exact PendingTaken.of_applyPending hgroup hstore hreports hsample hmag htgroup htstore htbudget htsample htmag

theorem AtExpiry.applyPending_store (hnothing : s.nothingPending) (hnone : s.seq.pendingGroup = none) :
    l.applyPending.store = s.store := by
  obtain ⟨-, -, hstore, -⟩ := h
  rw [l.applyPending_of_nothing (by simpa [State.nothingPending, hstore] using hnothing) (by rw [hgroup, hnone]), hstore]

end

/-- Settles O15: each timer's end, with what is pending applied at the entries. -/
theorem sequenceTimersEnd : Obligations.SequenceTimersEnd := by
  unfold Obligations.SequenceTimersEnd
  refine ⟨fun s c hc hgrant => ?cold, fun s c hc hstate hgrant => ?energy, fun s c hc hstate hquiet hgrant => ?reclaim⟩
  case cold =>
    have hexec : exec .coldLoadTimerExpiry s = .next (s.advanceTo c.due).coldLoadExpiry.grant := by
      simp only [exec, execColdLoadTimerExpiry, hc, onExpiry_some]
    rw [State.grant_at hgrant c.due (by simp [SameArrays])] at hexec
    refine ⟨_, hexec, ?_⟩
    simp [State.coldLoadExpiry, SameDrive, SamePower, SameLogs, SameArrays, MovedTo, State.advanceTo_now]
  case energy =>
    generalize hv : (s.advanceTo c.due).setSeq { s.seq with energyWait := none } = v
    have hvs : v.seq = { s.seq with energyWait := none } ∧ v.sample = s.sample ∧ v.store = s.store := by
      subst hv
      simp
    obtain ⟨hseq, hsample, hstore⟩ := hvs
    have hgov : v.governing = s.governing := (State.governing_congr (by rw [hseq]) hstore).1
    have hlocked := State.enterLockout_of_ne (s := v) .energy (by simp [hseq, hstate])
    generalize hl : v.lockedSeq .energy = l at hlocked
    have hls : l.seq = { s.seq with
        state := .lockout, reason := some .energy, latched := none, dead := none, energyWait := none, reclaim := none } ∧ AtExpiry c.due s l := by
      subst hl hv
      simp [AtExpiry, State.lockedSeq, SequenceController.timersStopped, SamePower, MovedTo, State.advanceTo_now]
    obtain ⟨hlseq, hat⟩ := hls
    have hleave := l.applyPending_leaves
    rw [hlseq] at hleave
    obtain ⟨haseq, habattery, -, b, hareports⟩ := hleave
    have hlreports : l.reports = s.reports := by
      subst hl hv
      simp [State.lockedSeq]
    have hafter := hat.afterGroupReport (by rw [hlseq]) hlreports
    have hexec : exec .energyWaitTimerExpiry s = .next (v.enterLockout .energy).grant := by
      have hend : (s.advanceTo c.due).energyWaitExpiry = v.enterLockout .energy := by simp [State.energyWaitExpiry, hstate, ← hv]
      simp only [exec, execEnergyWaitTimerExpiry, hc, onExpiry_some, hend]
    rw [hlocked] at hexec
    have hstays := hat.applyPending_store (by rw [hlseq])
    have hpending := hat.pendingTaken (t := l.applyPending.report 6 (.lockout .energy v.seq.s v.governing v.seq.state v.sample.view))
      (by rw [hlseq]) (by simp [haseq]) (by simp) (by simp [State.report]) (by simp) (by simp)
    obtain ⟨hlsample, hlmag, hlstore, -, hlseconds, hloc, hlact, ⟨hlsupply, hlbattery⟩, hlfaults, hltags, hlmoved⟩ := hat
    refine ⟨_, hexec, by simp [haseq], hpending, ?_, fun hnothing hgroup => ?_, by simp [hloc], by simp [hlact],
      by simp [SamePower, hlsupply, habattery, hlbattery], by simp [hlfaults], ?_, by simpa [MovedTo] using hlmoved⟩
    · simp [State.report, hareports, ReportQueue.enter_budget, hafter, hgov, hseq, hstate, hsample, hlseconds]
    · have hsame := hstays hnothing hgroup
      rw [State.grant_of_nothing _ (hgrant.of_eq (by simp [hltags]) (by simp [hsame]) (by simp [hsame]) (by simp [hsame]))]
      simp [hsame]
    · exact State.grant_tags_of_nothing hgrant (by simp [hltags]) (by simp [hlstore])
  case reclaim =>
    generalize hv : (s.advanceTo c.due).setSeq { s.seq with reclaim := none } = v
    have hvs : v.seq = { s.seq with reclaim := none } ∧ v.store = s.store ∧ v.reports = s.reports ∧ v.cmd.seconds = s.cmd.seconds := by
      subst hv
      simp
    obtain ⟨hseq, hstore, hreports, hseconds⟩ := hvs
    generalize hw : (if s.seq.reclaimCause = .reclose then v.recloseOk else v) = w
    have hws : w.seq = v.seq ∧ AtExpiry c.due s w := by
      subst hw hv
      split <;> simp [AtExpiry, State.recloseOk, State.report, SamePower, MovedTo, State.advanceTo_now]
    obtain ⟨hwseq, hwat⟩ := hws
    have hwactive : w.oc.active = false := by rw [hwat.2.2.2.2.2.1, hquiet]
    have hreclose : v.recloseOk.reports =
        (s.reports.enter 3 s.cmd.seconds (.recloseOk s.seq.s s.governing (reclaimTime s.governingTable))).1 := by
      obtain ⟨hgov, hgovtable⟩ := State.governing_congr (s := s) (t := v) (by rw [hseq]) hstore
      simp [State.recloseOk, State.report, hgov, hgovtable, hseq, hreports, hseconds]
    have hexec : exec .reclaimTimerExpiry s = .next (w.idleSeq.applyPending).grant := by
      have hend : (s.advanceTo c.due).reclaimExpiry = w.enterIdle := by simp [State.reclaimExpiry, hstate, ← hv, ← hw]
      rw [State.enterIdle_of_quiet hwactive] at hend
      simp only [exec, execReclaimTimerExpiry, hc, onExpiry_some, hend]
    generalize hl : w.idleSeq = l at hexec
    have hls : l.seq = { s.seq with
          state := .idle, s := 0, latched := none, dead := none, energyWait := none, reclaim := none } ∧ l.reports = w.reports := by
      subst hl
      simp [State.idleSeq, SequenceController.timersStopped, hwseq, hseq]
    obtain ⟨hlseq, hlreports⟩ := hls
    have hat : AtExpiry c.due s l := by
      subst hl
      simpa [AtExpiry, State.idleSeq, SamePower, MovedTo] using hwat
    have hleave := l.applyPending_leaves
    rw [hlseq] at hleave
    obtain ⟨haseq, habattery, -, b, hareports⟩ := hleave
    have hpending : PendingTaken s l.applyPending.grant := hat.pendingTaken (by rw [hlseq]) (by simp [haseq]) rfl rfl rfl rfl
    have hstays := hat.applyPending_store (by rw [hlseq])
    obtain ⟨hlsample, hlmag, hlstore, -, hlseconds, hloc, hlact, ⟨hlsupply, hlbattery⟩, hlfaults, hltags, hlmoved⟩ := hat
    refine ⟨_, hexec, by simp [haseq], hpending, fun hcause hgroup => ?_, fun g hcause hgroup => ?_, fun hcause => ?_,
      fun hnothing hgroup => ?_, by simp [hloc], by simp [hlact], by simp [SamePower, hlsupply, habattery, hlbattery], by simp [hlfaults],
      ?_, by simpa [MovedTo] using hlmoved⟩
    · rw [if_pos hcause] at hw
      simp [hareports, State.afterGroupReport, hlseq, hgroup, hlreports, ← hw, hreclose]
    · rw [if_pos hcause] at hw
      simp [hareports, State.afterGroupReport, hlseq, hgroup, hlreports, ← hw, hreclose, hlseconds, hlstore]
    · rw [if_neg hcause] at hw
      simp [hareports, State.afterGroupReport, hlseq, hlreports, ← hw, hreports, hlseconds, hlstore]
    · have hsame := hstays hnothing hgroup
      rw [State.grant_of_nothing _ (hgrant.of_eq (by simp [hltags]) (by simp [hsame]) (by simp [hsame]) (by simp [hsame])), hsame]
    · exact State.grant_tags_of_nothing hgrant (by simp [hltags]) (by simp [hlstore])

end Sys2Proof.Machine
end

