-- ==== Sys2Proof/Proofs/Opens.lean ====
section
/-! OPERATE on an OPEN selection, in every state of the sequence (R62, R178; O51). -/

namespace Sys2Proof.Machine

section
variable {s : State}

/-- An entry to TRIPPING outside IDLE changes the controller alone (R49). -/
theorem State.enterTripping_of_ne (kind : TripKind) (h : s.seq.state ≠ .idle) :
    s.enterTripping kind false = s.setSeq { s.seq.timersStopped with
      latched := some s.governing, state := .tripping, tripKind := kind, tripRequested := false } := by
  rw [State.enterTripping, s.leaveIdle_of_ne h]
  rfl

/-- The mark of a manual trip asked for in CLOSING, with the group that governs latched (R55). -/
def State.tripMarked (s : State) : State :=
  s.setSeq { s.seq with latched := some s.governing, tripRequested := true, tripKind := .manual }

theorem State.tripInClosing_of_unmarked (h : s.seq.tripRequested = false) : s.tripInClosing .manual = s.tripMarked.requestTrip := by
  rw [State.tripInClosing, if_neg (by simp [h])]
  rfl

theorem State.requestTrip_of_close (hlatch : s.act.latch = false) (hclose : s.act.close = true) :
    s.requestTrip = s.setAct { s.act with heldTrip := true } := by
  simp [State.requestTrip, hlatch, hclose]

/-- A trip asked for during a close supervision, the close pulse over, that no view confirms at once (R55, R71). -/
theorem State.requestTrip_of_closeWait (hlatch : s.act.latch = false) (hclose : s.act.close = false) (htrip : s.act.trip = false)
    (hsup : s.act.supervision = .closeWait) (hstate : s.seq.state = .closing) (hkind : s.seq.tripKind = .manual)
    (hview : s.sample.view ≠ .opened ∨ s.streamLive = false) :
    s.requestTrip = ((s.setAct s.trippedAct).pulseStarted).enterTripping .manual false := by
  have hstart : (s.setAct s.trippedAct).pulseStarted.tripStart = (s.setAct s.trippedAct).pulseStarted.enterTripping .manual false := by
    simp [State.tripStart, hstate, hkind]
  have hasked : s.requestTrip = (s.setAct s.trippedAct).pulseStarted.tripStart.tripTest := by
    simp [State.requestTrip, hlatch, hclose, htrip, hsup]
    rfl
  rw [hasked, hstart, State.enterTripping_of_ne _ (by simp [hstate])]
  rcases hview with hview | hstream
  · exact State.tripTest_of_view (by simpa [State.pulseStarted] using hview)
  · exact State.tripTest_of_stream (by simpa [State.pulseStarted, State.streamLive] using hstream)

end

/-- Settles O51, by the state of the sequence. -/
theorem operateOpenTrips : Obligations.OperateOpenTrips := by
  unfold Obligations.OperateOpenTrips
  intro r token s hremote hslot hgrant
  have hexec : exec (.operateOpen r token) s = .next (s.clearSlot.operateOpen r).grant := by
    have hmatch : s.operate r token = s.clearSlot.operateOpen r := State.operate_of_match hremote hslot
    rw [← hmatch]
    rfl
  refine ⟨fun hstate => ?lockout, fun hstate => ?mechFail, fun hstate => ?tripping, fun hstate hgroup hnothing => ?dead,
    fun hstate => ⟨fun hmarked => ?marked, fun hunmarked hlatch hclose => ?held,
      fun hunmarked hlatch hclose htrip hsup hview => ?atOnce⟩,
    fun hstate hlatch htrip hclose hsup hview hnothing => ?closed⟩
  case lockout =>
    have hop : s.clearSlot.operateOpen r = s.clearSlot.respond r .operate .ok [] := by simp [State.operateOpen, State.manualOpen, hstate]
    rw [hop, State.grant_of_arrays hgrant (by simp [SameArrays])] at hexec
    refine ⟨_, hexec, ?_⟩
    simp [State.clearSlot_cmd, Handed, OnlyLinksAndCommand, SamePath, SameDrive, SamePower, SameLogs, SameArrays, SameClock]
  case mechFail =>
    have hop : s.clearSlot.operateOpen r = s.clearSlot.respond r .operate .refusedMech [] := by simp [State.operateOpen, State.manualOpen, hstate]
    rw [hop, State.grant_of_arrays hgrant (by simp [SameArrays])] at hexec
    refine ⟨_, hexec, ?_⟩
    simp [State.clearSlot_cmd, Handed, OnlyLinksAndCommand, SamePath, SameDrive, SamePower, SameLogs, SameArrays, SameClock]
  case tripping =>
    have hop : s.clearSlot.operateOpen r = (s.clearSlot.setSeq { s.seq with tripKind := .manual }).respond r .operate .ok [] := by
      simp [State.operateOpen, State.manualOpen, hstate]
    rw [hop, State.grant_of_arrays hgrant (by simp [SameArrays])] at hexec
    refine ⟨_, hexec, ?_⟩
    simp [State.clearSlot_cmd, Handed, SamePath, SamePower, SameLogs, SameArrays, SameClock]
  case dead =>
    have hop : s.clearSlot.operateOpen r = (s.clearSlot.enterLockout .manual).respond r .operate .ok [] := by
      simp [State.operateOpen, State.manualOpen, hstate]
    have hgov : s.clearSlot.governing = s.governing := (State.governing_congr (by simp) (by simp)).1
    rw [hop, State.enterLockout_of_nothing .manual (by simp [hstate]) (by simpa [State.nothingPending] using hnothing) (by simpa using hgroup),
      State.grant_of_arrays hgrant (by simp [SameArrays])] at hexec
    refine ⟨_, hexec, ?_⟩
    simp [State.clearSlot_cmd, SequenceController.timersStopped, State.report, hgov, hstate, Handed, SamePath, SamePower, SameArrays, SameClock]
  case marked =>
    have hop : s.clearSlot.operateOpen r = (s.clearSlot.setSeq { s.seq with tripKind := .manual }).respond r .operate .ok [] := by
      simp [State.operateOpen, State.manualOpen, State.tripInClosing, hstate, hmarked]
    rw [hop, State.grant_of_arrays hgrant (by simp [SameArrays])] at hexec
    refine ⟨_, hexec, ?_⟩
    simp [State.clearSlot_cmd, Handed, SamePath, SamePower, SameLogs, SameArrays, SameClock]
  case held =>
    have hgov : s.clearSlot.governing = s.governing := (State.governing_congr (by simp) (by simp)).1
    have hop : s.clearSlot.operateOpen r = (s.clearSlot.tripMarked.setAct { s.act with heldTrip := true }).respond r .operate .ok [] := by
      simp [State.operateOpen, State.manualOpen, hstate, State.tripInClosing_of_unmarked, hunmarked,
        State.requestTrip_of_close, State.tripMarked, hlatch, hclose]
    rw [hop, State.grant_of_arrays hgrant (by simp [SameArrays, State.tripMarked])] at hexec
    refine ⟨_, hexec, ?_⟩
    simp [State.clearSlot_cmd, State.tripMarked, hgov, Handed, SamePath, SamePower, SameLogs, SameArrays, SameClock]
  case atOnce =>
    generalize hw : s.clearSlot.tripMarked = w
    have hws : w.seq = { s.seq with latched := some s.governing, tripRequested := true, tripKind := .manual } ∧ w.act = s.act ∧
        w.sample = s.sample ∧ w.store = s.store ∧ w.now = s.now ∧ w.tags = s.tags ∧ w.cmd = { s.cmd with slot := none, selectTimer := none } ∧
        w.links = s.links ∧ w.mag = s.mag ∧ w.oc = s.oc ∧ SamePower s w ∧ SameLogs s w ∧ SameClock s w := by
      subst hw
      simp [State.tripMarked, State.clearSlot_cmd, SamePower, SameLogs, SameClock, (State.governing_congr (s := s) (t := s.clearSlot) (by simp) (by simp)).1]
    obtain ⟨hseq, hact, hsample, hstore, hnow, htags, hcmd, hlinks, hmag, hoc, hpower, hlogs, hclock⟩ := hws
    have hop : s.clearSlot.operateOpen r = (((w.setAct w.trippedAct).pulseStarted).enterTripping .manual false).respond r .operate .ok [] := by
      rw [← State.requestTrip_of_closeWait (s := w) (by simpa [hact] using hlatch) (by simpa [hact] using hclose)
        (by simpa [hact] using htrip) (by simpa [hact] using hsup) (by simp [hseq, hstate]) (by simp [hseq])
        (by simpa [State.streamLive, hsample] using hview), ← hw]
      simp [State.operateOpen, State.manualOpen, hstate, State.tripInClosing_of_unmarked, hunmarked]
    rw [hop, State.enterTripping_of_ne .manual (by simp [hseq, hstate]),
      State.grant_of_arrays hgrant (by simp [SameArrays, State.pulseStarted, hstore, htags])] at hexec
    have hunit : w.unit = s.unit := (State.tables_congr hstore).1
    refine ⟨_, hexec, ?_⟩
    obtain ⟨hsupply, hbattery⟩ := hpower
    obtain ⟨hreports, hfaults⟩ := hlogs
    obtain ⟨-, hnext, hfree, hqueue⟩ := hclock
    simp [State.pulseStarted, State.trippedAct, State.timer, startAt, SequenceController.timersStopped, Handed, SamePower, SameLogs, SameArrays,
      SameClock, State.governing, hseq, hact, hclose, hnow, hunit, hstore, htags, hcmd, hlinks, hmag, hoc, hsupply, hbattery, hreports, hfaults,
      hnext, hfree, hqueue]
  case closed =>
    have hnone : s.clearSlot.nothingPending := by simpa [State.nothingPending] using hnothing
    have hgov : s.clearSlot.governing = s.governing := (State.governing_congr (by simp) (by simp)).1
    have hunit : s.clearSlot.unit = s.unit := (State.tables_congr (by simp)).1
    obtain ⟨heseq, hesample, hemag, hestore⟩ := s.clearSlot.enterTripping_of_nothing .manual false hnone
    have hmanual : s.clearSlot.operateOpen r = (s.clearSlot.tripFor .manual false).respond r .operate .ok [] := by
      rcases hstate with h | h | h | h <;> simp [State.operateOpen, State.manualOpen, h]
    rw [hmanual, State.tripFor_of_clear .manual false hnone (by simpa using hlatch) (by simpa using hclose) (by simpa using htrip) (by simp [hsup])
      (.inl (by simpa using hview)), State.grant_of_arrays hgrant (by simp [SameArrays, State.pulseStarted, hestore])] at hexec
    refine ⟨_, hexec, ?_⟩
    simp [State.clearSlot_cmd, State.pulseStarted, State.trippedAct, State.timer, startAt, SameClock, heseq, hemag, hgov, hunit, hclose]

end Sys2Proof.Machine
end

