-- ==== Sys2Proof/Proofs/Path.lean ====
section
/-! What the sequence and the actuator leave of the sample path while no commit is pending: a run restarts only where a UNIT
table is applied (R9). -/

namespace Sys2Proof.Machine

/-- No commit is pending after; magnitudes and sample path, but for the disagree timer, are the same. -/
structure KeepsPath (s t : State) : Prop where
  pending : t.nothingPending
  mag : t.mag = s.mag
  sample : t.sample.sameBut s.sample

/-- `sameBut` is transitive. -/
theorem SampleInterface.sameBut.trans {a b c : SampleInterface} (h : b.sameBut a) (k : c.sameBut b) : c.sameBut a := by
  obtain ⟨h1, h2, h3, h4, h5, h6, h7, h8, h9⟩ := h
  obtain ⟨k1, k2, k3, k4, k5, k6, k7, k8, k9⟩ := k
  exact ⟨k1.trans h1, k2.trans h2, k3.trans h3, k4.trans h4, k5.trans h5, k6.trans h6, k7.trans h7, k8.trans h8, k9.trans h9⟩

theorem SampleInterface.sameBut.refl (a : SampleInterface) : a.sameBut a := ⟨rfl, rfl, rfl, rfl, rfl, rfl, rfl, rfl, rfl⟩

theorem KeepsPath.trans {s t u : State} (h : KeepsPath s t) (k : KeepsPath t u) : KeepsPath s u :=
  ⟨k.pending, k.mag.trans h.mag, h.sample.trans k.sample⟩

section
variable {s t : State} (h : s.nothingPending)
include h

theorem KeepsPath.of_eq (hbuffer : t.store.buffer = s.store.buffer) (hmag : t.mag = s.mag) (hsample : t.sample = s.sample) : KeepsPath s t :=
  ⟨by rw [State.nothingPending, hbuffer]; exact h, hmag, by rw [hsample]; exact .refl _⟩

theorem KeepsPath.of_sameBut (hbuffer : t.store.buffer = s.store.buffer) (hmag : t.mag = s.mag) (hsample : t.sample.sameBut s.sample) :
    KeepsPath s t :=
  ⟨by rw [State.nothingPending, hbuffer]; exact h, hmag, hsample⟩

theorem KeepsPath.refl : KeepsPath s s := .of_eq h rfl rfl rfl

/-- A continuation under a condition. -/
theorem KeepsPath.andIf {c : Prop} [Decidable c] (k : c → KeepsPath s t) : KeepsPath s (if c then t else s) := by
  split
  · next hc => exact k hc
  · exact .refl h

/-! ## The sequence -/

theorem State.report_keepsPath (cls : Nat) (body : ReportBody) : KeepsPath s (s.report cls body) := .of_eq h rfl rfl rfl

theorem State.leaveIdle_keepsPath : KeepsPath s s.leaveIdle := by
  obtain ⟨hsample, hmag, hstore⟩ := s.leaveIdle_of_nothingPending h
  exact .of_eq h (by rw [hstore]) hmag hsample

theorem State.applyPending_keepsPath : KeepsPath s s.applyPending := by
  obtain ⟨-, -, -, -, hbuffer, -⟩ := s.applyGroup_taken
  rw [s.applyPending_of_none fun hp => h hp.1]
  exact .of_eq h hbuffer (by simp) (by simp)

theorem State.enterLockout_keepsPath (reason : LockoutReason) : KeepsPath s (s.enterLockout reason) :=
  have hleft := State.leaveIdle_keepsPath h
  have hset := hleft.trans (.of_eq (t := s.leaveIdle.setSeq { s.leaveIdle.seq.timersStopped with
    state := .lockout, reason := some reason, latched := none }) hleft.pending rfl rfl rfl)
  have hpend := hset.trans (State.applyPending_keepsPath hset.pending)
  hpend.trans (State.report_keepsPath hpend.pending _ _)

theorem State.enterTiming_keepsPath : KeepsPath s s.enterTiming :=
  have hleft := State.leaveIdle_keepsPath h
  hleft.trans (.of_eq hleft.pending rfl rfl rfl)

theorem State.enterTripping_keepsPath (kind : TripKind) (raise : Bool) : KeepsPath s (s.enterTripping kind raise) :=
  have hleft := State.leaveIdle_keepsPath h
  hleft.trans (.of_eq hleft.pending rfl rfl rfl)

theorem State.faultOpen_keepsPath : KeepsPath s s.faultOpen := .of_eq h (by simp) (by simp) (by simp)

theorem State.faultClose_keepsPath (outcome : FaultOutcome) : KeepsPath s (s.faultClose outcome) := .of_eq h (by simp) (by simp) (by simp)

theorem State.recordOpen_keepsPath : KeepsPath s s.recordOpen := .of_eq h (by simp) (by simp) (by simp)

theorem State.recordClosed_keepsPath (cause : Option CloseCause) : KeepsPath s (s.recordClosed cause) :=
  .of_eq h (by simp) (by simp) (by simp)

theorem State.enterIdle_keepsPath : KeepsPath s s.enterIdle := by
  have hset : KeepsPath s s.idleSeq := .of_eq h rfl rfl rfl
  have hpend := hset.trans (State.applyPending_keepsPath hset.pending)
  have htiming := State.enterTiming_keepsPath hpend.pending
  exact hpend.trans (.andIf hpend.pending fun _ => htiming.trans (State.faultOpen_keepsPath htiming.pending))

/-- The switch recorded open, then LOCKOUT. -/
theorem State.openedLockout_keepsPath (reason : LockoutReason) : KeepsPath s (s.recordOpen.enterLockout reason) :=
  have hopen := State.recordOpen_keepsPath h
  hopen.trans (State.enterLockout_keepsPath hopen.pending reason)

/-- The switch recorded closed, then IDLE. -/
theorem State.closedIdle_keepsPath (cause : Option CloseCause) : KeepsPath s (s.recordClosed cause).enterIdle :=
  have hclosed := State.recordClosed_keepsPath h cause
  hclosed.trans (State.enterIdle_keepsPath hclosed.pending)

theorem State.initTest_keepsPath : KeepsPath s s.initTest := by
  refine .andIf h fun _ => ?_
  split
  · exact State.closedIdle_keepsPath h _
  · exact .andIf h fun _ => State.openedLockout_keepsPath h _

theorem State.mechTest_keepsPath : KeepsPath s s.mechTest := .andIf h fun _ => State.openedLockout_keepsPath h _

theorem State.mechFailure_keepsPath (cause : MechCause) : KeepsPath s (s.mechFailure cause) :=
  have hleft := State.leaveIdle_keepsPath h
  have hset := hleft.trans (.of_eq (t := (s.leaveIdle.setSeq { s.leaveIdle.seq.timersStopped with state := .mechFail, tripRequested := false }).report 7
    (.mech cause s.seq.state s.leaveIdle.seq.s s.leaveIdle.sample.view)) hleft.pending (by simp) (by simp) (by simp))
  have hclosed := hset.trans (State.faultClose_keepsPath hset.pending .mechFail)
  hclosed.trans (State.mechTest_keepsPath hclosed.pending)

theorem State.openConfirm_keepsPath : KeepsPath s s.openConfirm := by
  have hlock : ∀ reason outcome, KeepsPath s ((s.recordOpen.enterLockout reason).faultClose outcome) := fun reason outcome =>
    have hopened := State.openedLockout_keepsPath h reason
    hopened.trans (State.faultClose_keepsPath hopened.pending _)
  refine .andIf h fun _ => ?_
  cases s.seq.tripKind with
  | protection =>
    dsimp only
    split
    · exact hlock _ _
    · split
      · exact .of_eq h (by simp [State.enterDead]) (by simp [State.enterDead]) (by simp [State.enterDead])
      · exact hlock _ _
  | startup => exact State.openedLockout_keepsPath h _
  | manual => exact hlock _ _
  | sensor => exact hlock _ _

theorem State.closeConfirm_keepsPath : KeepsPath s s.closeConfirm := by
  refine .andIf h fun _ => ?_
  cases s.seq.closeKind with
  | reclose =>
    have hreclaim : KeepsPath s ((s.recordClosed (some .reclose)).enterReclaim .reclose) := .of_eq h (by simp) (by simp) (by simp)
    exact hreclaim.trans (.andIf hreclaim.pending fun _ => State.faultOpen_keepsPath hreclaim.pending)
  | manual => exact State.closedIdle_keepsPath h _

theorem State.tripStart_keepsPath : KeepsPath s s.tripStart := by
  unfold State.tripStart
  cases s.seq.state with
  | closing | reclaim | idle | timing => exact State.enterTripping_keepsPath h _ _
  | init | tripping | dead | lockout | mechFail => exact .refl h

/-! ## The actuator -/

theorem State.tripTest_keepsPath : KeepsPath s s.tripTest := by
  refine .andIf h fun _ => ?_
  have hset : KeepsPath s (s.setAct { s.act with confirm := .stopped, supervision := .none, retry := false }) := .of_eq h rfl rfl rfl
  exact hset.trans (State.openConfirm_keepsPath hset.pending)

theorem State.startTrip_keepsPath (reported : Bool) : KeepsPath s (s.startTrip reported) := by
  have hstarted : KeepsPath s (s.setAct s.trippedAct).pulseStarted := .of_sameBut h rfl rfl (State.pulseStarted_sample _)
  have hreported : KeepsPath s (if reported = true then (s.setAct s.trippedAct).pulseStarted.tripStart else (s.setAct s.trippedAct).pulseStarted) :=
    hstarted.trans (.andIf hstarted.pending fun _ => State.tripStart_keepsPath hstarted.pending)
  exact hreported.trans (State.tripTest_keepsPath hreported.pending)

theorem State.requestTrip_keepsPath : KeepsPath s s.requestTrip := by
  unfold State.requestTrip
  split
  · exact State.mechFailure_keepsPath h _
  · split
    · exact .of_eq h rfl rfl rfl
    · split
      · exact .refl h
      · exact State.startTrip_keepsPath h _

theorem State.dropClose_keepsPath : KeepsPath s s.dropClose := .of_sameBut h (by simp) (by simp) s.dropClose_sample

theorem State.startHeld_keepsPath (reported : Bool) : KeepsPath s (s.startHeld reported) :=
  .andIf h fun _ => State.startTrip_keepsPath h _

theorem State.closeTest_keepsPath : KeepsPath s s.closeTest := by
  refine .andIf h fun _ => ?_
  have hset : KeepsPath s (s.setAct { s.act with confirm := .stopped, supervision := .none }) := .of_eq h rfl rfl rfl
  have hdrop := hset.trans (State.dropClose_keepsPath hset.pending)
  have hconfirm := hdrop.trans (State.closeConfirm_keepsPath hdrop.pending)
  exact hconfirm.trans (State.startHeld_keepsPath hconfirm.pending _)

theorem State.confirmTest_keepsPath : KeepsPath s s.confirmTest := by
  unfold State.confirmTest
  cases s.act.supervision with
  | none => exact .refl h
  | tripWait => exact State.tripTest_keepsPath h
  | closeWait => exact State.closeTest_keepsPath h

/-! ## Streams, views and evaluations -/

theorem State.streamChanged_keepsPath : KeepsPath s s.streamChanged :=
  have hinit := State.initTest_keepsPath h
  have hmech := hinit.trans (State.mechTest_keepsPath hinit.pending)
  have hresume := hmech.trans (.of_eq (t := s.sequenceStreamChange.resumeConfirm) hmech.pending rfl rfl rfl)
  hresume.trans (State.confirmTest_keepsPath hresume.pending)

theorem State.externalOpen_keepsPath : KeepsPath s s.externalOpen :=
  have hopened := State.openedLockout_keepsPath h .external
  hopened.trans (State.faultClose_keepsPath hopened.pending _)

theorem State.sequenceViewChange_keepsPath : KeepsPath s s.sequenceViewChange := by
  unfold State.sequenceViewChange
  cases s.seq.state with
  | init => exact State.initTest_keepsPath h
  | idle | timing | reclaim => exact .andIf h fun _ => State.externalOpen_keepsPath h
  | lockout | dead => exact .andIf h fun _ => State.closedIdle_keepsPath h _
  | mechFail => exact State.mechTest_keepsPath h
  | tripping | closing => exact .refl h

theorem State.viewChanged_keepsPath : KeepsPath s s.viewChanged :=
  have hseq := State.sequenceViewChange_keepsPath h
  hseq.trans (State.confirmTest_keepsPath hseq.pending)

theorem State.sequencePickup_keepsPath : KeepsPath s s.sequencePickup := by
  unfold State.sequencePickup
  cases s.seq.state with
  | idle => exact State.enterTiming_keepsPath h
  | reclaim => exact .of_eq h rfl rfl rfl
  | init | timing | tripping | dead | closing | lockout | mechFail => exact .refl h

theorem State.takePickup_keepsPath : KeepsPath s s.takePickup :=
  have hpicked := State.sequencePickup_keepsPath h
  hpicked.trans (.andIf hpicked.pending fun _ => State.faultOpen_keepsPath hpicked.pending)

theorem State.tripFor_keepsPath (kind : TripKind) (raise : Bool) : KeepsPath s (s.tripFor kind raise) :=
  have hentered := State.enterTripping_keepsPath h kind raise
  hentered.trans (State.requestTrip_keepsPath hentered.pending)

theorem State.tripInClosing_keepsPath (kind : TripKind) : KeepsPath s (s.tripInClosing kind) := by
  unfold State.tripInClosing
  split
  · exact .andIf h fun _ => .of_eq h rfl rfl rfl
  · have hmarked : KeepsPath s (s.latch.setSeq { s.latch.seq with tripRequested := true, tripKind := kind }) := .of_eq h rfl rfl rfl
    exact hmarked.trans (State.requestTrip_keepsPath hmarked.pending)

theorem State.sequenceDecision_keepsPath : KeepsPath s s.sequenceDecision := by
  unfold State.sequenceDecision
  cases s.seq.state with
  | idle =>
    have htiming := State.enterTiming_keepsPath h
    exact htiming.trans (State.tripFor_keepsPath htiming.pending _ _)
  | init | timing | reclaim => exact State.tripFor_keepsPath h _ _
  | closing => exact State.tripInClosing_keepsPath h _
  | tripping | dead | lockout | mechFail => exact .refl h

theorem State.coordinationAdvance_keepsPath : KeepsPath s s.coordinationAdvance := by
  have hraised : KeepsPath s (s.setSeq { s.seq with s := s.raised }) := .of_eq h rfl rfl rfl
  have hclosed := hraised.trans (State.faultClose_keepsPath hraised.pending .coordinated)
  exact hclosed.trans (.of_eq hclosed.pending (by simp) (by simp) (by simp))

theorem State.sequenceAllDropped_keepsPath : KeepsPath s s.sequenceAllDropped := by
  unfold State.sequenceAllDropped
  cases s.seq.state with
  | timing =>
    dsimp only
    split
    · exact State.coordinationAdvance_keepsPath h
    · exact State.enterIdle_keepsPath h
  | reclaim =>
    dsimp only
    split
    · exact State.coordinationAdvance_keepsPath h
    · exact .of_eq h rfl rfl rfl
  | init | idle | tripping | dead | closing | lockout | mechFail => exact .refl h

theorem State.takeOutputs_keepsPath (wasActive : Bool) (o : EvalOutput) (m : Summary) : KeepsPath s (s.takeOutputs wasActive o m) := by
  have hpicked : KeepsPath s (if (!wasActive && o.unit.active) = true then s.takePickup else s) := .andIf h fun _ => State.takePickup_keepsPath h
  have hsummary : KeepsPath s ((if (!wasActive && o.unit.active) = true then s.takePickup else s).faultSummary m) :=
    hpicked.trans (.of_eq hpicked.pending (by simp) (by simp) (by simp))
  unfold State.takeOutputs
  dsimp only
  split
  · have hopened := hpicked.trans (.of_eq (t := ((if (!wasActive && o.unit.active) = true then s.takePickup else s).decisionOpens.faultSummary
      m).faultDecision o.elements) hpicked.pending (by simp) (by simp) (by simp))
    exact hopened.trans (State.sequenceDecision_keepsPath hopened.pending)
  · split
    · have hdropped := hsummary.trans (State.sequenceAllDropped_keepsPath hsummary.pending)
      exact hdropped.trans (.of_eq hdropped.pending (by simp) (by simp) (by simp))
    · exact hsummary

theorem State.overcurrent_keepsPath (mags : Currents Nat) (clipped : Currents Bool) : KeepsPath s (s.overcurrent mags clipped) := by
  refine .andIf h fun _ => ?_
  have hset : KeepsPath s (s.setOc (s.oc.evaluate (s.evalInput mags)).unit) := .of_eq h rfl rfl rfl
  exact hset.trans (State.takeOutputs_keepsPath hset.pending _ _ _)

end

end Sys2Proof.Machine
end

