-- ==== Sys2Proof/Proofs/Instants.lean ====
section
/-! One sample instant: what its end makes of the Sample Interface, the magnitudes and the Overcurrent Unit (R1, R5, R15, R20). -/

namespace Sys2Proof.Machine

/-! ## The outputs of an evaluation while the switch does not read open -/

/-- The Overcurrent Unit and the recorded position are the same, and INIT is not entered. -/
structure KeepsSwitch (s t : State) : Prop where
  oc : t.oc = s.oc
  recorded : t.seq.recorded = s.seq.recorded
  init : s.seq.state ≠ .init → t.seq.state ≠ .init

theorem KeepsSwitch.trans {s t u : State} (h : KeepsSwitch s t) (k : KeepsSwitch t u) : KeepsSwitch s u :=
  ⟨k.oc.trans h.oc, k.recorded.trans h.recorded, fun hs => k.init (h.init hs)⟩

theorem KeepsSwitch.of_eq {s t : State} (hoc : t.oc = s.oc) (hseq : t.seq = s.seq) : KeepsSwitch s t :=
  ⟨hoc, by rw [hseq], fun h => by rw [hseq]; exact h⟩

theorem KeepsSwitch.refl (s : State) : KeepsSwitch s s := .of_eq rfl rfl

theorem KeepsSwitch.ite {c : Prop} [Decidable c] {s a b : State} (ha : c → KeepsSwitch s a) (hb : ¬ c → KeepsSwitch s b) :
    KeepsSwitch s (if c then a else b) := by
  split
  · next hc => exact ha hc
  · next hc => exact hb hc

section
variable {s : State}

theorem State.faultOpen_keepsSwitch : KeepsSwitch s s.faultOpen := .of_eq (by simp) (by simp)

theorem State.faultSummary_keepsSwitch (m : Summary) : KeepsSwitch s (s.faultSummary m) := .of_eq (by simp) (by simp)

theorem State.faultAllDropped_keepsSwitch : KeepsSwitch s s.faultAllDropped := .of_eq (by simp) (by simp)

/-- A trip decision told to the Fault Log (R147, R149). -/
def State.decisionTold (s : State) (e : Elements) (m : Summary) : State := (s.decisionOpens.faultSummary m).faultDecision e

theorem State.decisionTold_keepsSwitch (e : Elements) (m : Summary) : KeepsSwitch s (s.decisionTold e m) :=
  .of_eq (by simp [State.decisionTold]) (by simp [State.decisionTold])

theorem State.enterTiming_keepsSwitch : KeepsSwitch s s.enterTiming :=
  ⟨by simp, by simp [State.enterTiming, State.latch], fun _ => by simp [State.enterTiming]⟩

theorem State.enterTripping_keepsSwitch (kind : TripKind) (raise : Bool) : KeepsSwitch s (s.enterTripping kind raise) :=
  ⟨by simp, by simp [State.enterTripping, State.latch, SequenceController.timersStopped], fun _ => by simp [State.enterTripping]⟩

theorem State.sequencePickup_keepsSwitch : KeepsSwitch s s.sequencePickup := by
  unfold State.sequencePickup
  cases s.seq.state with
  | idle => exact State.enterTiming_keepsSwitch
  | reclaim => exact ⟨rfl, rfl, id⟩
  | init | timing | tripping | dead | closing | lockout | mechFail => exact .refl s

theorem State.takePickup_keepsSwitch : KeepsSwitch s s.takePickup :=
  have hpicked := State.sequencePickup_keepsSwitch
  .ite (fun _ => hpicked.trans State.faultOpen_keepsSwitch) fun _ => hpicked

theorem State.enterIdle_keepsSwitch : KeepsSwitch s s.enterIdle := by
  obtain ⟨hseq, -⟩ := s.idleSeq.applyPending_leaves
  obtain ⟨-, -, hoc, -⟩ := s.idleSeq.applyPending_frame
  have hpend : KeepsSwitch s s.idleSeq.applyPending :=
    ⟨hoc, by rw [hseq]; rfl, fun _ => by rw [hseq]; simp [State.idleSeq]⟩
  exact .ite (fun _ => (hpend.trans State.enterTiming_keepsSwitch).trans State.faultOpen_keepsSwitch) fun _ => hpend

theorem State.coordinationAdvance_keepsSwitch : KeepsSwitch s s.coordinationAdvance :=
  ⟨by simp, by simp [State.coordinationAdvance, State.enterReclaim], fun _ => by simp [State.coordinationAdvance, State.enterReclaim]⟩

theorem State.sequenceAllDropped_keepsSwitch : KeepsSwitch s s.sequenceAllDropped := by
  unfold State.sequenceAllDropped
  cases s.seq.state with
  | timing => exact .ite (fun _ => State.coordinationAdvance_keepsSwitch) fun _ => State.enterIdle_keepsSwitch
  | reclaim => exact .ite (fun _ => State.coordinationAdvance_keepsSwitch) fun _ => ⟨rfl, rfl, id⟩
  | init | idle | tripping | dead | closing | lockout | mechFail => exact .refl s

section
variable (h : s.nothingPending) (hview : s.sample.view ≠ .opened)
include hview

theorem State.startTrip_keepsSwitch (reported : Bool) (h : s.nothingPending) : KeepsSwitch s (s.startTrip reported) := by
  have hstarted : KeepsPath s (s.setAct s.trippedAct).pulseStarted := .of_sameBut h rfl rfl (State.pulseStarted_sample _)
  have hswitch : KeepsSwitch s (s.setAct s.trippedAct).pulseStarted := .of_eq rfl rfl
  cases reported with
  | false =>
    show KeepsSwitch s (s.setAct s.trippedAct).pulseStarted.tripTest
    rw [State.tripTest_of_view (by simpa [State.pulseStarted] using hview)]
    exact hswitch
  | true =>
    have hkept := State.tripStart_keepsPath hstarted.pending
    obtain ⟨-, -, -, -, -, -, -, -, hsame⟩ := (hstarted.trans hkept).sample
    show KeepsSwitch s (s.setAct s.trippedAct).pulseStarted.tripStart.tripTest
    rw [State.tripTest_of_view (by rw [hsame]; exact hview)]
    refine hswitch.trans ?_
    unfold State.tripStart
    cases (s.setAct s.trippedAct).pulseStarted.seq.state with
    | closing | reclaim | idle | timing => exact State.enterTripping_keepsSwitch _ _
    | init | tripping | dead | lockout | mechFail => exact .refl _

include h

theorem State.mechFailure_keepsSwitch (cause : MechCause) : KeepsSwitch s (s.mechFailure cause) := by
  obtain ⟨hsample, -⟩ := s.leaveIdle_of_nothingPending h
  rw [State.mechFailure, State.mechTest_of_unsettled (by simp [State.settled, hsample, hview])]
  exact ⟨by simp, by simp [SequenceController.timersStopped], fun _ => by simp⟩

theorem State.requestTrip_keepsSwitch : KeepsSwitch s s.requestTrip :=
  .ite (fun _ => State.mechFailure_keepsSwitch h hview _) fun _ => .ite (fun _ => .of_eq rfl rfl) fun _ =>
    .ite (fun _ => .refl s) fun _ => State.startTrip_keepsSwitch hview _ h

theorem State.tripFor_keepsSwitch (kind : TripKind) (raise : Bool) : KeepsSwitch s (s.tripFor kind raise) := by
  have hkept := State.enterTripping_keepsPath h kind raise
  obtain ⟨-, -, -, -, -, -, -, -, hsame⟩ := hkept.sample
  exact (State.enterTripping_keepsSwitch kind raise).trans
    (State.requestTrip_keepsSwitch hkept.pending (by rw [hsame]; exact hview))

theorem State.tripInClosing_keepsSwitch (kind : TripKind) : KeepsSwitch s (s.tripInClosing kind) := by
  have hmarked : KeepsSwitch s (s.latch.setSeq { s.latch.seq with tripRequested := true, tripKind := kind }) := ⟨rfl, rfl, id⟩
  exact .ite (fun _ => .ite (fun _ => ⟨rfl, rfl, id⟩) fun _ => .refl s) fun _ => hmarked.trans (State.requestTrip_keepsSwitch h hview)

theorem State.sequenceDecision_keepsSwitch : KeepsSwitch s s.sequenceDecision := by
  unfold State.sequenceDecision
  cases s.seq.state with
  | idle =>
    have hkept := State.enterTiming_keepsPath h
    obtain ⟨-, -, -, -, -, -, -, -, hsame⟩ := hkept.sample
    exact State.enterTiming_keepsSwitch.trans (State.tripFor_keepsSwitch hkept.pending (by rw [hsame]; exact hview) _ _)
  | init | timing | reclaim => exact State.tripFor_keepsSwitch h hview _ _
  | closing => exact State.tripInClosing_keepsSwitch h hview _
  | tripping | dead | lockout | mechFail => exact .refl s

theorem State.takeOutputs_keepsSwitch (wasActive : Bool) (o : EvalOutput) (m : Summary) : KeepsSwitch s (s.takeOutputs wasActive o m) := by
  have hpicked : KeepsSwitch s (if (!wasActive && o.unit.active) = true then s.takePickup else s) :=
    .ite (fun _ => State.takePickup_keepsSwitch) fun _ => .refl s
  have hpath : KeepsPath s (if (!wasActive && o.unit.active) = true then s.takePickup else s) := .andIf h fun _ => State.takePickup_keepsPath h
  refine .ite (fun _ => ?_) fun _ => .ite (fun _ => ?_) fun _ => hpicked.trans (State.faultSummary_keepsSwitch m)
  · have htold := hpath.trans (.of_eq (t := (if (!wasActive && o.unit.active) = true then s.takePickup else s).decisionTold o.elements m)
      hpath.pending (by simp [State.decisionTold]) (by simp [State.decisionTold]) (by simp [State.decisionTold]))
    obtain ⟨-, -, -, -, -, -, -, -, hsame⟩ := htold.sample
    exact (hpicked.trans (State.decisionTold_keepsSwitch o.elements m)).trans
      (State.sequenceDecision_keepsSwitch htold.pending (by rw [hsame]; exact hview))
  · exact ((hpicked.trans (State.faultSummary_keepsSwitch m)).trans State.sequenceAllDropped_keepsSwitch).trans State.faultAllDropped_keepsSwitch

end
end

/-! ## Evaluation instants (R15, R16, R20) -/

section
variable {s : State}

@[simp] theorem MagnitudeUnit.evaluated_fields (m : MagnitudeUnit) :
    m.evaluated.windows = m.windows ∧ m.evaluated.sums = m.sums ∧ m.evaluated.mags = m.sums.map magnitude ∧
      m.evaluated.evalCount = m.evalCount + 1 ∧ m.evaluated.clip = .all false := by
  unfold MagnitudeUnit.evaluated
  exact ⟨rfl, rfl, rfl, rfl, rfl⟩

/-- The state with new magnitudes, the METERING frame sent if one is due (R16). -/
def State.measured (s : State) (m : MagnitudeUnit) : State := (s.setMag m).metered

theorem State.evaluate_eq : s.evaluate = (s.measured s.mag.evaluated).overcurrent s.mag.evaluated.mags.currents s.mag.clip := (rfl)

theorem State.measured_mag (m : MagnitudeUnit) : ∃ b, (s.measured m).mag = { m with wholeSecond := b } := by
  unfold State.measured State.metered
  split
  · exact ⟨false, by simp [State.sendMetering]⟩
  · exact ⟨m.wholeSecond, rfl⟩

@[simp] theorem State.measured_unchanged (m : MagnitudeUnit) :
    (s.measured m).sample = s.sample ∧ (s.measured m).oc = s.oc ∧ (s.measured m).seq = s.seq ∧ (s.measured m).act = s.act ∧
      (s.measured m).tags = s.tags ∧ (s.measured m).supply = s.supply ∧ (s.measured m).battery = s.battery ∧
      (s.measured m).reports = s.reports ∧ (s.measured m).faults = s.faults ∧ (s.measured m).store = s.store ∧
      (s.measured m).cmd = s.cmd ∧ (s.measured m).now = s.now := by
  simp [State.measured]

theorem State.evalInput_congr {t : State} (hseq : t.seq = s.seq) (hstore : t.store = s.store) (htags : t.tags = s.tags) (mags : Currents Nat) :
    t.evalInput mags = s.evalInput mags := by
  obtain ⟨-, htable⟩ := State.governing_congr (s := s) (t := t) (by rw [hseq]) hstore
  simp [State.evalInput, State.entryInForce, State.curveTable, State.table, htable, hseq, hstore, htags]

/-- The magnitudes and the Sample Interface after an evaluation (R15, R12). -/
theorem State.evaluate_path (h : s.nothingPending) :
    s.evaluate.nothingPending ∧ s.evaluate.sample.sameBut s.sample ∧ ∃ b, s.evaluate.mag = { s.mag.evaluated with wholeSecond := b } := by
  have hpend : (s.measured s.mag.evaluated).nothingPending := by simpa [State.nothingPending] using h
  have hkept := State.overcurrent_keepsPath hpend s.mag.evaluated.mags.currents s.mag.clip
  rw [← State.evaluate_eq] at hkept
  obtain ⟨b, hmag⟩ := s.measured_mag s.mag.evaluated
  have hsample := hkept.sample
  rw [(s.measured_unchanged s.mag.evaluated).1] at hsample
  exact ⟨hkept.pending, hsample, b, hkept.mag.trans hmag⟩

/-- The Overcurrent Unit after an evaluation with the switch not read open (R20, R41). -/
theorem State.evaluate_oc (h : s.nothingPending) (hview : s.sample.view ≠ .opened) :
    s.evaluate.oc = (if s.supply.restoreMark then s.oc.stepped (s.evalInput s.mag.evaluated.mags.currents) else s.oc) ∧
      s.evaluate.seq.recorded = s.seq.recorded ∧ (s.seq.state ≠ .init → s.evaluate.seq.state ≠ .init) := by
  have hinput := State.evalInput_congr (s := s) (t := s.measured s.mag.evaluated) (by simp) (by simp) (by simp) s.mag.evaluated.mags.currents
  rw [State.evaluate_eq]
  generalize s.mag.evaluated = m at *
  unfold State.overcurrent
  cases hmark : s.supply.restoreMark with
  | false => simp [hmark]
  | true =>
    have hpend : ((s.measured m).setOc (s.oc.stepped (s.evalInput m.mags.currents))).nothingPending := by simpa [State.nothingPending] using h
    have hkept := State.takeOutputs_keepsSwitch hpend (by simpa using hview)
    simp only [State.measured_unchanged, hmark, if_true, hinput]
    obtain ⟨hoc, hrecorded, hinit⟩ := hkept s.oc.active (s.oc.evaluate (s.evalInput m.mags.currents))
      { mags := m.mags.currents, clipped := s.mag.clip, channels := (s.oc.evaluate (s.evalInput m.mags.currents)).channels }
    exact ⟨hoc, hrecorded.trans (by simp), fun hs => hinit (by simpa using hs)⟩

/-! ## The end of an instant (R5) -/

/-- A stream that has become VALID, told to the sequence and the actuator. -/
def State.turnedValid (s : State) : State := (s.setSample { s.sample with stream := .valid, phase := 0 }).streamChanged

theorem State.endInstant_of_short (hrun : ¬ (s.sample.stream = .filling ∧ s.sample.run = 32))
    (hphase : ¬ (s.sample.stream = .valid ∧ s.sample.phase = 0)) : s.endInstant = s := by
  simp [State.endInstant, State.becomeValid, hrun, hphase]

theorem State.endInstant_of_eighth (hstream : s.sample.stream = .valid) (hphase : s.sample.phase = 0) : s.endInstant = s.evaluate := by
  simp [State.endInstant, State.becomeValid, hstream, hphase]

theorem State.turnedValid_keepsPath (h : s.nothingPending) :
    KeepsPath (s.setSample { s.sample with stream := .valid, phase := 0 }) s.turnedValid := State.streamChanged_keepsPath h

theorem State.endInstant_of_full (h : s.nothingPending) (hstream : s.sample.stream = .filling) (hrun : s.sample.run = 32) :
    s.endInstant = s.turnedValid.evaluate := by
  have hbecome : s.becomeValid = s.turnedValid := if_pos ⟨hstream, hrun⟩
  obtain ⟨hvalid, -, -, -, -, hphase, -⟩ := (State.turnedValid_keepsPath h).sample
  rw [State.endInstant, hbecome]
  exact if_pos ⟨hvalid, hphase⟩

/-- An instant is formed from a state: the samples are pushed, the run or the phase is counted. -/
structure InstantFormed (x : Channels Int) (clip : Currents Bool) (s v : State) : Prop where
  pending : v.nothingPending
  mag : v.mag = s.mag.push x clip
  stream : v.sample.stream = s.sample.stream
  run : v.sample.run = s.sample.counted.run
  phase : v.sample.phase = s.sample.counted.phase

/-- An instant has ended: short of an evaluation instant it is only counted; the eighth in VALID and the 32nd of a run are
evaluation instants (R1, R5, R15). -/
structure InstantEnded (x : Channels Int) (s t : State) : Prop where
  pending : t.nothingPending
  windows : t.mag.windows = Channels.zip pushWindow s.mag.windows x
  sums : t.mag.sums = Channels.zip3 pushSum s.mag.sums s.mag.windows x
  valid : s.sample.stream = .valid → s.sample.phase + 1 < 8 →
    t.sample.stream = .valid ∧ t.sample.phase = s.sample.phase + 1 ∧ t.mag.mags = s.mag.mags ∧ t.mag.evalCount = s.mag.evalCount
  filling : s.sample.stream = .filling → s.sample.run + 1 < 32 →
    t.sample.stream = .filling ∧ t.sample.run = s.sample.run + 1 ∧ t.sample.phase = s.sample.phase ∧ t.mag.mags = s.mag.mags ∧
      t.mag.evalCount = s.mag.evalCount
  evaluated : (s.sample.stream = .valid ∧ s.sample.phase + 1 = 8 ∨ s.sample.stream = .filling ∧ s.sample.run + 1 = 32) →
    t.sample.stream = .valid ∧ t.sample.phase = 0 ∧ t.mag.mags = t.mag.sums.map magnitude ∧ t.mag.evalCount = s.mag.evalCount + 1 ∧
      t.mag.clip = .all false

theorem SampleInterface.counted_of_valid {a : SampleInterface} (h : a.stream = .valid) : a.counted = { a with phase := (a.phase + 1) % 8 } := by
  simp [SampleInterface.counted, h]

theorem SampleInterface.counted_of_filling {a : SampleInterface} (h : a.stream = .filling) : a.counted = { a with run := a.run + 1 } := by
  simp [SampleInterface.counted, h]

/-- What an end of an instant keeps, whatever it is. -/
theorem State.endInstant_path (h : s.nothingPending) :
    s.endInstant.nothingPending ∧ s.endInstant.mag.windows = s.mag.windows ∧ s.endInstant.mag.sums = s.mag.sums ∧
      s.endInstant.sample.expected = s.sample.expected ∧ s.endInstant.sample.last = s.sample.last ∧
      s.endInstant.sample.lastStatus = s.sample.lastStatus ∧ s.endInstant.sample.absence = s.sample.absence ∧
      s.endInstant.sample.sensorLoss = s.sample.sensorLoss ∧ s.endInstant.sample.view = s.sample.view := by
  by_cases hfull : s.sample.stream = .filling ∧ s.sample.run = 32
  · obtain ⟨hpend, hmag, -, hexpected, hlast, hstatus, -, -, habsence, hloss, hview⟩ := State.turnedValid_keepsPath h
    obtain ⟨hdone, ⟨-, kexpected, klast, kstatus, -, -, kabsence, kloss, kview⟩, b, hevaluated⟩ := State.evaluate_path hpend
    rw [State.endInstant_of_full h hfull.1 hfull.2]
    exact ⟨hdone, by simp [hevaluated, hmag], by simp [hevaluated, hmag], kexpected.trans hexpected, klast.trans hlast, kstatus.trans hstatus,
      kabsence.trans habsence, kloss.trans hloss, kview.trans hview⟩
  · by_cases heighth : s.sample.stream = .valid ∧ s.sample.phase = 0
    · obtain ⟨hdone, ⟨-, kexpected, klast, kstatus, -, -, kabsence, kloss, kview⟩, b, hevaluated⟩ := State.evaluate_path h
      rw [State.endInstant_of_eighth heighth.1 heighth.2]
      exact ⟨hdone, by simp [hevaluated], by simp [hevaluated], kexpected, klast, kstatus, kabsence, kloss, kview⟩
    · rw [State.endInstant_of_short hfull heighth]
      exact ⟨h, rfl, rfl, rfl, rfl, rfl, rfl, rfl, rfl⟩

/-- The end of a formed instant. -/
theorem InstantFormed.ended {x : Channels Int} {clip : Currents Bool} {v : State} (h : InstantFormed x clip s v) :
    InstantEnded x s v.endInstant := by
  obtain ⟨hpend, hwindows, hsums, -⟩ := State.endInstant_path h.pending
  have hmags : v.mag.mags = s.mag.mags := by rw [h.mag]; rfl
  have hcounts : v.mag.evalCount = s.mag.evalCount := by rw [h.mag]; rfl
  refine ⟨hpend, by rw [hwindows, h.mag]; rfl, by rw [hsums, h.mag]; rfl, fun hstream hphase => ?_, fun hstream hrun => ?_, fun hfull => ?_⟩
  · have hcount := h.phase
    rw [SampleInterface.counted_of_valid hstream] at hcount
    have hvphase : v.sample.phase = s.sample.phase + 1 := hcount.trans (Nat.mod_eq_of_lt hphase)
    rw [State.endInstant_of_short (by simp [h.stream, hstream]) (by simp [hvphase])]
    exact ⟨h.stream.trans hstream, hvphase, hmags, hcounts⟩
  · have hcount := h.run
    have hphase := h.phase
    rw [SampleInterface.counted_of_filling hstream] at hcount hphase
    have hvrun : v.sample.run = s.sample.run + 1 := hcount
    rw [State.endInstant_of_short (by rw [hvrun]; exact fun hf => absurd hf.2 (by omega)) (by simp [h.stream, hstream])]
    exact ⟨h.stream.trans hstream, hvrun, hphase, hmags, hcounts⟩
  · rcases hfull with ⟨hstream, hphase⟩ | ⟨hstream, hrun⟩
    · have hcount := h.phase
      rw [SampleInterface.counted_of_valid hstream] at hcount
      have hvphase : v.sample.phase = 0 := by rw [hcount, hphase]
      obtain ⟨-, ⟨kstream, -, -, -, -, kphase, -⟩, b, hevaluated⟩ := State.evaluate_path h.pending
      rw [State.endInstant_of_eighth (h.stream.trans hstream) hvphase]
      exact ⟨kstream.trans (h.stream.trans hstream), kphase.trans hvphase, by simp [hevaluated], by simp [hevaluated, hcounts],
        by simp [hevaluated]⟩
    · have hcount := h.run
      rw [SampleInterface.counted_of_filling hstream] at hcount
      have hvrun : v.sample.run = 32 := by rw [hcount, ← hrun]
      obtain ⟨hvalid, hmag, hvstream, -, -, -, -, hvphase, -⟩ := State.turnedValid_keepsPath h.pending
      obtain ⟨-, ⟨kstream, -, -, -, -, kphase, -⟩, b, hevaluated⟩ := State.evaluate_path hvalid
      rw [State.endInstant_of_full h.pending (h.stream.trans hstream) hvrun]
      exact ⟨kstream.trans hvstream, kphase.trans hvphase, by simp [hevaluated], by simp [hevaluated, hmag, hcounts], by simp [hevaluated]⟩

end

end Sys2Proof.Machine
end

