-- ==== Sys2Proof/Proofs/Frames.lean ====
section
/-! SAMPLE frames: a new run, an evaluation instant, and gaps that are filled (O3, O4, O5). -/

namespace Sys2Proof.Machine

section
variable {s : State} (f : SampleFrame)

/-! ## An accepted frame (R1, R10) -/

/-- The state after a frame's values, its instant and its view are taken. -/
def State.frameRead (s : State) (f : SampleFrame) (prior : StreamState) : State :=
  ((s.takeFrame f).formInstant (frameSamples f) (sampleStatus f.status).clip).readView f (decide (prior = .stale))

/-- What the frame itself sets of the Sample Interface. -/
structure FrameTaken (f : SampleFrame) (s t : State) : Prop where
  expected : t.sample.expected = some (f.seq + 1)
  last : t.sample.last = frameSamples f
  lastStatus : t.sample.lastStatus = some (sampleStatus f.status)
  absence : t.sample.absence = startAt s.now 5
  sensorLoss : t.sample.sensorLoss = s.sample.sensorLoss
  view : t.sample.view = nextView s.sample.view (rawPosition (sampleStatus f.status))

theorem SampleInterface.counted_fields (a : SampleInterface) :
    a.counted.stream = a.stream ∧ a.counted.expected = a.expected ∧ a.counted.last = a.last ∧ a.counted.lastStatus = a.lastStatus ∧
      a.counted.absence = a.absence ∧ a.counted.sensorLoss = a.sensorLoss ∧ a.counted.view = a.view := by
  unfold SampleInterface.counted
  cases h : a.stream <;> simp [h]

/-- Counting looks at the stream, the run and the phase alone. -/
theorem SampleInterface.counted_congr {a b : SampleInterface} (hstream : a.stream = b.stream) (hrun : a.run = b.run) (hphase : a.phase = b.phase) :
    a.counted.run = b.counted.run ∧ a.counted.phase = b.counted.phase := by
  unfold SampleInterface.counted
  rw [hstream]
  cases b.stream <;> simp [hrun, hphase]

theorem State.frameRead_unchanged (prior : StreamState) :
    (s.frameRead f prior).oc = s.oc ∧ (s.frameRead f prior).seq = s.seq ∧ (s.frameRead f prior).act = s.act ∧
      (s.frameRead f prior).tags = s.tags ∧ (s.frameRead f prior).supply = s.supply ∧ (s.frameRead f prior).battery = s.battery ∧
      (s.frameRead f prior).reports = s.reports ∧ (s.frameRead f prior).faults = s.faults ∧ (s.frameRead f prior).store = s.store ∧
      (s.frameRead f prior).cmd = s.cmd ∧ (s.frameRead f prior).links = s.links ∧ (s.frameRead f prior).now = s.now ∧
      (s.frameRead f prior).nextSecond = s.nextSecond ∧ (s.frameRead f prior).free = s.free ∧ (s.frameRead f prior).pending = s.pending := by
  simp [State.frameRead]

theorem State.frameRead_formed (prior : StreamState) (h : s.nothingPending) :
    InstantFormed (frameSamples f) (sampleStatus f.status).clip s (s.frameRead f prior) ∧ FrameTaken f s (s.frameRead f prior) := by
  obtain ⟨hstream, hexpected, hlast, hstatus, habsence, hloss, hview⟩ := (s.takeFrame f).sample.counted_fields
  obtain ⟨hrun, hphase⟩ := SampleInterface.counted_congr (a := (s.takeFrame f).sample) (b := s.sample) rfl rfl rfl
  refine ⟨⟨by simpa [State.nothingPending, State.frameRead] using h, by simp [State.frameRead, State.formInstant], ?_, ?_, ?_⟩,
    ⟨?_, ?_, ?_, ?_, ?_, ?_⟩⟩
  · exact hstream
  · exact hrun
  · exact hphase
  · exact hexpected
  · exact hlast
  · exact hstatus
  · exact habsence
  · exact hloss
  · show nextView (s.takeFrame f).sample.counted.view _ = _
    rw [hview]
    rfl

/-- What a stream or view change keeps of a formed instant. -/
theorem InstantFormed.kept {x : Channels Int} {clip : Currents Bool} {v w : State} (h : InstantFormed x clip s v) (k : KeepsPath v w) :
    InstantFormed x clip s w := by
  obtain ⟨hstream, -, -, -, hrun, hphase, -⟩ := k.sample
  exact ⟨k.pending, k.mag.trans h.mag, hstream.trans h.stream, hrun.trans h.run, hphase.trans h.phase⟩

theorem FrameTaken.kept {v w : State} (h : FrameTaken f s v) (k : KeepsPath v w) : FrameTaken f s w := by
  obtain ⟨-, hexpected, hlast, hstatus, -, -, habsence, hloss, hview⟩ := k.sample
  exact ⟨hexpected.trans h.expected, hlast.trans h.last, hstatus.trans h.lastStatus, habsence.trans h.absence, hloss.trans h.sensorLoss,
    hview.trans h.view⟩

theorem FrameTaken.ended {v : State} (h : FrameTaken f s v) (hpend : v.nothingPending) : FrameTaken f s v.endInstant := by
  obtain ⟨-, -, -, hexpected, hlast, hstatus, habsence, hloss, hview⟩ := State.endInstant_path hpend
  exact ⟨hexpected.trans h.expected, hlast.trans h.last, hstatus.trans h.lastStatus, habsence.trans h.absence, hloss.trans h.sensorLoss,
    hview.trans h.view⟩

theorem State.frameRead_view (prior : StreamState) :
    (s.frameRead f prior).sample.view = nextView s.sample.view (rawPosition (sampleStatus f.status)) := by
  obtain ⟨-, -, -, -, -, -, hview⟩ := (s.takeFrame f).sample.counted_fields
  show nextView (s.takeFrame f).sample.counted.view _ = _
  rw [hview]
  rfl

theorem State.formed_view : ((s.takeFrame f).formInstant (frameSamples f) (sampleStatus f.status).clip).sample.view = s.sample.view := by
  obtain ⟨-, -, -, -, -, -, hview⟩ := (s.takeFrame f).sample.counted_fields
  exact hview

/-- A frame that continues a run, before its instant ends: the view change is told. -/
def State.frameTold (s : State) (f : SampleFrame) (prior : StreamState) : State :=
  if nextView s.sample.view (rawPosition (sampleStatus f.status)) ≠ s.sample.view then (s.frameRead f prior).viewChanged else s.frameRead f prior

theorem State.acceptFrame_eq (prior : StreamState) : s.acceptFrame f prior false = (s.frameTold f prior).endInstant := by
  unfold State.frameTold
  rw [← s.frameRead_view f prior, ← s.formed_view f]
  rfl

theorem State.frameTold_formed (prior : StreamState) (h : s.nothingPending) :
    InstantFormed (frameSamples f) (sampleStatus f.status).clip s (s.frameTold f prior) ∧ FrameTaken f s (s.frameTold f prior) := by
  obtain ⟨hformed, htaken⟩ := s.frameRead_formed f prior h
  have hkept : KeepsPath (s.frameRead f prior) (s.frameTold f prior) :=
    .andIf hformed.pending fun _ => State.viewChanged_keepsPath hformed.pending
  exact ⟨hformed.kept hkept, htaken.kept f hkept⟩

end

/-! ## The frames that are checked (R3) -/

section
variable {s : State} {f : SampleFrame}

theorem State.takeSample_of_inOrder (hlive : s.sample.stream = .filling ∨ s.sample.stream = .valid) (hexpected : s.sample.expected = some f.seq) :
    s.takeSample f = (s.frameTold f s.sample.stream).endInstant := by
  rw [← State.acceptFrame_eq]
  rcases hlive with h | h <;> simp [State.takeSample, h, hexpected, State.checkedFrame, seqDelta]

theorem State.takeSample_of_gap {e : Byte} (hlive : s.sample.stream = .filling ∨ s.sample.stream = .valid) (hexpected : s.sample.expected = some e) :
    s.takeSample f = s.checkedFrame f (seqDelta f.seq e) := by
  rcases hlive with h | h <;> simp [State.takeSample, h, hexpected]

theorem exec_sampleFrame : exec (.sampleFrame f) s = .next (s.takeSample f).grant := (rfl)

/-- What no SAMPLE frame touches. -/
theorem takeSample_grant_unchanged :
    (s.takeSample f).grant.supply = s.supply ∧ (s.takeSample f).grant.cmd = s.cmd ∧ SameClock s (s.takeSample f).grant := by
  simp [SameClock]

end

/-! ## A new run (R2, R3) -/

section
variable {s : State} (f : SampleFrame)

/-- A frame that starts a run, before its instant ends: the stream change is told, then the view change. -/
def State.runTold (s : State) (f : SampleFrame) (prior : StreamState) : State :=
  let v := s.beginRun.frameRead f prior
  let w := if prior ≠ .filling then v.streamChanged else v
  if nextView s.sample.view (rawPosition (sampleStatus f.status)) ≠ s.sample.view then w.viewChanged else w

theorem State.newRunFrame_eq : s.newRunFrame f = (s.runTold f s.sample.stream).endInstant := by
  have hview := s.beginRun.frameRead_view f s.sample.stream
  have hbefore := s.beginRun.formed_view f
  rw [show s.beginRun.sample.view = s.sample.view from rfl] at hview hbefore
  unfold State.runTold State.newRunFrame State.acceptFrame
  rw [← hview, ← hbefore]
  simp only [true_and]
  rfl

theorem State.runTold_formed (prior : StreamState) (h : s.nothingPending) :
    InstantFormed (frameSamples f) (sampleStatus f.status).clip s.beginRun (s.runTold f prior) ∧ FrameTaken f s.beginRun (s.runTold f prior) := by
  obtain ⟨hformed, htaken⟩ := s.beginRun.frameRead_formed f prior h
  have hstream : KeepsPath (s.beginRun.frameRead f prior)
      (if prior ≠ .filling then (s.beginRun.frameRead f prior).streamChanged else s.beginRun.frameRead f prior) :=
    .andIf hformed.pending fun _ => State.streamChanged_keepsPath hformed.pending
  have hkept : KeepsPath (s.beginRun.frameRead f prior) (s.runTold f prior) :=
    hstream.trans (.andIf hstream.pending fun _ => State.viewChanged_keepsPath hstream.pending)
  exact ⟨hformed.kept hkept, htaken.kept f hkept⟩

theorem State.takeSample_of_newRun (hnew : s.sample.stream = .absent ∨ s.sample.stream = .stale ∨
    (s.sample.stream = .filling ∨ s.sample.stream = .valid) ∧
      ∃ e, s.sample.expected = some e ∧ 4 ≤ seqDelta f.seq e ∧ seqDelta f.seq e ≤ 127) : s.takeSample f = s.newRunFrame f := by
  rcases hnew with h | h | ⟨hlive, e, hexpected, hleast, hmost⟩
  · simp [State.takeSample, h]
  · simp [State.takeSample, h]
  · rw [State.takeSample_of_gap hlive hexpected, State.checkedFrame, if_neg (by omega), if_neg (by omega), if_pos hmost]

end

/-- One sample in a cleared window. -/
theorem pushed_cleared (x : Int) : pushWindow emptyWindow x = x :: List.replicate 31 0 ∧ pushSum 0 emptyWindow x = square x := by
  refine ⟨rfl, ?_⟩
  simp [pushSum, emptyWindow, square]

/-- Settles O3: the run begins with its first instant, short of the 32nd. -/
theorem sampleFrameStartsRun : Obligations.SampleFrameStartsRun := by
  unfold Obligations.SampleFrameStartsRun
  intro f s hnew hnothing
  obtain ⟨hformed, htaken⟩ := s.runTold_formed f s.sample.stream hnothing
  have hstream : (s.runTold f s.sample.stream).sample.stream = .filling := hformed.stream
  have hrun : (s.runTold f s.sample.stream).sample.run = 1 := hformed.run
  have hphase : (s.runTold f s.sample.stream).sample.phase = s.sample.phase := hformed.phase
  have htake : s.takeSample f = s.runTold f s.sample.stream := by
    rw [State.takeSample_of_newRun f hnew, State.newRunFrame_eq,
      State.endInstant_of_short (by simp [hrun]) (by simp [hstream])]
  obtain ⟨hsupply, hcmd, hclock⟩ := takeSample_grant_unchanged (s := s) (f := f)
  refine ⟨_, exec_sampleFrame, ?_⟩
  rw [htake] at *
  have hsample : (s.runTold f s.sample.stream).grant.sample = (s.runTold f s.sample.stream).sample := by simp
  have hmag : (s.runTold f s.sample.stream).grant.mag = s.beginRun.mag.push (frameSamples f) (sampleStatus f.status).clip := by
    simp [hformed.mag]
  rw [hsample, hmag]
  refine ⟨hstream, hrun, hphase, htaken.expected, htaken.last, htaken.lastStatus, htaken.absence, htaken.sensorLoss, htaken.view, ?_, ?_, ?_,
    rfl, rfl, hsupply, hcmd, hclock⟩
  · simp [MagnitudeUnit.push, State.beginRun, MagnitudeUnit.cleared, Channels.zip, Channels.map, Channels.all, pushed_cleared]
  · simp [MagnitudeUnit.push, State.beginRun, MagnitudeUnit.cleared, Channels.zip3, Channels.map, Channels.all, pushed_cleared]
  · simp [MagnitudeUnit.push, State.beginRun, MagnitudeUnit.cleared, Currents.zip, Currents.all]

end Sys2Proof.Machine
end

