-- ==== Sys2Proof/Proofs/Evaluations.lean ====
section
/-! Evaluation instants, at an in-order frame and among filled ones (O4, O5). -/

namespace Sys2Proof.Machine

section
variable {s : State} {f : SampleFrame}

/-! ## A view that the frame does not change -/

theorem State.frameTold_of_same (prior : StreamState) (h : nextView s.sample.view (rawPosition (sampleStatus f.status)) = s.sample.view) :
    s.frameTold f prior = s.frameRead f prior := by
  simp [State.frameTold, h]

theorem nextView_of_clean {v : View} {p : Recorded} (h : (p = .closed ∧ v = .closed) ∨ (p = .opened ∧ v = .opened)) :
    nextView v (some p) = v := by
  rcases h with ⟨rfl, rfl⟩ | ⟨rfl, rfl⟩ <;> rfl

/-- The Overcurrent Unit at an evaluation in a state that has only taken frames since `s`, with the switch read closed (R20, R41). -/
theorem State.evaluate_oc_of_quiet {v : State} (h : v.nothingPending) (hview : v.sample.view = .closed) (hoc : v.oc = s.oc) (hseq : v.seq = s.seq)
    (hstore : v.store = s.store) (htags : v.tags = s.tags) (hsupply : v.supply = s.supply) :
    v.evaluate.oc = if s.supply.restoreMark then s.oc.stepped (s.evalInput v.evaluate.mag.mags.currents) else s.oc := by
  obtain ⟨hunit, -⟩ := State.evaluate_oc h (by simp [hview])
  obtain ⟨-, -, b, hmag⟩ := State.evaluate_path h
  have hmags : v.evaluate.mag.mags = v.mag.evaluated.mags := by rw [hmag]
  rw [hunit, hmags, hoc, hsupply, State.evalInput_congr hseq hstore htags]

/-! ## The passage out of INIT at a stream that becomes VALID (R45) -/

theorem State.enterIdle_seq :
    s.enterIdle.seq.state = (if s.oc.active then .timing else .idle) ∧ s.enterIdle.seq.recorded = s.seq.recorded := by
  obtain ⟨hseq, -⟩ := s.idleSeq.applyPending_leaves
  obtain ⟨-, -, hoc, -⟩ := s.idleSeq.applyPending_frame
  have hactive : s.idleSeq.applyPending.oc.active = s.oc.active := by rw [hoc]; rfl
  have hunfold : s.enterIdle = if s.oc.active then s.idleSeq.applyPending.enterTiming.faultOpen else s.idleSeq.applyPending := by
    rw [← hactive]
    rfl
  have hrest : s.idleSeq.applyPending.seq.state = .idle ∧ s.idleSeq.applyPending.seq.recorded = s.seq.recorded := by
    rw [hseq]
    exact ⟨rfl, rfl⟩
  rw [hunfold]
  generalize s.idleSeq.applyPending = w at hrest
  cases s.oc.active with
  | true => simp [State.enterTiming, State.latch, hrest]
  | false => simp [hrest]

theorem State.enterLockout_recorded (reason : LockoutReason) : (s.enterLockout reason).seq.recorded = s.seq.recorded := by
  obtain ⟨hseq, -⟩ := (s.leaveIdle.setSeq { s.leaveIdle.seq.timersStopped with
    state := .lockout, reason := some reason, latched := none }).applyPending_leaves
  rw [State.enterLockout]
  simp only [State.report_frame, hseq]
  simp [SequenceController.timersStopped]

theorem State.recordClosed_recorded (cause : Option CloseCause) : (s.recordClosed cause).seq.recorded = some .closed := by
  unfold State.recordClosed
  split
  · assumption
  · cases cause <;> simp [State.closeNotice]

theorem State.turnedValid_of_init (hstate : s.seq.state = .init) (hmark : s.supply.restoreMark = true) (hsup : s.act.supervision = .none) :
    (s.sample.view = .closed → s.turnedValid.seq.state ≠ .init ∧ s.turnedValid.seq.recorded = some .closed) ∧
    (s.sample.view = .opened → LockedOut .restart s s.turnedValid ∧ s.turnedValid.seq.recorded = some .opened) := by
  generalize hv : s.setSample { s.sample with stream := .valid, phase := 0 } = v
  have hvs : v.seq = s.seq ∧ v.supply = s.supply ∧ v.act = s.act ∧ v.sample.view = s.sample.view ∧ v.sample.stream = .valid := by
    subst hv; simp
  obtain ⟨hseq, hsupply, hact, hview, hstream⟩ := hvs
  have hturned : s.turnedValid.seq = v.initTest.mechTest.seq := by
    have hsettled : s.turnedValid = v.initTest.mechTest.resumeConfirm := by
      rw [State.turnedValid, hv, State.streamChanged, State.confirmTest_of_none]
      · rfl
      · simp [State.resumeConfirm, hact, hsup]
    rw [hsettled]
    simp [State.resumeConfirm]
  have hinit : v.initTest = if v.settled .closed then (v.recordClosed none).enterIdle
      else if v.settled .opened then v.recordOpen.enterLockout .restart else v := if_pos ⟨by rw [hseq]; exact hstate, by rw [hsupply]; exact hmark⟩
  refine ⟨fun hclosed => ?_, fun hopened => ?_⟩
  · rw [if_pos (by simp [State.settled, hview, hclosed, hstream])] at hinit
    obtain ⟨hidle, hrecorded⟩ := (v.recordClosed none).enterIdle_seq
    have hleft : v.initTest.seq.state ≠ .init ∧ v.initTest.seq.state ≠ .mechFail := by
      rw [hinit, hidle]
      split <;> simp
    rw [hturned, State.mechTest_of_ne hleft.2]
    exact ⟨hleft.1, by rw [hinit, hrecorded, State.recordClosed_recorded]⟩
  · rw [if_neg (by simp [State.settled, hview, hopened]), if_pos (by simp [State.settled, hview, hopened, hstream])] at hinit
    obtain ⟨hlocked, hreason, hlatched, hdead, hwait, hreclaim, hs⟩ := v.recordOpen.enterLockout_lockedOut .restart
    have hmech : s.turnedValid.seq = (v.recordOpen.enterLockout .restart).seq := by
      rw [hturned, State.mechTest_of_ne (by rw [hinit, hlocked]; decide), hinit]
    rw [LockedOut, hmech]
    refine ⟨⟨hlocked, hreason, hlatched, hdead, hwait, hreclaim, hs.trans ?_⟩, ?_⟩
    · rw [v.recordOpen_seq.2.2.1, hseq]
    · rw [State.enterLockout_recorded, (v.recordOpen_recorded).1]

theorem State.takeOutputs_seq_of_lockout (h : s.seq.state = .lockout) (wasActive : Bool) (o : EvalOutput) (m : Summary) :
    (s.takeOutputs wasActive o m).seq = s.seq := by
  have hpicked : (if (!wasActive && o.unit.active) = true then s.takePickup else s) = s := by
    split
    · simp [State.takePickup, State.sequencePickup, h]
    · rfl
  unfold State.takeOutputs
  rw [hpicked]
  dsimp only
  split
  · simp [State.sequenceDecision, h]
  · split
    · simp [State.sequenceAllDropped, h]
    · simp

theorem State.overcurrent_seq_of_lockout (h : s.seq.state = .lockout) (mags : Currents Nat) (clip : Currents Bool) :
    (s.overcurrent mags clip).seq = s.seq := by
  unfold State.overcurrent
  split
  · have hset : (s.setOc (s.oc.evaluate (s.evalInput mags)).unit).seq.state = .lockout := h
    exact State.takeOutputs_seq_of_lockout hset _ _ _
  · rfl

/-- In LOCKOUT the outputs of an evaluation leave the sequence (R39, R46, R47, R48). -/
theorem State.evaluate_seq_of_lockout (h : s.seq.state = .lockout) : s.evaluate.seq = s.seq := by
  have hseq : (s.measured s.mag.evaluated).seq = s.seq := by simp
  rw [State.evaluate_eq, State.overcurrent_seq_of_lockout (by rw [hseq]; exact h), hseq]

end

/-- Settles O4: the instant's end, with the stream's change to VALID before the evaluation. -/
theorem evaluationInstant : Obligations.EvaluationInstant := by
  unfold Obligations.EvaluationInstant
  intro f s hfull hexpected hnothing
  have hlive : s.sample.stream = .filling ∨ s.sample.stream = .valid := hfull.imp And.left And.left
  obtain ⟨hformed, htaken⟩ := s.frameTold_formed f s.sample.stream hnothing
  obtain ⟨hpend, hwindows, hsums, -, -, hevaluated⟩ := hformed.ended
  obtain ⟨hstream, hphase, hmags, hcount, hclip⟩ := hevaluated (by
    rcases hfull with ⟨hs, hr⟩ | ⟨hs, hp⟩
    · exact .inr ⟨hs, by omega⟩
    · exact .inl ⟨hs, by omega⟩)
  have hended := htaken.ended f hformed.pending
  obtain ⟨hsupply, hcmd, hclock⟩ := takeSample_grant_unchanged (s := s) (f := f)
  have htake := State.takeSample_of_inOrder (f := f) hlive hexpected
  obtain ⟨hroc, hrseq, hract, hrtags, hrsupply, -, -, -, hrstore, -⟩ := s.frameRead_unchanged f s.sample.stream
  obtain ⟨hread, -⟩ := s.frameRead_formed f s.sample.stream hnothing
  refine ⟨_, exec_sampleFrame, ?_⟩
  rw [htake] at hsupply hcmd hclock ⊢
  generalize ht : (s.frameTold f s.sample.stream).endInstant = t at *
  have hmag : t.grant.mag = t.mag := by simp
  have hsample : t.grant.sample = t.sample := by simp
  have hoc : t.grant.oc = t.oc := by simp
  have hseq : t.grant.seq = t.seq := by simp
  rw [LockedOut, hmag, hsample, hoc, hseq]
  refine ⟨hstream, hphase, hended.expected, hwindows, hsums, hmags.trans (by rw [hsums]), hcount, hclip, fun hvalid hclosed hraw => ?_,
    fun hfilling hinit hmark hgroup hsup => ?_, hsupply, hcmd, hclock⟩
  · have hread0 : (s.frameRead f s.sample.stream).sample.phase = 0 := by
      rcases hfull with ⟨hs, -⟩ | ⟨-, hp⟩
      · simp [hs] at hvalid
      · rw [hread.phase, SampleInterface.counted_of_valid hvalid, hp]
    have hview := s.frameRead_view f s.sample.stream
    rw [hraw, nextView_of_clean (.inl ⟨rfl, hclosed⟩)] at hview
    rw [State.frameTold_of_same _ (by rw [hraw, nextView_of_clean (.inl ⟨rfl, hclosed⟩)]),
      State.endInstant_of_eighth (hread.stream.trans hvalid) hread0] at ht
    rw [← ht]
    exact State.evaluate_oc_of_quiet hread.pending (hview.trans hclosed) hroc hrseq hrstore hrtags hrsupply
  · have hrun : (s.frameRead f s.sample.stream).sample.run = 32 := by
      rcases hfull with ⟨-, hr⟩ | ⟨hs, -⟩
      · rw [hread.run, SampleInterface.counted_of_filling hfilling, hr]
      · simp [hs] at hfilling
    obtain ⟨hclosedInit, hopenedInit⟩ := (State.turnedValid_of_init (s := s.frameRead f s.sample.stream) (by rw [hrseq]; exact hinit)
      (by rw [hrsupply]; exact hmark) (by rw [hract]; exact hsup))
    have hkept := State.turnedValid_keepsPath hread.pending
    obtain ⟨-, -, -, -, -, -, -, -, hturnedView⟩ := hkept.sample
    have hreadView := s.frameRead_view f s.sample.stream
    have hfullEnd := State.endInstant_of_full hread.pending (hread.stream.trans hfilling) hrun
    refine ⟨fun hclosed hraw => ?_, fun hopened hraw => ?_⟩
    · rw [hraw, nextView_of_clean (.inl ⟨rfl, hclosed⟩)] at hreadView
      rw [State.frameTold_of_same _ (by rw [hraw, nextView_of_clean (.inl ⟨rfl, hclosed⟩)]), hfullEnd] at ht
      obtain ⟨hne, hrecorded⟩ := hclosedInit (hreadView.trans hclosed)
      obtain ⟨-, hrec, hstate⟩ := State.evaluate_oc hkept.pending (by rw [hturnedView]; simp [hreadView, hclosed])
      rw [← ht]
      exact ⟨hstate hne, hrec.trans hrecorded⟩
    · rw [hraw, nextView_of_clean (.inr ⟨rfl, hopened⟩)] at hreadView
      rw [State.frameTold_of_same _ (by rw [hraw, nextView_of_clean (.inr ⟨rfl, hopened⟩)]), hfullEnd] at ht
      obtain ⟨hlocked, hrecorded⟩ := hopenedInit (hreadView.trans hopened)
      have hleaves := State.evaluate_seq_of_lockout hlocked.1
      rw [← ht, hleaves]
      rw [LockedOut, hrseq] at hlocked
      exact ⟨hlocked, hrecorded⟩

end Sys2Proof.Machine
end

