-- ==== Sys2Proof/Proofs/Gaps.lean ====
section
/-! A gap of one to three frames: its instants are filled, and at most one of them is an evaluation instant (R3, R4; O5). -/

namespace Sys2Proof.Machine

/-- Some instants have ended, one after the other. -/
structure InstantsEnded (xs : List (Channels Int)) (s t : State) : Prop where
  pending : t.nothingPending
  windows : t.mag.windows = (s.mag.after xs).1
  sums : t.mag.sums = (s.mag.after xs).2
  valid : s.sample.stream = .valid → s.sample.phase + xs.length < 8 →
    t.sample.stream = .valid ∧ t.sample.phase = s.sample.phase + xs.length ∧ t.mag.mags = s.mag.mags ∧ t.mag.evalCount = s.mag.evalCount
  filling : s.sample.stream = .filling → s.sample.run + xs.length < 32 →
    t.sample.stream = .filling ∧ t.sample.run = s.sample.run + xs.length ∧ t.sample.phase = s.sample.phase ∧ t.mag.mags = s.mag.mags ∧
      t.mag.evalCount = s.mag.evalCount
  evaluated : ∀ k, 1 ≤ k → k ≤ xs.length →
    (s.sample.stream = .valid ∧ s.sample.phase + k = 8 ∨ s.sample.stream = .filling ∧ s.sample.run + k = 32) →
    t.sample.stream = .valid ∧ t.sample.phase = xs.length - k ∧ t.mag.mags = (s.mag.after (xs.take k)).2.map magnitude ∧
      t.mag.evalCount = s.mag.evalCount + 1

section
variable {s t u v : State} {xs : List (Channels Int)} {x : Channels Int}

theorem InstantsEnded.none (h : s.nothingPending) : InstantsEnded [] s s :=
  ⟨h, rfl, rfl, fun hs _ => ⟨hs, rfl, rfl, rfl⟩, fun hs _ => ⟨hs, rfl, rfl, rfl, rfl⟩, fun k h1 h2 _ => by simp at h2; omega⟩

/-- One more instant, before the next evaluation instant could come round. -/
theorem InstantsEnded.snoc (h : InstantsEnded xs s t) (k : InstantEnded x t u) (hshort : xs.length < 7) : InstantsEnded (xs ++ [x]) s u := by
  have hsums : u.mag.sums = (s.mag.after (xs ++ [x])).2 := by rw [k.sums, h.windows, h.sums, MagnitudeUnit.after_append]
  refine ⟨k.pending, by rw [k.windows, h.windows, MagnitudeUnit.after_append], hsums, fun hs hphase => ?_, fun hs hrun => ?_, fun j h1 h2 hj => ?_⟩
  · simp only [List.length_append, List.length_singleton] at hphase ⊢
    obtain ⟨ht, hp, hm, hc⟩ := h.valid hs (by omega)
    obtain ⟨hu, hq, hn, hd⟩ := k.valid ht (by omega)
    exact ⟨hu, by omega, hn.trans hm, hd.trans hc⟩
  · simp only [List.length_append, List.length_singleton] at hrun ⊢
    obtain ⟨ht, hr, hp, hm, hc⟩ := h.filling hs (by omega)
    obtain ⟨hu, hq, hpp, hn, hd⟩ := k.filling ht (by omega)
    exact ⟨hu, by omega, hpp.trans hp, hn.trans hm, hd.trans hc⟩
  · simp only [List.length_append, List.length_singleton] at h2 ⊢
    by_cases hlast : j = xs.length + 1
    · have hcount : t.sample.stream = .valid ∧ t.sample.phase + 1 = 8 ∨ t.sample.stream = .filling ∧ t.sample.run + 1 = 32 := by
        rcases hj with ⟨hs, hp⟩ | ⟨hs, hr⟩
        · obtain ⟨ht, hphase, -⟩ := h.valid hs (by omega)
          exact .inl ⟨ht, by omega⟩
        · obtain ⟨ht, hrun, -⟩ := h.filling hs (by omega)
          exact .inr ⟨ht, by omega⟩
      have hkept : t.mag.evalCount = s.mag.evalCount := by
        rcases hj with ⟨hs, hp⟩ | ⟨hs, hr⟩
        · exact (h.valid hs (by omega)).2.2.2
        · exact (h.filling hs (by omega)).2.2.2.2
      obtain ⟨hu, hphase, hmags, hc, -⟩ := k.evaluated hcount
      refine ⟨hu, by omega, ?_, by rw [hc, hkept]⟩
      rw [hmags, hsums, List.take_of_length_le (by simp [hlast])]
    · obtain ⟨ht, hphase, hmags, hc⟩ := h.evaluated j h1 (by omega) hj
      obtain ⟨hu, hq, hn, hd⟩ := k.valid ht (by omega)
      refine ⟨hu, by omega, ?_, hd.trans hc⟩
      rw [hn, hmags, List.take_append_of_le_length (by omega)]

/-- The instants with the switch read closed throughout, from VALID: what the Overcurrent Unit has made of them. -/
structure ClosedInstants (n : Nat) (s t : State) : Prop where
  view : t.sample.view = .closed
  tags : t.tags = s.tags
  supply : t.supply = s.supply
  before : s.sample.phase + n < 8 → t.oc = s.oc ∧ t.seq = s.seq ∧ t.store = s.store
  evaluated : ∀ k, 1 ≤ k → k ≤ n → s.sample.phase + k = 8 →
    t.oc = if s.supply.restoreMark then s.oc.stepped (s.evalInput t.mag.mags.currents) else s.oc

theorem ClosedInstants.none (h : s.sample.view = .closed) : ClosedInstants 0 s s :=
  ⟨h, rfl, rfl, fun _ => ⟨rfl, rfl, rfl⟩, fun k h1 h2 => by omega⟩

theorem ClosedInstants.snoc {clip : Currents Bool} (h : ClosedInstants xs.length s t) (hs : s.sample.stream = .valid) (ht : InstantsEnded xs s t)
    (k : InstantFormed x clip t v) (hshort : xs.length < 7) (hview : v.sample.view = .closed) (hoc : v.oc = t.oc) (hseq : v.seq = t.seq)
    (hstore : v.store = t.store) (htags : v.tags = t.tags) (hsupply : v.supply = t.supply) :
    ClosedInstants (xs.length + 1) s v.endInstant := by
  obtain ⟨-, -, -, -, -, -, -, -, hkept⟩ := State.endInstant_path k.pending
  have hmags : v.mag.mags = t.mag.mags := by rw [k.mag]; rfl
  have hstays : t.sample.stream = .valid → t.sample.phase + 1 < 8 → v.endInstant = v := fun hstream hphase => by
    have hcount := k.phase
    rw [SampleInterface.counted_of_valid hstream] at hcount
    have hvphase : v.sample.phase = t.sample.phase + 1 := hcount.trans (Nat.mod_eq_of_lt hphase)
    exact State.endInstant_of_short (by simp [k.stream, hstream]) (by simp [hvphase])
  refine ⟨hkept.trans hview, by simp [htags, h.tags], by simp [hsupply, h.supply], fun hphase => ?_, fun j h1 h2 hj => ?_⟩
  · obtain ⟨htoc, htseq, htstore⟩ := h.before (by omega)
    obtain ⟨hstream, htphase, -⟩ := ht.valid hs (by omega)
    rw [hstays hstream (by omega)]
    exact ⟨hoc.trans htoc, hseq.trans htseq, hstore.trans htstore⟩
  · by_cases hlast : j = xs.length + 1
    · obtain ⟨htoc, htseq, htstore⟩ := h.before (by omega)
      obtain ⟨hstream, htphase, -⟩ := ht.valid hs (by omega)
      have hvphase : v.sample.phase = 0 := by
        rw [k.phase, SampleInterface.counted_of_valid hstream]
        exact (congrArg (fun p => (p + 1) % 8) htphase).trans (by rw [show s.sample.phase + xs.length = 7 by omega])
      rw [State.endInstant_of_eighth (k.stream.trans hstream) hvphase]
      exact State.evaluate_oc_of_quiet k.pending hview (hoc.trans htoc) (hseq.trans htseq) (hstore.trans htstore) (htags.trans h.tags)
        (hsupply.trans h.supply)
    · obtain ⟨hstream, htphase, -⟩ := ht.evaluated j h1 (by omega) (.inl ⟨hs, hj⟩)
      rw [hstays hstream (by omega), hoc, hmags]
      exact h.evaluated j h1 (by omega) hj

end

/-! ## Filled instants (R4) -/

section
variable {s : State}

/-- A filled instant, before its end. -/
def State.fillFormed (s : State) : State :=
  let v := s.formInstant s.sample.last s.sample.lastClip
  v.setSample { v.sample with expected := v.sample.expected.map (· + 1) }

theorem State.fillFormed_formed (h : s.nothingPending) :
    InstantFormed s.sample.last s.sample.lastClip s s.fillFormed ∧ s.fillFormed.sample.last = s.sample.last ∧
      s.fillFormed.sample.view = s.sample.view := by
  obtain ⟨hstream, -, hlast, -, -, -, hview⟩ := s.sample.counted_fields
  exact ⟨⟨h, rfl, hstream, rfl, rfl⟩, hlast, hview⟩

theorem State.fills_succ (n : Nat) (s : State) : State.fills (n + 1) s = (State.fills n s).fillInstant := by
  induction n generalizing s with
  | zero => rfl
  | succ n ih =>
    show State.fills (n + 1) s.fillInstant = _
    rw [ih]
    rfl

/-- Up to three fills. -/
theorem State.fills_ended (h : s.nothingPending) (n : Nat) (hn : n ≤ 3) :
    InstantsEnded (List.replicate n s.sample.last) s (State.fills n s) ∧ (State.fills n s).sample.last = s.sample.last ∧
      (State.fills n s).sample.view = s.sample.view ∧
      (s.sample.stream = .valid → s.sample.view = .closed → ClosedInstants n s (State.fills n s)) := by
  induction n with
  | zero => exact ⟨.none h, rfl, rfl, fun _ hview => .none hview⟩
  | succ n ih =>
    obtain ⟨hended, hlast, hview, hclosed⟩ := ih (by omega)
    obtain ⟨hformed, hfilled, hsame⟩ := (State.fills n s).fillFormed_formed hended.pending
    obtain ⟨-, -, -, -, hlastKept, -, -, -, hviewKept⟩ := State.endInstant_path hformed.pending
    rw [State.fills_succ]
    show InstantsEnded _ s (State.fills n s).fillFormed.endInstant ∧ (State.fills n s).fillFormed.endInstant.sample.last = _ ∧
      (State.fills n s).fillFormed.endInstant.sample.view = _ ∧ (_ → _ → ClosedInstants _ s (State.fills n s).fillFormed.endInstant)
    refine ⟨?_, (hlastKept.trans hfilled).trans hlast, (hviewKept.trans hsame).trans hview, fun hs hv => ?_⟩
    · rw [List.replicate_succ']
      have hone := hformed.ended
      rw [hlast] at hone
      exact hended.snoc hone (by simp; omega)
    · have hnext := ClosedInstants.snoc (xs := List.replicate n s.sample.last) (by simpa using hclosed hs hv) hs hended hformed (by simp; omega)
        ((hsame.trans hview).trans hv) rfl rfl rfl rfl rfl
      simpa using hnext

end

/-- Settles O5: up to three filled instants and the frame's own. -/
theorem shortGapIsFilled : Obligations.ShortGapIsFilled := by
  unfold Obligations.ShortGapIsFilled
  intro f s e d hlive hexpected hdelta hleast hmost hnothing
  obtain ⟨hfilled, -, hfilledView, hclosed⟩ := State.fills_ended hnothing d hmost
  generalize hw : State.fills d s = w at *
  have hwnow : w.now = s.now := by subst hw; simp
  obtain ⟨hformed, htaken⟩ := w.frameTold_formed f w.sample.stream hfilled.pending
  have htake : s.takeSample f = (w.frameTold f w.sample.stream).endInstant := by
    rw [State.takeSample_of_gap hlive hexpected, hdelta, State.checkedFrame, if_neg (by omega), if_pos hmost, hw]
    exact w.acceptFrame_eq f w.sample.stream
  have hended := hfilled.snoc hformed.ended (by simp; omega)
  have hset := htaken.ended f hformed.pending
  obtain ⟨hsupply, hcmd, hclock⟩ := takeSample_grant_unchanged (s := s) (f := f)
  refine ⟨_, exec_sampleFrame, ?_⟩
  rw [htake] at hsupply hcmd hclock ⊢
  have hquiet : s.sample.stream = .valid → s.sample.view = .closed → rawPosition (sampleStatus f.status) = some .closed →
      ClosedInstants (d + 1) s (w.frameTold f w.sample.stream).endInstant := fun hs hv hraw => by
    have hsame : nextView w.sample.view (rawPosition (sampleStatus f.status)) = w.sample.view := by
      rw [hraw, nextView_of_clean (.inl ⟨rfl, hfilledView.trans hv⟩)]
    obtain ⟨hread, -⟩ := w.frameRead_formed f w.sample.stream hfilled.pending
    obtain ⟨hoc, hseq, -, htags, hsup, -, -, -, hstore, -⟩ := w.frameRead_unchanged f w.sample.stream
    have hview := w.frameRead_view f w.sample.stream
    rw [State.frameTold_of_same _ hsame]
    have hnext := ClosedInstants.snoc (xs := List.replicate d s.sample.last) (by simpa using hclosed hs hv) hs hfilled hread (by simp; omega)
      (hview.trans (hsame.trans (hfilledView.trans hv))) hoc hseq hstore htags hsup
    simpa using hnext
  generalize (w.frameTold f w.sample.stream).endInstant = t at *
  have hmag : t.grant.mag = t.mag := by simp
  have hsample : t.grant.sample = t.sample := by simp
  have hoc : t.grant.oc = t.oc := by simp
  have hlength : (List.replicate d s.sample.last ++ [frameSamples f]).length = d + 1 := by simp
  have hall : (List.replicate d s.sample.last ++ [frameSamples f]).take (d + 1) = List.replicate d s.sample.last ++ [frameSamples f] :=
    List.take_of_length_le hlength.le
  obtain ⟨-, hwindows, hsums, hvalid, hfilling, hevaluated⟩ := hended
  rw [hlength] at hvalid hfilling hevaluated
  rw [hmag, hsample, hoc]
  refine ⟨hset.expected, hset.last, by rw [hset.absence, hwnow], by rw [hset.view, hfilledView], by dsimp only; rw [hall]; exact hwindows, by dsimp only; rw [hall]; exact hsums,
    hvalid, hfilling, fun k h1 h2 hk => ?_, hsupply, hcmd, hclock⟩
  obtain ⟨hstream, hphase, hmags, hcount⟩ := hevaluated k h1 h2 hk
  refine ⟨hstream, hphase, hmags, hcount, fun hs hv hraw => ?_⟩
  rcases hk with ⟨-, hp⟩ | ⟨hf, -⟩
  · exact (hquiet hs hv hraw).evaluated k h1 h2 hp
  · simp [hs] at hf

end Sys2Proof.Machine
end

