-- ==== Sys2Proof/Proofs/Views.lean ====
section
/-! Position views that change (O6): the sequence at rest, with nothing pending and no test running. -/

namespace Sys2Proof.Machine

/-- Nothing waits for a rest of the sequence, and no battery test is running. -/
structure State.AtRest (v : State) : Prop where
  nothing : v.nothingPending
  group : v.seq.pendingGroup = none
  test : v.battery.testState = .idle

/-- The sequence, the actuator, the elements and the logs at most have changed. -/
structure DriveOnly (v t : State) : Prop where
  sample : t.sample.sameBut v.sample
  mag : t.mag = v.mag
  power : SamePower v t
  arrays : SameArrays v t
  cmd : t.cmd = v.cmd
  links : t.links = v.links
  clock : SameClock v t

theorem DriveOnly.trans {v t u : State} (h : DriveOnly v t) (k : DriveOnly t u) : DriveOnly v u := by
  obtain ⟨hsupply, hbattery⟩ := h.power
  obtain ⟨htags, hstore⟩ := h.arrays
  obtain ⟨hnow, hnext, hfree, hpending⟩ := h.clock
  obtain ⟨ksupply, kbattery⟩ := k.power
  obtain ⟨ktags, kstore⟩ := k.arrays
  obtain ⟨know, knext, kfree, kpending⟩ := k.clock
  exact ⟨h.sample.trans k.sample, k.mag.trans h.mag, ⟨ksupply.trans hsupply, kbattery.trans hbattery⟩, ⟨ktags.trans htags, kstore.trans hstore⟩,
    k.cmd.trans h.cmd, k.links.trans h.links, ⟨know.trans hnow, knext.trans hnext, kfree.trans hfree, kpending.trans hpending⟩⟩

section
variable {v : State}

theorem State.setSeq_driveOnly (q : SequenceController) : DriveOnly v (v.setSeq q) := by
  constructor <;> simp [SamePower, SameArrays, SameClock, SampleInterface.sameBut.refl]

theorem State.setAct_driveOnly (a : ActuatorControl) : DriveOnly v (v.setAct a) := by
  constructor <;> simp [SamePower, SameArrays, SameClock, SampleInterface.sameBut.refl]

theorem State.report_driveOnly (cls : Nat) (body : ReportBody) : DriveOnly v (v.report cls body) := by
  constructor <;> simp [SamePower, SameArrays, SameClock, SampleInterface.sameBut.refl]

theorem State.recordOpen_driveOnly : DriveOnly v v.recordOpen := by
  constructor <;> simp [SamePower, SameArrays, SameClock, SampleInterface.sameBut.refl]

theorem State.recordClosed_driveOnly (cause : Option CloseCause) : DriveOnly v (v.recordClosed cause) := by
  constructor <;> simp [SamePower, SameArrays, SameClock, SampleInterface.sameBut.refl]

theorem State.faultClose_driveOnly (outcome : FaultOutcome) : DriveOnly v (v.faultClose outcome) := by
  constructor <;> simp [SamePower, SameArrays, SameClock, SampleInterface.sameBut.refl]

theorem State.faultOpen_driveOnly : DriveOnly v v.faultOpen := by
  constructor <;> simp [SamePower, SameArrays, SameClock, SampleInterface.sameBut.refl]

theorem State.dropClose_driveOnly : DriveOnly v v.dropClose := by
  refine ⟨v.dropClose_sample, ?_, ?_, ?_, ?_, ?_, ?_⟩ <;> simp [SamePower, SameArrays, SameClock]

theorem State.AtRest.recordOpen (h : v.AtRest) : v.recordOpen.AtRest :=
  ⟨by simpa [State.nothingPending] using h.nothing, v.recordOpen_seq.2.1.trans h.group, by simpa using h.test⟩

theorem State.recordClosed_seq (cause : Option CloseCause) :
    (v.recordClosed cause).seq = (if v.seq.recorded = some .closed then v.seq else { v.seq with recorded := some .closed, openClockRuns := false }) := by
  unfold State.recordClosed
  split
  · rfl
  · cases cause <;> simp

theorem State.recordClosed_active (cause : Option CloseCause) : (v.recordClosed cause).oc.active = v.oc.active := by
  unfold State.recordClosed
  split
  · rfl
  · cases cause with
    | none => rfl
    | some c =>
      dsimp only [State.closeNotice]
      split <;> rfl

theorem State.AtRest.recordClosed (h : v.AtRest) (cause : Option CloseCause) : (v.recordClosed cause).AtRest := by
  refine ⟨by simpa [State.nothingPending] using h.nothing, ?_, by simpa using h.test⟩
  rw [State.recordClosed_seq]
  split
  · exact h.group
  · exact h.group

/-- With no test running, leaving IDLE tells the Battery Unit nothing. -/
theorem State.AtRest.leaveIdle (h : v.AtRest) : v.leaveIdle = v := by
  unfold State.leaveIdle
  split
  · exact State.abortTest_of_idle _ _ h.test
  · rfl

/-- An entry to LOCKOUT at rest is the new state and its report. -/
theorem State.AtRest.enterLockout (h : v.AtRest) (reason : LockoutReason) :
    v.enterLockout reason = (v.lockedSeq reason).report 6 (.lockout reason v.seq.s v.governing v.seq.state v.sample.view) := by
  rw [State.enterLockout, h.leaveIdle]
  show (v.lockedSeq reason).applyPending.report 6 (.lockout reason (v.lockedSeq reason).applyPending.seq.s v.governing v.seq.state
    (v.lockedSeq reason).applyPending.sample.view) = _
  rw [State.applyPending_of_nothing (v.lockedSeq reason) h.nothing h.group]
  rfl

/-- The switch recorded open, then LOCKOUT. -/
theorem State.AtRest.openedLockout (h : v.AtRest) (reason : LockoutReason) :
    DriveOnly v (v.recordOpen.enterLockout reason) ∧ LockedOut reason v (v.recordOpen.enterLockout reason) ∧
      RecordedOpen v (v.recordOpen.enterLockout reason) ∧ (v.recordOpen.enterLockout reason).act = v.act ∧
      (v.recordOpen.enterLockout reason).faults = v.faults ∧
      (v.recordOpen.enterLockout reason).reports =
        (v.reports.enter 6 v.cmd.seconds (.lockout reason v.seq.s v.governing v.seq.state v.sample.view)).1 := by
  obtain ⟨hstate, -, hs, hlatched, -⟩ := v.recordOpen_seq
  obtain ⟨hrecorded, hoc, hclock⟩ := v.recordOpen_recorded
  have hgov : v.recordOpen.governing = v.governing := (State.governing_congr hlatched (by simp)).1
  rw [h.recordOpen.enterLockout reason]
  refine ⟨(State.recordOpen_driveOnly.trans (State.setSeq_driveOnly _)).trans (State.report_driveOnly _ _), ?_, ?_, by simp [State.lockedSeq],
    by simp [State.lockedSeq], by simp [State.report, State.lockedSeq, hs, hgov, hstate]⟩
  · simp [LockedOut, State.lockedSeq, SequenceController.timersStopped, hs]
  · simpa [RecordedOpen, State.lockedSeq, SequenceController.timersStopped, hrecorded, hoc] using hclock

theorem State.faultOpen_isSome : v.faultOpen.faults.openRecord.isSome = true := by
  unfold State.faultOpen
  cases h : v.faults.openRecord with
  | none => rfl
  | some o => simp [h]

/-- An entry to IDLE at rest (R46). -/
theorem State.AtRest.enterIdle (h : v.AtRest) :
    DriveOnly v v.enterIdle ∧ EnteredIdle v v.enterIdle ∧ v.enterIdle.seq.recorded = v.seq.recorded ∧
      v.enterIdle.seq.openClockRuns = v.seq.openClockRuns ∧ v.enterIdle.reports = v.reports := by
  have hidle : v.idleSeq.applyPending = v.idleSeq := State.applyPending_of_nothing v.idleSeq h.nothing h.group
  have hunfold : v.enterIdle = if v.oc.active then v.idleSeq.enterTiming.faultOpen else v.idleSeq := by
    show (if v.idleSeq.applyPending.oc.active then v.idleSeq.applyPending.enterTiming.faultOpen else v.idleSeq.applyPending) = _
    rw [hidle]
    rfl
  have hrest : v.idleSeq.AtRest := ⟨h.nothing, h.group, h.test⟩
  have htiming : v.idleSeq.enterTiming = v.idleSeq.setSeq { v.idleSeq.seq with latched := some v.store.activeGroup, state := .timing } := by
    rw [State.enterTiming, hrest.leaveIdle]
    rfl
  rw [hunfold, htiming]
  cases hactive : v.oc.active with
  | false =>
    rw [if_neg (by simp)]
    exact ⟨State.setSeq_driveOnly _, by simp [EnteredIdle, State.idleSeq, SequenceController.timersStopped, hactive], rfl, rfl, rfl⟩
  | true =>
    rw [if_pos rfl]
    refine ⟨((State.setSeq_driveOnly _).trans (State.setSeq_driveOnly _)).trans State.faultOpen_driveOnly, ?_, by simp [State.idleSeq, SequenceController.timersStopped],
      by simp [State.idleSeq, SequenceController.timersStopped], by simp [State.idleSeq]⟩
    simp [EnteredIdle, State.idleSeq, SequenceController.timersStopped, hactive, State.faultOpen_isSome]

/-- The switch recorded closed, then IDLE. -/
theorem State.AtRest.closedIdle (h : v.AtRest) (cause : Option CloseCause) :
    DriveOnly v (v.recordClosed cause).enterIdle ∧ EnteredIdle v (v.recordClosed cause).enterIdle ∧
      (v.recordClosed cause).enterIdle.seq.recorded = some .closed ∧
      (v.recordClosed cause).enterIdle.seq.openClockRuns = (v.recordClosed cause).seq.openClockRuns ∧
      (v.recordClosed cause).enterIdle.oc = (v.recordClosed cause).oc ∧ (v.recordClosed cause).enterIdle.act = v.act ∧
      (v.recordClosed cause).enterIdle.reports = v.reports := by
  obtain ⟨hdrive, hidle, hrecorded, hclock, hreports⟩ := (h.recordClosed cause).enterIdle
  refine ⟨(State.recordClosed_driveOnly cause).trans hdrive, ?_, hrecorded.trans (State.recordClosed_recorded cause), hclock, by simp, by simp,
    hreports.trans (by simp)⟩
  simpa [EnteredIdle, State.recordClosed_active] using hidle

theorem State.AtRest.closedByHand (h : v.AtRest) {c : CloseCause} (hc : c ≠ .reclose) : ClosedByHand v (v.recordClosed (some c)).enterIdle := by
  obtain ⟨-, -, hrecorded, hclock, hoc, -⟩ := h.closedIdle (some c)
  obtain ⟨-, hsame, hopened⟩ := v.recordClosed_byHand c hc
  rw [ClosedByHand, hrecorded, hclock, hoc]
  exact ⟨rfl, hsame, hopened⟩

/-- The confirm of a reclose: RECLAIM, with its timer while the elements are QUIET (R54, R56). -/
theorem State.recloseConfirmed {r : State} (hr : (v.recordClosed (some .reclose)).enterReclaim .reclose = r) :
    DriveOnly v r ∧ (r.seq.state = .reclaim ∧ r.seq.reclaimCause = .reclose ∧ r.seq.s = v.seq.s ∧ r.seq.latched = v.seq.latched ∧
      r.seq.recorded = some .closed ∧ r.oc = v.oc) ∧
      r.seq.reclaim = (if v.oc.active then none else startAt v.now (sec (reclaimTime v.governingTable))) ∧
      r.faults = v.faults ∧ r.reports = v.reports ∧ r.act = v.act := by
  have hoc : (v.recordClosed (some .reclose)).oc = v.oc := by
    simp [State.recordClosed, State.closeNotice]
  have hlatched : (v.recordClosed (some .reclose)).seq.latched = v.seq.latched := by
    rw [State.recordClosed_seq]
    split <;> rfl
  have hs : (v.recordClosed (some .reclose)).seq.s = v.seq.s := by
    rw [State.recordClosed_seq]
    split <;> rfl
  have htable : (v.recordClosed (some .reclose)).governingTable = v.governingTable := (State.governing_congr hlatched (by simp)).2
  subst hr
  refine ⟨(State.recordClosed_driveOnly _).trans (State.setSeq_driveOnly _),
    ⟨rfl, rfl, hs, hlatched, v.recordClosed_recorded _, by simp [hoc]⟩, ?_, by simp, by simp, by simp⟩
  simp [State.enterReclaim, State.reclaimTimer, State.timer, startAt, hoc, htable]

/-! ## The view change itself (R10) -/

theorem State.viewChanged_of_unconfirmed (h : v.act.supervision = .none) : v.viewChanged = v.sequenceViewChange :=
  State.confirmTest_of_none (by simpa using h)

theorem State.noPulse_of_lines (htrip : v.act.trip = false) (hclose : v.act.close = false) : v.noPulse = true := by
  simp [State.noPulse, htrip, hclose]

/-- The confirm of a close, with no trip held (R79, R54). -/
def State.closeSettled (v : State) : State := (v.setAct { v.act with confirm := .stopped, supervision := .none }).dropClose

theorem State.closeTest_of_confirmed (hsup : v.act.supervision = .closeWait) (hview : v.sample.view = .closed) (hlive : v.streamLive = true)
    (hheld : v.act.heldTrip = false) : v.closeTest = v.closeSettled.closeConfirm := by
  have hact : v.closeSettled.closeConfirm.act.heldTrip = false := by simp [State.closeSettled, hheld]
  have htest : v.closeTest = v.closeSettled.closeConfirm.startHeld true := if_pos ⟨hsup, hview, hlive⟩
  rw [htest, State.startHeld, if_neg (by rw [hact]; decide)]

end

/-! ## An in-order frame in VALID, short of an evaluation instant -/

section
variable {f : SampleFrame} {s : State}

/-- Such a frame ends with the instant it forms. -/
theorem takeSample_of_short (hstream : s.sample.stream = .valid) (hphase : s.sample.phase + 1 < 8) (hexpected : s.sample.expected = some f.seq)
    (hnothing : s.nothingPending) : s.takeSample f = s.frameTold f .valid := by
  obtain ⟨hformed, -⟩ := s.frameTold_formed f .valid hnothing
  have hcount := hformed.phase
  rw [SampleInterface.counted_of_valid hstream] at hcount
  have hvphase : (s.frameTold f .valid).sample.phase = s.sample.phase + 1 := hcount.trans (Nat.mod_eq_of_lt hphase)
  rw [State.takeSample_of_inOrder (.inr hstream) hexpected, hstream, State.endInstant_of_short (by simp [hformed.stream, hstream]) (by simp [hvphase])]

/-- The state in which such a frame's view change is told: only its instant and the frame's own values have been taken. -/
structure FrameSeen (s v : State) : Prop where
  stream : v.sample.stream = .valid
  mags : v.mag.mags = s.mag.mags
  evalCount : v.mag.evalCount = s.mag.evalCount
  oc : v.oc = s.oc
  seq : v.seq = s.seq
  act : v.act = s.act
  tags : v.tags = s.tags
  supply : v.supply = s.supply
  battery : v.battery = s.battery
  reports : v.reports = s.reports
  faults : v.faults = s.faults
  store : v.store = s.store
  cmd : v.cmd = s.cmd
  links : v.links = s.links
  clock : SameClock s v

theorem State.frameRead_seen (hstream : s.sample.stream = .valid) (hnothing : s.nothingPending) : FrameSeen s (s.frameRead f .valid) := by
  obtain ⟨hformed, -⟩ := s.frameRead_formed f .valid hnothing
  obtain ⟨hoc, hseq, hact, htags, hsupply, hbattery, hreports, hfaults, hstore, hcmd, hlinks, hclock⟩ := s.frameRead_unchanged f .valid
  exact ⟨hformed.stream.trans hstream, by rw [hformed.mag]; rfl, by rw [hformed.mag]; rfl, hoc, hseq, hact, htags, hsupply, hbattery, hreports, hfaults,
    hstore, hcmd, hlinks, hclock⟩

/-- A frame that changes the view, up to what the sequence and the actuator make of it. -/
theorem exec_viewFrame (hstream : s.sample.stream = .valid) (hphase : s.sample.phase + 1 < 8) (hexpected : s.sample.expected = some f.seq)
    (hnothing : s.nothingPending) (hchanged : nextView s.sample.view (rawPosition (sampleStatus f.status)) ≠ s.sample.view) :
    ∃ v, exec (.sampleFrame f) s = .next v.viewChanged.grant ∧ FrameSeen s v ∧
      v.sample.view = nextView s.sample.view (rawPosition (sampleStatus f.status)) :=
  ⟨s.frameRead f .valid, by rw [exec_sampleFrame, takeSample_of_short hstream hphase hexpected hnothing, State.frameTold, if_pos hchanged],
    State.frameRead_seen hstream hnothing, s.frameRead_view f .valid⟩

section
variable {v t : State} (h : FrameSeen s v)
include h

theorem FrameSeen.governing : v.governing = s.governing ∧ v.governingTable = s.governingTable :=
  State.governing_congr (by rw [h.seq]) h.store

theorem FrameSeen.lockedOut {reason : LockoutReason} (k : LockedOut reason v t) : LockedOut reason s t := by
  simpa [LockedOut, h.seq] using k

theorem FrameSeen.recordedOpen (k : RecordedOpen v t) : RecordedOpen s t := by
  simpa [RecordedOpen, h.seq] using k

theorem FrameSeen.enteredIdle (k : EnteredIdle v t) : EnteredIdle s t := by
  simpa [EnteredIdle, h.oc, h.faults, h.store] using k

theorem FrameSeen.closedByHand (k : ClosedByHand v t) : ClosedByHand s t := by
  obtain ⟨hnow, -⟩ := h.clock
  simpa [ClosedByHand, h.seq, h.oc, h.governing, hnow] using k

theorem FrameSeen.settled {x : View} (hview : v.sample.view = x) : v.settled x = true := by
  simp [State.settled, hview, h.stream]

theorem FrameSeen.live : v.streamLive = true := by simp [State.streamLive, h.stream]

/-- What a view change outside the power, the tables and the tags leaves. -/
theorem FrameSeen.rest (hdrive : DriveOnly v t) :
    t.sample.stream = .valid ∧ t.mag.mags = s.mag.mags ∧ t.mag.evalCount = s.mag.evalCount ∧ SamePower s t ∧ SameArrays s t ∧
      t.cmd = s.cmd ∧ t.links = s.links ∧ SameClock s t := by
  obtain ⟨hsample, hmag, ⟨hsupply, hbattery⟩, ⟨htags, hstore⟩, hcmd, hlinks, hnow, hnext, hfree, hpending⟩ := hdrive
  obtain ⟨know, knext, kfree, kpending⟩ := h.clock
  exact ⟨hsample.1.trans h.stream, by rw [hmag, h.mags], by rw [hmag, h.evalCount], ⟨hsupply.trans h.supply, hbattery.trans h.battery⟩,
    ⟨htags.trans h.tags, hstore.trans h.store⟩, hcmd.trans h.cmd, hlinks.trans h.links,
    ⟨hnow.trans know, hnext.trans knext, hfree.trans kfree, hpending.trans kpending⟩⟩

end
end

/-- Settles O6, by the view, the state of the sequence and what is awaited. -/
theorem viewChangesTaken : Obligations.ViewChangesTaken := by
  unfold Obligations.ViewChangesTaken
  intro f s hstream hphase hexpected hnothing hgroup htest hgrant
  have hframe : ∀ p : Recorded, rawPosition (sampleStatus f.status) = some p → nextView s.sample.view (some p) ≠ s.sample.view →
      ∃ v, v.AtRest ∧ FrameSeen s v ∧ v.sample.view = nextView s.sample.view (some p) ∧
        (DriveOnly v v.viewChanged → exec (.sampleFrame f) s = .next v.viewChanged ∧
          v.viewChanged.sample.view = nextView s.sample.view (some p)) := fun p hraw hchanged => by
    obtain ⟨v, hexec, hseen, hview⟩ := exec_viewFrame hstream hphase hexpected hnothing (by rw [hraw]; exact hchanged)
    rw [hraw] at hview
    refine ⟨v, ⟨by rw [State.nothingPending, hseen.store]; exact hnothing, by rw [hseen.seq]; exact hgroup, by rw [hseen.battery]; exact htest⟩,
      hseen, hview, fun hdrive => ?_⟩
    obtain ⟨-, -, -, -, harrays, -⟩ := hseen.rest hdrive
    rw [State.grant_of_arrays hgrant harrays] at hexec
    obtain ⟨-, -, -, -, -, -, -, -, hsame⟩ := hdrive.sample
    exact ⟨hexec, hsame.trans hview⟩
  refine ⟨fun hraw hview htrip hclose hsup => ?opened, fun hraw hview hstate hsup => ?openConfirm, fun hraw hview htrip hclose hsup => ?closed,
    fun hraw hview hstate hsup hheld => ?closeConfirm⟩
  case opened =>
    obtain ⟨v, hrest, hseen, hvview, hdone⟩ := hframe .opened hraw (Ne.symm hview)
    have hopened : v.sample.view = .opened := hvview
    have hchange : v.viewChanged = v.sequenceViewChange := State.viewChanged_of_unconfirmed (by rw [hseen.act]; exact hsup)
    have hpulse : v.noPulse = true := State.noPulse_of_lines (by rw [hseen.act]; exact htrip) (by rw [hseen.act]; exact hclose)
    rw [hchange] at hdone
    have hreport : ∀ reason, (v.reports.enter 6 v.cmd.seconds (.lockout reason v.seq.s v.governing v.seq.state v.sample.view)).1 =
        (s.reports.enter 6 s.cmd.seconds (.lockout reason s.seq.s s.governing s.seq.state .opened)).1 := fun reason => by
      rw [hseen.reports, hseen.cmd, hseen.seq, hseen.governing.1, hopened]
    refine ⟨fun hstate => ?external, fun hstate hmark => ?init, fun hstate => ?mech⟩
    case external =>
      obtain ⟨hdrive, hlocked, hrecorded, hact, hfaults, hreports⟩ := hrest.openedLockout .external
      have hresult : v.sequenceViewChange = (v.recordOpen.enterLockout .external).faultClose .opened := by
        rcases hstate with h | h | h <;> simp [State.sequenceViewChange, hseen.seq, h, hopened, hpulse, State.externalOpen]
      have hall := hdrive.trans (State.faultClose_driveOnly .opened)
      rw [hresult] at hdone
      obtain ⟨hexec, htview⟩ := hdone hall
      refine ⟨_, hexec, htview, ?_, ?_, by simp [hseen.act], State.faultClose_openRecord _ _, fun hnone => ?_, fun o ho => ?_, hseen.rest hall⟩
      · simpa [LockedOut] using hseen.lockedOut hlocked
      · simpa [RecordedOpen] using hseen.recordedOpen hrecorded
      · have hstays : (v.recordOpen.enterLockout .external).faultClose .opened = v.recordOpen.enterLockout .external := by
          simp [State.faultClose, hseen.faults, hnone]
        rw [hstays]
        exact ⟨hfaults.trans hseen.faults, hreports.trans (hreport _)⟩
      · simp [State.faultClose, hseen.faults, ho, hseen.cmd]
    case init =>
      obtain ⟨hdrive, hlocked, hrecorded, hact, hfaults, hreports⟩ := hrest.openedLockout .restart
      have hresult : v.sequenceViewChange = v.recordOpen.enterLockout .restart := by
        simp [State.sequenceViewChange, State.initTest, hseen.seq, hstate, hseen.supply, hmark, State.settled, hopened, hseen.stream]
      rw [hresult] at hdone
      obtain ⟨hexec, htview⟩ := hdone hdrive
      exact ⟨_, hexec, htview, hseen.lockedOut hlocked, hseen.recordedOpen hrecorded, hact.trans hseen.act, hfaults.trans hseen.faults,
        hreports.trans (hreport _), hseen.rest hdrive⟩
    case mech =>
      obtain ⟨hdrive, hlocked, hrecorded, hact, hfaults, hreports⟩ := hrest.openedLockout .mech
      have hresult : v.sequenceViewChange = v.recordOpen.enterLockout .mech := by
        simp [State.sequenceViewChange, State.mechTest, hseen.seq, hstate, hseen.settled hopened]
      rw [hresult] at hdone
      obtain ⟨hexec, htview⟩ := hdone hdrive
      exact ⟨_, hexec, htview, hseen.lockedOut hlocked, hseen.recordedOpen hrecorded, hact.trans hseen.act, hfaults.trans hseen.faults,
        hreports.trans (hreport _), hseen.rest hdrive⟩
  case openConfirm =>
    obtain ⟨v, hrest, hseen, hvview, hdone⟩ := hframe .opened hraw (Ne.symm hview)
    have hopened : v.sample.view = .opened := hvview
    generalize hw : v.setAct { v.act with confirm := .stopped, supervision := .none, retry := false } = w
    have hws : w.seq = v.seq ∧ w.act = { v.act with confirm := .stopped, supervision := .none, retry := false } ∧ DriveOnly v w := by
      subst hw
      exact ⟨rfl, rfl, State.setAct_driveOnly _⟩
    obtain ⟨hwseq, hwact, hwdrive⟩ := hws
    have hwrest : w.AtRest := by
      subst hw
      exact ⟨hrest.nothing, hrest.group, hrest.test⟩
    have hchange : v.viewChanged = w.openConfirm := by
      have hseq : v.sequenceViewChange = v := by simp [State.sequenceViewChange, hseen.seq, hstate]
      rw [State.viewChanged, hseq, State.confirmTest, hseen.act, hsup]
      subst hw
      exact if_pos ⟨by rw [hseen.act]; exact hsup, hopened, hseen.live⟩
    rw [hchange] at hdone
    have hconfirm : w.seq.state = .tripping := by rw [hwseq, hseen.seq, hstate]
    have hkind : w.seq.tripKind = s.seq.tripKind := by rw [hwseq, hseen.seq]
    have hconfirmed : ∀ reason u, DriveOnly (w.recordOpen.enterLockout reason) u → u.seq = (w.recordOpen.enterLockout reason).seq →
        u.oc = (w.recordOpen.enterLockout reason).oc → u.act = (w.recordOpen.enterLockout reason).act → w.openConfirm = u →
        ∃ t, exec (.sampleFrame f) s = .next t ∧ t.sample.view = .opened ∧ LockedOut reason s t ∧ RecordedOpen s t ∧
          t.act = { s.act with confirm := .stopped, supervision := .none, retry := false } ∧ t.sample.stream = .valid ∧
          t.mag.mags = s.mag.mags ∧ t.mag.evalCount = s.mag.evalCount ∧ SamePower s t ∧ SameArrays s t ∧ t.cmd = s.cmd ∧ t.links = s.links ∧
          SameClock s t := fun reason u hu hseq hoc hact hresult => by
      obtain ⟨hdrive, hlocked, hrecorded, hlact, -⟩ := hwrest.openedLockout reason
      have hall := (hwdrive.trans hdrive).trans hu
      rw [hresult] at hdone
      obtain ⟨hexec, htview⟩ := hdone hall
      refine ⟨u, hexec, htview, hseen.lockedOut ?_, hseen.recordedOpen ?_, by rw [hact, hlact, hwact, hseen.act], hseen.rest hall⟩
      · simpa [LockedOut, hseq, hwseq] using hlocked
      · simpa [RecordedOpen, hseq, hoc, hwseq] using hrecorded
    refine ⟨fun hstartup => ?_, fun hmanual => ?_, fun hsensor => ?_⟩
    · exact hconfirmed .restart _ (State.setSeq_driveOnly _) rfl rfl rfl (by
        rw [State.openConfirm, if_pos hconfirm, hkind, hstartup]
        rfl)
    · exact hconfirmed .manual _ (State.faultClose_driveOnly .opened) (by simp) (by simp) (by simp) (by
        rw [State.openConfirm, if_pos hconfirm, hkind, hmanual])
    · exact hconfirmed .sensor _ (State.faultClose_driveOnly .sensor) (by simp) (by simp) (by simp) (by
        rw [State.openConfirm, if_pos hconfirm, hkind, hsensor])
  case closed =>
    obtain ⟨v, hrest, hseen, hvview, hdone⟩ := hframe .closed hraw (Ne.symm hview)
    have hclosed : v.sample.view = .closed := hvview
    have hchange : v.viewChanged = v.sequenceViewChange := State.viewChanged_of_unconfirmed (by rw [hseen.act]; exact hsup)
    have hpulse : v.noPulse = true := State.noPulse_of_lines (by rw [hseen.act]; exact htrip) (by rw [hseen.act]; exact hclose)
    rw [hchange] at hdone
    refine ⟨fun hstate => ?external, fun hstate hmark => ?init⟩
    case external =>
      obtain ⟨hdrive, hidle, -, -, -, hact, hreports⟩ := hrest.closedIdle (some .external)
      have hresult : v.sequenceViewChange = (v.recordClosed (some .external)).enterIdle := by
        rcases hstate with h | h <;> simp [State.sequenceViewChange, hseen.seq, h, hclosed, hpulse, State.externalClose]
      rw [hresult] at hdone
      obtain ⟨hexec, htview⟩ := hdone hdrive
      exact ⟨_, hexec, htview, hseen.enteredIdle hidle, hseen.closedByHand (hrest.closedByHand (by decide)), hact.trans hseen.act,
        hreports.trans hseen.reports, hseen.rest hdrive⟩
    case init =>
      obtain ⟨hdrive, hidle, hrecorded, -, hoc, hact, hreports⟩ := hrest.closedIdle none
      have hresult : v.sequenceViewChange = (v.recordClosed none).enterIdle := by
        simp [State.sequenceViewChange, State.initTest, hseen.seq, hstate, hseen.supply, hmark, State.settled, hclosed, hseen.stream]
      have hnotice : (v.recordClosed none).oc = v.oc := by
        unfold State.recordClosed
        split <;> rfl
      rw [hresult] at hdone
      obtain ⟨hexec, htview⟩ := hdone hdrive
      exact ⟨_, hexec, htview, hseen.enteredIdle hidle, hrecorded, (hoc.trans hnotice).trans hseen.oc, hact.trans hseen.act,
        hreports.trans hseen.reports, hseen.rest hdrive⟩
  case closeConfirm =>
    obtain ⟨v, hrest, hseen, hvview, hdone⟩ := hframe .closed hraw (Ne.symm hview)
    have hclosed : v.sample.view = .closed := hvview
    have hchange : v.viewChanged = v.closeSettled.closeConfirm := by
      have hseq : v.sequenceViewChange = v := by simp [State.sequenceViewChange, hseen.seq, hstate]
      rw [State.viewChanged, hseq, State.confirmTest, hseen.act, hsup]
      exact State.closeTest_of_confirmed (by rw [hseen.act]; exact hsup) hclosed hseen.live (by rw [hseen.act]; exact hheld)
    rw [hchange] at hdone
    generalize hc : v.closeSettled = c at hdone
    have hcs : c.seq = v.seq ∧ c.oc = v.oc ∧ c.faults = v.faults ∧ c.reports = v.reports ∧ c.store = v.store ∧ c.now = v.now ∧
        c.battery = v.battery ∧ c.act = { v.act with confirm := .stopped, supervision := .none, close := false, closeTimer := none } ∧
        DriveOnly v c := by
      subst hc
      refine ⟨by simp [State.closeSettled], by simp [State.closeSettled], by simp [State.closeSettled], by simp [State.closeSettled],
        by simp [State.closeSettled], by simp [State.closeSettled], by simp [State.closeSettled], by simp [State.closeSettled],
        (State.setAct_driveOnly _).trans State.dropClose_driveOnly⟩
    obtain ⟨hcseq, hcoc, hcfaults, hcreports, hcstore, hcnow, hcbattery, hcact, hcdrive⟩ := hcs
    have hcrest : c.AtRest := ⟨by rw [State.nothingPending, hcstore]; exact hrest.nothing, by rw [hcseq]; exact hrest.group,
      by rw [hcbattery]; exact hrest.test⟩
    have hcgov : c.governingTable = s.governingTable := (State.governing_congr (by rw [hcseq]) hcstore).2.trans hseen.governing.2
    obtain ⟨hvnow, -⟩ := hseen.clock
    have hconfirm : c.seq.state = .closing := by rw [hcseq, hseen.seq, hstate]
    have hcloseKind : c.seq.closeKind = s.seq.closeKind := by rw [hcseq, hseen.seq]
    cases hkind : s.seq.closeKind with
    | reclose =>
      generalize hr : (c.recordClosed (some .reclose)).enterReclaim .reclose = r
      obtain ⟨hrdrive, ⟨hrstate, hrcause, hrs, hrlatched, hrrecorded, hroc⟩, hrreclaim, hrfaults, hrreports, hract⟩ := State.recloseConfirmed hr
      have hresult : c.closeConfirm = if r.oc.active then r.faultOpen else r := by
        rw [State.closeConfirm, if_pos hconfirm, hcloseKind, hkind, ← hr]
      have hactive : r.oc.active = s.oc.active := by rw [hroc, hcoc, hseen.oc]
      have hseq : (if r.oc.active then r.faultOpen else r).seq = r.seq := by split <;> simp
      have hoc : (if r.oc.active then r.faultOpen else r).oc = r.oc := by split <;> simp
      have hact : (if r.oc.active then r.faultOpen else r).act = r.act := by split <;> simp
      have hreports : (if r.oc.active then r.faultOpen else r).reports = r.reports := by split <;> simp
      have hall : DriveOnly v (if r.oc.active then r.faultOpen else r) := by
        split
        · exact (hcdrive.trans hrdrive).trans State.faultOpen_driveOnly
        · exact hcdrive.trans hrdrive
      rw [hresult] at hdone
      obtain ⟨hexec, htview⟩ := hdone hall
      refine ⟨_, hexec, htview, by rw [hact, hract, hcact, hseen.act], fun _ => ?_, fun h => (by cases h), by rw [hreports, hrreports, hcreports, hseen.reports],
        hseen.rest hall⟩
      rw [hseq, hoc, hrreclaim, hcoc, hseen.oc, hactive]
      refine ⟨hrstate, hrcause, by rw [hrs, hcseq, hseen.seq], by rw [hrlatched, hcseq, hseen.seq], hrrecorded, by rw [hroc, hcoc, hseen.oc],
        fun hquiet => ?_, fun hout => ?_⟩
      · rw [hquiet, if_neg (by decide), if_neg (by decide), hcnow, hvnow, hcgov, hrfaults, hcfaults, hseen.faults]
        exact ⟨rfl, rfl⟩
      · rw [hout, if_pos rfl, if_pos rfl]
        exact ⟨rfl, State.faultOpen_isSome⟩
    | manual =>
      obtain ⟨hdrive, hidle, -, -, -, hact, hreports⟩ := hcrest.closedIdle (some .manual)
      have hresult : c.closeConfirm = (c.recordClosed (some .manual)).enterIdle := by
        rw [State.closeConfirm, if_pos hconfirm, hcloseKind, hkind]
      have hall := hcdrive.trans hdrive
      have hbyHand := hcrest.closedByHand (c := .manual) (by decide)
      rw [hresult] at hdone
      obtain ⟨hexec, htview⟩ := hdone hall
      refine ⟨_, hexec, htview, by rw [hact, hcact, hseen.act], fun h => (by cases h), fun _ => ⟨hseen.enteredIdle ?_, hseen.closedByHand ?_⟩,
        by rw [hreports, hcreports, hseen.reports], hseen.rest hall⟩
      · simpa [EnteredIdle, hcoc, hcfaults, hcstore] using hidle
      · have hgov : c.governingTable = v.governingTable := (State.governing_congr (by rw [hcseq]) hcstore).2
        simpa [ClosedByHand, hcseq, hcoc, hgov, hcnow] using hbyHand

end Sys2Proof.Machine
end

