-- ==== Sys2Proof/Proofs/Protection.lean ====
section
/-! Evaluations in the closed states: trips, pickups and the all-dropped event; the open confirm of a PROTECTION trip (O16). -/

namespace Sys2Proof.Machine

/-! ## What a decision to trip starts from -/

/-- What a trip for protection depends on is the same. -/
structure SameBasis (v y : State) : Prop where
  nothing : y.nothingPending
  oc : y.oc = v.oc
  act : y.act = v.act
  store : y.store = v.store
  now : y.now = v.now
  s : y.seq.s = v.seq.s
  governing : y.governing = v.governing
  view : y.sample.view = v.sample.view
  stream : y.sample.stream = v.sample.stream

theorem SameBasis.trans {v y z : State} (h : SameBasis v y) (k : SameBasis y z) : SameBasis v z :=
  ⟨k.nothing, k.oc.trans h.oc, k.act.trans h.act, k.store.trans h.store, k.now.trans h.now, k.s.trans h.s, k.governing.trans h.governing,
    k.view.trans h.view, k.stream.trans h.stream⟩

/-- The table of the governing group follows from the group and the Table Store. -/
theorem SameBasis.governingTable {v y : State} (h : SameBasis v y) : y.governingTable = v.governingTable := by
  simp [State.governingTable, State.groupTable, State.table, h.governing, h.store]

section
variable {v : State} (h : v.nothingPending)
include h

theorem SameBasis.refl : SameBasis v v := ⟨h, rfl, rfl, rfl, rfl, rfl, rfl, rfl, rfl⟩

theorem State.enterTiming_sameBasis : SameBasis v v.enterTiming := by
  obtain ⟨hsample, -, hstore⟩ := v.leaveIdle_of_nothingPending h
  obtain ⟨hgov, -⟩ := State.leaveIdle_governing h
  have hafter : v.enterTiming.store = v.store := by simpa [State.enterTiming] using hstore
  refine ⟨by rw [State.nothingPending, hafter]; exact h, by simp, by simp, hafter, by simp, by simp [State.enterTiming, State.latch], ?_,
    by simp [State.enterTiming, hsample], by simp [State.enterTiming, hsample]⟩
  simp [State.governing, State.enterTiming, State.latch]
  simpa [State.governing] using hgov

/-- A change of the Fault Log alone. -/
theorem SameBasis.of_faults {y : State} (hoc : y.oc = v.oc) (hact : y.act = v.act) (hstore : y.store = v.store) (hnow : y.now = v.now)
    (hseq : y.seq = v.seq) (hsample : y.sample = v.sample) : SameBasis v y :=
  ⟨by rw [State.nothingPending, hstore]; exact h, hoc, hact, hstore, hnow, by rw [hseq], (State.governing_congr (by rw [hseq]) hstore).1,
    by rw [hsample], by rw [hsample]⟩

/-- A pickup keeps what a decision depends on, and leads to a state that a decision trips from. -/
theorem State.takePickup_sameBasis (hstate : v.seq.state = .idle ∨ v.seq.state = .timing ∨ v.seq.state = .reclaim) :
    SameBasis v v.takePickup ∧ (v.takePickup.seq.state = .timing ∨ v.takePickup.seq.state = .reclaim) := by
  have hpicked : SameBasis v v.sequencePickup ∧ (v.sequencePickup.seq.state = .timing ∨ v.sequencePickup.seq.state = .reclaim) := by
    unfold State.sequencePickup
    rcases hstate with hs | hs | hs <;> rw [hs]
    · exact ⟨State.enterTiming_sameBasis h, .inl rfl⟩
    · exact ⟨.refl h, .inl hs⟩
    · exact ⟨⟨h, rfl, rfl, rfl, rfl, rfl, rfl, rfl, rfl⟩, .inr hs⟩
  have htaken : v.takePickup = v.sequencePickup.faultOpen := if_pos hpicked.2
  rw [htaken]
  exact ⟨hpicked.1.trans (.of_faults hpicked.1.nothing (by simp) (by simp) (by simp) (by simp) (by simp) (by simp)), by simpa using hpicked.2⟩

/-- The decision in IDLE, TIMING and RECLAIM is a trip for protection, from TIMING or RECLAIM. -/
theorem State.sequenceDecision_of_closed (hstate : v.seq.state = .idle ∨ v.seq.state = .timing ∨ v.seq.state = .reclaim) :
    ∃ y, SameBasis v y ∧ v.sequenceDecision = y.tripFor .protection true := by
  rcases hstate with hs | hs | hs
  · exact ⟨v.enterTiming, State.enterTiming_sameBasis h, by simp [State.sequenceDecision, hs]⟩
  · exact ⟨v, .refl h, by simp [State.sequenceDecision, hs]⟩
  · exact ⟨v, .refl h, by simp [State.sequenceDecision, hs]⟩

end

/-- A decision in the closed states comes down to a trip for protection from the same basis. -/
theorem State.takeOutputs_of_met {v : State} (h : v.nothingPending) (hstate : v.seq.state = .idle ∨ v.seq.state = .timing ∨ v.seq.state = .reclaim)
    (wasActive : Bool) (o : EvalOutput) (m : Summary) (hmet : o.elements.any = true) :
    ∃ y, SameBasis v y ∧ v.takeOutputs wasActive o m = y.tripFor .protection true := by
  have hpicked : ∃ u, SameBasis v u ∧ (u.seq.state = .idle ∨ u.seq.state = .timing ∨ u.seq.state = .reclaim) ∧
      v.takeOutputs wasActive o m = (u.decisionTold o.elements m).sequenceDecision := by
    have hresult : v.takeOutputs wasActive o m =
        ((if (!wasActive && o.unit.active) = true then v.takePickup else v).decisionTold o.elements m).sequenceDecision := if_pos hmet
    rw [hresult]
    split
    · obtain ⟨hbasis, hs⟩ := State.takePickup_sameBasis h hstate
      exact ⟨_, hbasis, .inr hs, rfl⟩
    · exact ⟨_, .refl h, hstate, rfl⟩
  obtain ⟨u, hbasis, hs, hresult⟩ := hpicked
  have htold : SameBasis u (u.decisionTold o.elements m) := .of_faults hbasis.nothing (by simp [State.decisionTold]) (by simp [State.decisionTold])
    (by simp [State.decisionTold]) (by simp [State.decisionTold]) (by simp [State.decisionTold]) (by simp [State.decisionTold])
  obtain ⟨y, hy, hdecision⟩ := State.sequenceDecision_of_closed htold.nothing (by simpa [State.decisionTold] using hs)
  exact ⟨y, (hbasis.trans htold).trans hy, hresult.trans hdecision⟩

/-! ## The outputs that do not trip -/

section
variable {v : State} {wasActive : Bool} {o : EvalOutput} {m : Summary}

theorem State.takeOutputs_of_steady (hmet : o.elements.any = false) (hactive : o.unit.active = wasActive) :
    v.takeOutputs wasActive o m = v.faultSummary m := by
  simp [State.takeOutputs, hmet, hactive]

theorem State.takeOutputs_of_pickup (hmet : o.elements.any = false) (hwas : wasActive = false) (hactive : o.unit.active = true) :
    v.takeOutputs wasActive o m = v.takePickup.faultSummary m := by
  simp [State.takeOutputs, hmet, hactive, hwas]

theorem State.takeOutputs_of_dropped (hmet : o.elements.any = false) (hwas : wasActive = true) (hactive : o.unit.active = false) :
    v.takeOutputs wasActive o m = ((v.faultSummary m).sequenceAllDropped).faultAllDropped := by
  simp [State.takeOutputs, hmet, hactive, hwas]

end

/-! ## The evaluation at an in-order frame (R15, R20) -/

/-- The state in which the outputs of an evaluation are taken, with the switch read closed. -/
structure EvaluationSeen (unit : OvercurrentUnit) (s w : State) : Prop where
  nothing : w.nothingPending
  oc : w.oc = unit
  seq : w.seq = s.seq
  act : w.act = s.act
  tags : w.tags = s.tags
  supply : w.supply = s.supply
  battery : w.battery = s.battery
  reports : w.reports = s.reports
  store : w.store = s.store
  cmd : w.cmd = s.cmd
  view : w.sample.view = .closed
  stream : w.sample.stream = .valid
  clock : SameClock s w

theorem exec_evaluationFrame {f : SampleFrame} {s : State} (hstream : s.sample.stream = .valid) (hphase : s.sample.phase = 7)
    (hexpected : s.sample.expected = some f.seq) (hview : s.sample.view = .closed)
    (hraw : rawPosition (sampleStatus f.status) = some .closed) (hmark : s.supply.restoreMark = true) (hnothing : s.nothingPending) :
    ∃ w m, EvaluationSeen (s.oc.stepped (s.evalInput
        ((Channels.zip3 pushSum s.mag.sums s.mag.windows (frameSamples f)).map magnitude).currents)) s w ∧
      exec (.sampleFrame f) s = .next (w.takeOutputs s.oc.active (s.oc.evaluate (s.evalInput
        ((Channels.zip3 pushSum s.mag.sums s.mag.windows (frameSamples f)).map magnitude).currents)) m).grant := by
  obtain ⟨hformed, -⟩ := s.frameRead_formed f .valid hnothing
  have hseen := s.frameRead_seen (f := f) hstream hnothing
  have hreadView := s.frameRead_view f .valid
  have hsame : nextView s.sample.view (rawPosition (sampleStatus f.status)) = s.sample.view := by
    rw [hraw, nextView_of_clean (.inl ⟨rfl, hview⟩)]
  have hreadPhase : (s.frameRead f .valid).sample.phase = 0 := by
    rw [hformed.phase, SampleInterface.counted_of_valid hstream, hphase]
  have htake : s.takeSample f = (s.frameRead f .valid).evaluate := by
    rw [State.takeSample_of_inOrder (.inr hstream) hexpected, hstream, State.frameTold_of_same _ hsame,
      State.endInstant_of_eighth hseen.stream hreadPhase]
  have hmags : (s.frameRead f .valid).mag.evaluated.mags = (Channels.zip3 pushSum s.mag.sums s.mag.windows (frameSamples f)).map magnitude := by
    rw [((s.frameRead f .valid).mag.evaluated_fields).2.2.1, hformed.mag]
    rfl
  rw [exec_sampleFrame, htake, State.evaluate_eq, ← hmags]
  generalize (s.frameRead f .valid).mag.evaluated = m
  generalize (s.frameRead f .valid).mag.clip = clip
  generalize s.frameRead f .valid = v at *
  obtain ⟨hnow, hnext, hfree, hpending⟩ := hseen.clock
  have hinput : (v.measured m).evalInput m.mags.currents = s.evalInput m.mags.currents :=
    State.evalInput_congr (by simp [hseen.seq]) (by simp [hseen.store]) (by simp [hseen.tags]) _
  have hunit : (v.measured m).oc = s.oc := by simp [hseen.oc]
  have hrestored : (v.measured m).supply.restoreMark = true := by simp [hseen.supply, hmark]
  refine ⟨(v.measured m).setOc (s.oc.stepped (s.evalInput m.mags.currents)), ⟨m.mags.currents, clip,
    (s.oc.evaluate (s.evalInput m.mags.currents)).channels⟩, ?_, ?_⟩
  · rw [hsame, hview] at hreadView
    exact ⟨by simpa [State.nothingPending, hseen.store] using hnothing, rfl, by simp [hseen.seq], by simp [hseen.act], by simp [hseen.tags],
      by simp [hseen.supply], by simp [hseen.battery], by simp [hseen.reports], by simp [hseen.store], by simp [hseen.cmd],
      by simp [hreadView], by simp [hseen.stream], by simp [SameClock, State.measured, hnow, hnext, hfree, hpending]⟩
  · rw [State.overcurrent, if_pos hrestored, hinput, hunit]
    rfl

/-- With no test running, leaving IDLE changes nothing. -/
theorem State.leaveIdle_of_untested {v : State} (h : v.battery.testState = .idle) : v.leaveIdle = v := by
  unfold State.leaveIdle
  split
  · exact State.abortTest_of_idle _ _ h
  · rfl

section
variable {v : State}

/-- A coordination advance (R48, R57), with the elements QUIET and s below the effective operations-to-lockout. -/
theorem State.coordinationAdvance_effect (hquiet : v.oc.active = false) (hs : v.seq.s + 1 < v.effectiveOps) :
    v.coordinationAdvance.seq = { v.seq with
        state := .reclaim, s := v.seq.s + 1, reclaimCause := .advance, reclaim := startAt v.now (sec (reclaimTime v.governingTable)) } ∧
      v.coordinationAdvance.faults.openRecord = none ∧ DriveOnly v v.coordinationAdvance := by
  have hraised : v.raised = v.seq.s + 1 := by
    refine if_pos ?_
    unfold State.effectiveOps at hs
    split at hs <;> omega
  have htable : ((v.setSeq { v.seq with s := v.raised }).faultClose .coordinated).governingTable = v.governingTable :=
    (State.governing_congr (by simp) (by simp)).2
  refine ⟨?_, ?_, ((State.setSeq_driveOnly _).trans (State.faultClose_driveOnly _)).trans (State.setSeq_driveOnly _)⟩
  · rw [State.coordinationAdvance, State.enterReclaim, State.reclaimTimer, htable]
    simp [hquiet, hraised, State.timer, startAt]
  · simp [State.coordinationAdvance, State.faultClose_openRecord]

theorem State.advanceDue_iff : v.advanceDue = true ↔ entryCoordinating v.governingTable (v.seq.s + 1) = true ∧ v.seq.s + 1 < v.effectiveOps := by
  simp [State.advanceDue]

/-- The all-dropped event with the elements QUIET and nothing pending, by the state and the advance that is due (R48, R57). -/
theorem State.sequenceAllDropped_cases (hquiet : v.oc.active = false) (hnothing : v.nothingPending) (hgroup : v.seq.pendingGroup = none) :
    DriveOnly v v.sequenceAllDropped ∧
      ((v.seq.state = .timing ∨ v.seq.state = .reclaim) → v.advanceDue = true → v.sequenceAllDropped = v.coordinationAdvance) ∧
      (v.seq.state = .timing → v.advanceDue = false → v.sequenceAllDropped = v.idleSeq) ∧
      (v.seq.state = .reclaim → v.advanceDue = false → v.sequenceAllDropped = v.setSeq { v.seq with reclaim := v.reclaimTimer }) ∧
      (v.seq.state ≠ .timing → v.seq.state ≠ .reclaim → v.sequenceAllDropped = v) := by
  have hidle : v.enterIdle = v.idleSeq := by
    rw [State.enterIdle_of_quiet hquiet, State.applyPending_of_nothing v.idleSeq hnothing hgroup]
  have hadvanced : v.advanceDue = true → DriveOnly v v.coordinationAdvance := fun h =>
    (State.coordinationAdvance_effect hquiet (State.advanceDue_iff.1 h).2).2.2
  have hsame : DriveOnly v v := State.setSeq_driveOnly v.seq
  unfold State.sequenceAllDropped
  rw [hidle]
  cases hs : v.seq.state with
  | timing =>
    cases hadv : v.advanceDue with
    | true => simpa using hadvanced hadv
    | false =>
      have hrested : DriveOnly v v.idleSeq := State.setSeq_driveOnly _
      simpa using hrested
  | reclaim =>
    cases hadv : v.advanceDue with
    | true => simpa using hadvanced hadv
    | false => simpa using State.setSeq_driveOnly _
  | init | idle | tripping | dead | closing | lockout | mechFail => simpa using hsame

end

section
variable {unit : OvercurrentUnit} {s w : State} (h : EvaluationSeen unit s w)
include h

theorem EvaluationSeen.governing : w.governing = s.governing ∧ w.governingTable = s.governingTable :=
  State.governing_congr (by rw [h.seq]) h.store

/-- A decision in the closed states that nothing stands against (R49, R71). -/
theorem EvaluationSeen.trips (hstate : s.seq.state = .idle ∨ s.seq.state = .timing ∨ s.seq.state = .reclaim)
    (hs : s.seq.s < opsToLockout s.governingTable) (hlatch : s.act.latch = false) (htrip : s.act.trip = false) (hclose : s.act.close = false)
    (hsup : s.act.supervision = .none) (wasActive : Bool) (o : EvalOutput) (m : Summary) (hmet : o.elements.any = true) {t : State}
    (ht : w.takeOutputs wasActive o m = t) :
    t.oc = unit ∧ t.seq.state = .tripping ∧ t.seq.tripKind = .protection ∧ t.seq.s = s.seq.s + 1 ∧ t.seq.latched = some s.governing ∧
      t.seq.reclaim = none ∧ t.act.trip = true ∧ t.act.tripTimer = startAt s.now (msec (tripPulseWidth s.unit)) ∧
      t.act.supervision = .tripWait ∧ t.act.retry = false ∧
      t.act.confirm = .running ⟨msec (tripConfirmLimit s.unit), s.now + msec (tripConfirmLimit s.unit)⟩ ∧ t.act.close = false ∧
      t.store = s.store := by
  obtain ⟨y, hbasis, hresult⟩ := State.takeOutputs_of_met h.nothing (by rw [h.seq]; exact hstate) wasActive o m hmet
  obtain ⟨hnow, -⟩ := h.clock
  have hyact : y.act = s.act := hbasis.act.trans h.act
  have hynow : y.now = s.now := hbasis.now.trans hnow
  have hyunit : y.unit = s.unit := (State.tables_congr (hbasis.store.trans h.store)).1
  have hygov : y.governing = s.governing := hbasis.governing.trans h.governing.1
  have hytable : y.governingTable = s.governingTable := hbasis.governingTable.trans h.governing.2
  have hys : y.seq.s = s.seq.s := by rw [hbasis.s, h.seq]
  have hraised : y.raised = s.seq.s + 1 := by rw [State.raised, hytable, hys, if_pos (by omega)]
  have hyview : y.sample.view = .closed := hbasis.view.trans h.view
  have hystream : y.sample.stream = .valid := hbasis.stream.trans h.stream
  obtain ⟨hseq, -, -, hstore⟩ := y.enterTripping_of_nothing .protection true hbasis.nothing
  rw [hresult, State.tripFor_of_clear .protection true hbasis.nothing (by rw [hyact]; exact hlatch) (by rw [hyact]; exact hclose)
    (by rw [hyact]; exact htrip) (by rw [hyact, hsup]; decide) (.inl (by rw [hyview]; decide))] at ht
  subst ht
  simp [State.pulseStarted, State.trippedAct, State.timer, startAt, State.confirmFrom, hseq, hbasis.oc, h.oc, hygov, hraised, hynow, hyunit,
    hystream, hyact, hclose, hstore, hbasis.store, h.store]

end

/-! ## The open confirm of a PROTECTION trip (R50, R51, R58) -/

/-- What follows the open confirm of a PROTECTION trip, with the switch recorded open. -/
def State.tripOutcome (w : State) : State :=
  if !w.tags.isEmpty then w.enterLockout .tag else if w.seq.s < w.effectiveOps then w.enterDead else w.enterLockout .operations

theorem TagTable.hotLine_of_isEmpty {t : TagTable} (h : t.isEmpty = true) : t.hotLine = false := by
  have hnone : t.records = [] := List.isEmpty_iff.1 h
  simp [TagTable.hotLine, hnone]

theorem State.tripOutcome_effect (w : State) :
    (w.tripOutcome.seq.s = w.seq.s ∧ w.tripOutcome.seq.recorded = w.seq.recorded ∧ w.tripOutcome.oc = w.oc ∧ w.tripOutcome.act = w.act ∧
      w.tripOutcome.tags = w.tags ∧ w.tripOutcome.supply = w.supply ∧ w.tripOutcome.cmd = w.cmd ∧ w.tripOutcome.store.inFlight = w.store.inFlight ∧
      SameClock w w.tripOutcome) ∧
    (w.tags.isEmpty = false →
      w.tripOutcome.seq.state = .lockout ∧ w.tripOutcome.seq.reason = some .tag ∧ w.tripOutcome.seq.latched = none) ∧
    (w.tags.isEmpty = true → w.seq.s < opsToLockout w.governingTable →
      w.tripOutcome.seq.state = .dead ∧ w.tripOutcome.seq.dead = startAt w.now (msec (10 * deadTime w.governingTable w.seq.s)) ∧
      w.tripOutcome.seq.latched = w.seq.latched) ∧
    (w.tags.isEmpty = true → opsToLockout w.governingTable ≤ w.seq.s →
      w.tripOutcome.seq.state = .lockout ∧ w.tripOutcome.seq.reason = some .operations ∧ w.tripOutcome.seq.latched = none) := by
  have hlock : ∀ reason, ((w.enterLockout reason).seq.s = w.seq.s ∧ (w.enterLockout reason).seq.recorded = w.seq.recorded ∧
      (w.enterLockout reason).oc = w.oc ∧ (w.enterLockout reason).act = w.act ∧ (w.enterLockout reason).tags = w.tags ∧
      (w.enterLockout reason).supply = w.supply ∧ (w.enterLockout reason).cmd = w.cmd ∧
      (w.enterLockout reason).store.inFlight = w.store.inFlight ∧ SameClock w (w.enterLockout reason)) ∧
      (w.enterLockout reason).seq.state = .lockout ∧ (w.enterLockout reason).seq.reason = some reason ∧
      (w.enterLockout reason).seq.latched = none := fun reason => by
    obtain ⟨hstate, hreason, hlatched, -, -, -, hs⟩ := w.enterLockout_lockedOut reason
    exact ⟨⟨hs, State.enterLockout_recorded reason, by simp, by simp, by simp, by simp, by simp, by simp, by simp [SameClock]⟩, hstate, hreason,
      hlatched⟩
  unfold State.tripOutcome
  cases hempty : w.tags.isEmpty with
  | false =>
    obtain ⟨hsame, hlocked⟩ := hlock .tag
    rw [if_pos (by rfl)]
    exact ⟨hsame, fun _ => hlocked, fun h => (by cases h), fun h => (by cases h)⟩
  | true =>
    have hops : w.effectiveOps = opsToLockout w.governingTable := by simp [State.effectiveOps, TagTable.hotLine_of_isEmpty hempty]
    rw [if_neg (by decide), hops]
    by_cases hs : w.seq.s < opsToLockout w.governingTable
    · rw [if_pos hs]
      exact ⟨⟨rfl, rfl, rfl, rfl, rfl, rfl, rfl, rfl, rfl, rfl, rfl, rfl⟩, fun h => (by cases h), fun _ _ => ⟨rfl, rfl, rfl⟩, fun _ h => absurd hs (by omega)⟩
    · obtain ⟨hsame, hlocked⟩ := hlock .operations
      rw [if_neg hs]
      exact ⟨hsame, fun h => (by cases h), fun _ h => absurd h hs, fun _ _ => hlocked⟩

/-- Settles O16: the outputs of the evaluation, and the open confirm. -/
theorem protectionTripsAndConfirms : Obligations.ProtectionTripsAndConfirms := by
  unfold Obligations.ProtectionTripsAndConfirms
  refine ⟨fun f s hstream hphase hexpected hview hraw hmark hnothing hgrant => ?evaluation,
    fun f s hstream hphase hexpected hraw hview hstate hkind hsup hnothing hgrant => ?confirm⟩
  case evaluation =>
    obtain ⟨w, m, hseen, hexec⟩ := exec_evaluationFrame hstream hphase hexpected hview hraw hmark hnothing
    dsimp only
    generalize (Channels.zip3 pushSum s.mag.sums s.mag.windows (frameSamples f)).map magnitude = mags at hseen hexec ⊢
    have hunit : (s.oc.evaluate (s.evalInput mags.currents)).unit = s.oc.stepped (s.evalInput mags.currents) := rfl
    rw [← hunit] at hseen
    generalize s.oc.evaluate (s.evalInput mags.currents) = o at hseen hexec ⊢
    obtain ⟨hnow, hnext, hfree, hpending⟩ := hseen.clock
    refine ⟨fun hmet hstate hs hlatch htrip hclose hsup => ?trip, fun hmet hactive => ?steady, fun hmet hwas hactive htest => ?pickup,
      fun hmet hwas hactive hgroup => ?dropped⟩
    case trip =>
      obtain ⟨hoc, htripping, hkind, hraised, hlatched, hreclaim, hline, htimer, hwait, hretry, hconfirm, hdown, hstore⟩ :=
        hseen.trips hstate hs hlatch htrip hclose hsup s.oc.active o m hmet rfl
      refine ⟨_, hexec, ?_⟩
      generalize hu : w.takeOutputs s.oc.active o m = u at *
      have htags : u.grant.tags = s.tags :=
        State.grant_tags_of_nothing hgrant (by rw [← hu]; simp [hseen.tags]) (by rw [hstore])
      have hblocks : u.supply = s.supply ∧ u.cmd = s.cmd ∧ SameClock s u := by
        rw [← hu]
        simp [SameClock, hseen.supply, hseen.cmd, hnow, hnext, hfree, hpending]
      simpa [hoc, htripping, hkind, hraised, hlatched, hreclaim, hline, htimer, hwait, hretry, hconfirm, hdown, htags, SameClock] using hblocks
    case steady =>
      rw [State.takeOutputs_of_steady hmet hactive, State.grant_of_arrays hgrant (by simp [SameArrays, hseen.tags, hseen.store])] at hexec
      exact ⟨_, hexec, by simp [hseen.oc, SameDrive, SamePower, SameClock, hseen.seq, hseen.act, hseen.supply, hseen.battery, hseen.reports, hseen.tags,
        hseen.cmd, hnow, hnext, hfree, hpending]⟩
    case pickup =>
      have hleave : w.leaveIdle = w := State.leaveIdle_of_untested (by rw [hseen.battery]; exact htest)
      have htiming : w.enterTiming = w.setSeq { w.seq with latched := some w.governing, state := .timing } := by
        rw [State.enterTiming, hleave]
        rfl
      obtain ⟨q, hq, hidle, hreclaim, hother⟩ : ∃ q, w.sequencePickup = w.setSeq q ∧
          (s.seq.state = .idle → q = { s.seq with state := .timing, latched := some s.governing }) ∧
          (s.seq.state = .reclaim → q = { s.seq with reclaim := none }) ∧
          (s.seq.state ≠ .idle → s.seq.state ≠ .reclaim → q = s.seq) := by
        unfold State.sequencePickup
        rw [htiming, hseen.seq, hseen.governing.1]
        cases hs : s.seq.state with
        | idle => exact ⟨_, rfl, by simp, by simp, by simp⟩
        | reclaim => exact ⟨_, rfl, by simp, by simp, by simp⟩
        | init | timing | tripping | dead | closing | lockout | mechFail =>
          exact ⟨s.seq, by rw [← hseen.seq]; rfl, by simp, by simp, by simp⟩
      have htaken : w.takePickup = if q.state = .timing ∨ q.state = .reclaim then (w.setSeq q).faultOpen else w.setSeq q := by
        simp [State.takePickup, hq]
      have hopen : (s.seq.state = .idle ∨ s.seq.state = .timing ∨ s.seq.state = .reclaim) → w.takePickup.faults.openRecord.isSome = true := fun hs => by
        have hstates : q.state = .timing ∨ q.state = .reclaim := by
          rcases hs with hs | hs | hs
          · exact .inl (by rw [hidle hs])
          · exact .inl (by rw [hother (by simp [hs]) (by simp [hs]), hs])
          · exact .inr (by rw [hreclaim hs]; exact hs)
        rw [htaken, if_pos hstates]
        exact State.faultOpen_isSome
      have hblocks : w.takePickup.seq = q ∧ w.takePickup.battery = s.battery ∧ w.takePickup.reports = s.reports ∧ w.takePickup.store = s.store := by
        rw [htaken]
        split <;> simp [hseen.battery, hseen.reports, hseen.store]
      obtain ⟨hseq, hbattery, hreports, hstore⟩ := hblocks
      rw [State.takeOutputs_of_pickup hmet hwas hactive, State.grant_of_arrays hgrant (by simp [SameArrays, hseen.tags, hstore])] at hexec
      refine ⟨_, hexec, by simp [hseen.oc], by simp [hseen.act], ?_⟩
      simp only [State.faultSummary_frame, hseq]
      exact ⟨hidle, hreclaim, hother, fun hs => by simpa [State.faultSummary] using hopen hs,
        by simp [SamePower, hseen.supply, hbattery], hreports, by simp [hseen.tags], by simp [hseen.cmd],
        by simp [SameClock, hnow, hnext, hfree, hpending]⟩
    case dropped =>
      generalize hd : w.faultSummary m = d
      have hds : d.seq = s.seq ∧ d.oc = o.unit ∧ d.act = s.act ∧ d.tags = s.tags ∧ d.supply = s.supply ∧ d.battery = s.battery ∧
          d.reports = s.reports ∧ d.store = s.store ∧ d.cmd = s.cmd ∧ SameClock s d ∧ d.nothingPending := by
        subst hd
        simp [SameClock, hseen.seq, hseen.oc, hseen.act, hseen.tags, hseen.supply, hseen.battery, hseen.reports, hseen.store, hseen.cmd, hnow, hnext,
          hfree, hpending, State.nothingPending]
        exact hnothing
      obtain ⟨hdseq, hdoc, hdact, hdtags, hdsupply, hdbattery, hdreports, hdstore, hdcmd, ⟨hdnow, hdnext, hdfree, hdpending⟩, hdnothing⟩ := hds
      obtain ⟨hdgov, hdtable⟩ := State.governing_congr (s := s) (t := d) (by rw [hdseq]) hdstore
      have hadvance : d.advanceDue = true ↔
          entryCoordinating s.governingTable (s.seq.s + 1) = true ∧ s.seq.s + 1 < s.effectiveOps := by
        simp [State.advanceDue, State.effectiveOps, hdtable, hdseq, hdtags]
      have htimer : startAt d.now (sec (reclaimTime d.governingTable)) = startAt s.now (sec (reclaimTime s.governingTable)) := by rw [hdnow, hdtable]
      have hdquiet : d.oc.active = false := by rw [hdoc]; exact hactive
      obtain ⟨hdrive, hadvanced, hidled, hreclaimed, hstayed⟩ := State.sequenceAllDropped_cases hdquiet hdnothing (by rw [hdseq]; exact hgroup)
      rw [hdseq] at hadvanced hidled hreclaimed hstayed
      obtain ⟨-, -, ⟨-, hbattery⟩, ⟨-, hstore⟩, -⟩ := hdrive
      rw [State.takeOutputs_of_dropped hmet hwas hactive, hd,
        State.grant_of_arrays hgrant (by simp [SameArrays, hdtags, hstore, hdstore])] at hexec
      refine ⟨_, hexec, by simp [hdoc], by simp [hdact], fun hs hadv => ?_, fun hs hadv => ?_, fun hs hadv => ?_, fun hs1 hs2 => ?_,
        by simp [SamePower, hdsupply, hbattery, hdbattery], by simp [hdtags], by simp [hdcmd], by simp [SameClock, hdnow, hdnext, hdfree, hdpending]⟩
      · have hdue := hadvance.2 hadv
        obtain ⟨haseq, hafaults, -⟩ := State.coordinationAdvance_effect hdquiet (State.advanceDue_iff.1 hdue).2
        rw [hadvanced hs hdue]
        refine ⟨by simp [haseq, hdseq, htimer], ?_⟩
        simp [State.faultAllDropped, hafaults]
      · rw [hidled hs (by simpa using fun h => hadv (hadvance.1 h))]
        simp [State.idleSeq, SequenceController.timersStopped, hdseq, hdreports]
      · rw [hreclaimed hs (by simpa using fun h => hadv (hadvance.1 h))]
        simp [State.reclaimTimer, State.timer, startAt, hdreports, hdnow, hdtable]
      · rw [hstayed hs1 hs2]
        simp [hdseq, hdreports]
  case confirm =>
    have hchanged : nextView s.sample.view (rawPosition (sampleStatus f.status)) ≠ s.sample.view := by
      rw [hraw]
      exact Ne.symm hview
    obtain ⟨v, hexec, hseen, hvview⟩ := exec_viewFrame hstream hphase hexpected hnothing hchanged
    rw [hraw] at hvview
    have hopened : v.sample.view = .opened := hvview
    have hvnothing : v.nothingPending := by
      rw [State.nothingPending, hseen.store]
      exact hnothing
    obtain ⟨-, -, hkept⟩ := State.viewChanged_keepsPath hvnothing
    obtain ⟨-, -, -, -, -, -, -, -, hkeptView⟩ := hkept
    generalize hw : (v.setAct { v.act with confirm := .stopped, supervision := .none, retry := false }).recordOpen = w
    have hchange : v.viewChanged = w.tripOutcome.faultClose .tripped := by
      have hseq : v.sequenceViewChange = v := by simp [State.sequenceViewChange, hseen.seq, hstate]
      have htest : v.viewChanged = (v.setAct { v.act with confirm := .stopped, supervision := .none, retry := false }).openConfirm := by
        have hconfirmed : v.tripTest = (v.setAct { v.act with confirm := .stopped, supervision := .none, retry := false }).openConfirm :=
          if_pos ⟨by rw [hseen.act]; exact hsup, hopened, hseen.live⟩
        rw [← hconfirmed, State.viewChanged, hseq, State.confirmTest, hseen.act, hsup]
      rw [htest, State.openConfirm, if_pos (by simp [hseen.seq, hstate]), ← hw]
      simp [hseen.seq, hkind, State.tripOutcome]
    have hws : w.seq.s = s.seq.s ∧ w.seq.latched = s.seq.latched ∧ w.seq.state = .tripping ∧ w.seq.recorded = some .opened ∧ w.oc = clearedOvercurrent ∧
        w.act = { s.act with confirm := .stopped, supervision := .none, retry := false } ∧ w.tags = s.tags ∧ w.store = s.store ∧
        w.now = s.now ∧ w.supply = s.supply ∧ w.cmd = s.cmd ∧ SameClock s w := by
      obtain ⟨hs1, -, hs2, hs3, -⟩ := (v.setAct { v.act with confirm := .stopped, supervision := .none, retry := false }).recordOpen_seq
      obtain ⟨hrec, hoc, -⟩ := (v.setAct { v.act with confirm := .stopped, supervision := .none, retry := false }).recordOpen_recorded
      obtain ⟨hnow, hnext, hfree, hpending⟩ := hseen.clock
      subst hw
      refine ⟨by rw [hs2]; simp [hseen.seq], by rw [hs3]; simp [hseen.seq], by rw [hs1]; simp [hseen.seq, hstate], hrec, hoc, by simp [hseen.act],
        by simp [hseen.tags], by simp [hseen.store], by simp [hnow], by simp [hseen.supply], by simp [hseen.cmd],
        by simp [SameClock, hnow, hnext, hfree, hpending]⟩
    obtain ⟨hwseq, hwlatched, hwstate, hwrecorded, hwoc, hwact, hwtags, hwstore, hwnow, hwsupply, hwcmd, hwnow', hwnext, hwfree, hwpending⟩ := hws
    have htable : w.governingTable = s.governingTable := (State.governing_congr hwlatched hwstore).2
    obtain ⟨⟨hos, horec, hooc, hoact, hotags, hosupply, hocmd, hojob, honow, honext, hofree, hopending⟩, htag, hdead, hlast⟩ := w.tripOutcome_effect
    rw [hwtags] at htag hdead hlast
    rw [htable, hwseq] at hdead hlast
    rw [hwnow, hwlatched] at hdead
    rw [hchange] at hexec hkeptView
    have htags : (w.tripOutcome.faultClose .tripped).grant.tags = s.tags :=
      State.grant_tags_of_nothing hgrant (by simp [hotags, hwtags]) (by simp [hojob, hwstore])
    refine ⟨_, hexec, by simpa [hopened] using hkeptView, by simp [horec, hwrecorded], by simp [hooc, hwoc], by simp [hoact, hwact], by simp [hoact, hwact],
      by simp [hoact, hwact], ?_, by simp [hos, hwseq], fun h => by simpa using htag h, fun h hs => by simpa using hdead h hs,
      fun h hs => by simpa using hlast h hs, by simp [hosupply, hwsupply], htags, by simp [hocmd, hwcmd], ?_⟩
    · simp [State.faultClose_openRecord]
    · simp [SameClock, honow, hwnow, honext, hwnext, hofree, hwfree, hopending, hwpending]

end Sys2Proof.Machine
end

