-- ==== Sys2Proof/Proofs/Roundtrip.lean ====
section
/-! Inbound frames: the bytes of a frame are received as what its payload spells (R171, R180, R181; O60). -/

namespace Sys2Proof.Machine

/-! ## The receiver (R181) -/

theorem Receiver.feedAll_append (link : LinkId) (rx : Receiver) (xs ys : List Byte) :
    rx.feedAll link (xs ++ ys) =
      (((rx.feedAll link xs).1.feedAll link ys).1, (rx.feedAll link xs).2 ++ ((rx.feedAll link xs).1.feedAll link ys).2) := by
  induction xs generalizing rx with
  | nil => rfl
  | cons x xs ih =>
    rw [List.cons_append, Receiver.feedAll, ih]
    simp [Receiver.feedAll]

/-- A stuffed byte is collected as itself (R180). -/
theorem Receiver.feedAll_stuffByte (link : LinkId) (bytes : List Byte) (b : Byte) :
    Receiver.feedAll link (.collecting bytes false) (stuffByte b) =
      ((collect link (bytes ++ [b])).1, (collect link (bytes ++ [b])).2.toList) := by
  unfold stuffByte
  split
  · next h => simp [Receiver.feedAll, Receiver.feed, delimiter, h]
  · split
    · next h => simp [Receiver.feedAll, Receiver.feed, delimiter, h]
    · next hdelimiter hescape =>
      have hfeed : Receiver.feed link (.collecting bytes false) b = collect link (bytes ++ [b]) := by
        rw [Receiver.feed, delimiter, if_neg hdelimiter, if_neg (by decide), if_neg hescape]
      simp [Receiver.feedAll, hfeed]

/-- The bytes of a frame that is still in progress. -/
def Unfinished (link : LinkId) (bytes : List Byte) : Prop := collect link bytes = (.collecting bytes false, none)

/-- Bytes each of which leaves the frame in progress. -/
theorem Receiver.feedAll_unfinished (link : LinkId) (xs : List Byte) :
    ∀ bytes, (∀ n, n < xs.length → Unfinished link (bytes ++ xs.take (n + 1))) →
      Receiver.feedAll link (.collecting bytes false) (xs.flatMap stuffByte) = (.collecting (bytes ++ xs) false, []) := by
  induction xs with
  | nil => intro bytes _; simp [Receiver.feedAll]
  | cons x xs ih =>
    intro bytes h
    have hfirst : collect link (bytes ++ [x]) = (.collecting (bytes ++ [x]) false, none) := h 0 (by simp)
    have hrest := ih (bytes ++ [x]) fun n hn => by simpa using h (n + 1) (by simpa using hn)
    rw [List.flatMap_cons, Receiver.feedAll_append, Receiver.feedAll_stuffByte, hfirst, hrest]
    simp

section
variable {link : LinkId} {kind : Byte} {payload : List Byte}

/-- A frame with the length its kind gives, and a link that carries it, is in progress until its last byte. -/
theorem unfinished_of_carries (hcarries : carries link kind = true) (hlength : lengthOk kind payload.length = true)
    (hshort : payload.length < 256) (crc : List Byte) (hcrc : crc.length = 1) :
    ∀ n, n < (kind :: BitVec.ofNat 8 payload.length :: payload ++ crc).length →
      Unfinished link ([] ++ (kind :: BitVec.ofNat 8 payload.length :: payload ++ crc).take (n + 1)) := by
  intro n hn
  have hlen : (BitVec.ofNat 8 payload.length).toNat = payload.length := by simp; omega
  cases n with
  | zero => simp [Unfinished, collect, hcarries]
  | succ n =>
    have hrest : ((payload ++ crc).take n).length < payload.length + 2 := by simp [hcrc]
    simp only [List.nil_append, List.cons_append, List.take_succ_cons, Unfinished, collect, hlen, hlength]
    rw [if_neg (by decide), if_pos hrest]

/-- A whole frame is what its payload spells (R181). -/
theorem parseFrame_of_payload {i : Instr} (hparse : parsePayload kind payload = some i) (hshort : payload.length < 256) :
    parseFrame (kind :: BitVec.ofNat 8 payload.length :: payload ++ encWord (crc16 (kind :: BitVec.ofNat 8 payload.length :: payload))) = some i := by
  have hlen : (BitVec.ofNat 8 payload.length).toNat = payload.length := by simp; omega
  simp [parseFrame, hlen, hparse]

/-- The bytes of a frame are received as what its payload spells. -/
theorem feedAll_wire {i : Instr} (hcarries : carries link kind = true) (hlength : lengthOk kind payload.length = true)
    (hshort : payload.length < 256) (hparse : parsePayload kind payload = some i) :
    Receiver.feedAll link .hunting (OutFrame.wire ⟨kind, payload⟩) = (.hunting, [i]) := by
  have hlen : (BitVec.ofNat 8 payload.length).toNat = payload.length := by simp; omega
  generalize hcrc : crc16 (kind :: BitVec.ofNat 8 payload.length :: payload) = crc
  have hbytes : OutFrame.unstuffed ⟨kind, payload⟩ =
      (kind :: BitVec.ofNat 8 payload.length :: payload ++ [hiByte crc]) ++ [loByte crc] := by
    simp [OutFrame.unstuffed, OutFrame.covered, encWord, hcrc]
  have hwhole := parseFrame_of_payload hparse hshort
  rw [hcrc] at hwhole
  have hlast : collect link ((kind :: BitVec.ofNat 8 payload.length :: payload ++ [hiByte crc]) ++ [loByte crc]) = (.hunting, some i) := by
    have hsame : (kind :: BitVec.ofNat 8 payload.length :: payload ++ [hiByte crc]) ++ [loByte crc] =
        kind :: BitVec.ofNat 8 payload.length :: (payload ++ encWord crc) := by simp [encWord]
    rw [hsame] at *
    have hrest : ¬ (payload ++ encWord crc).length < (BitVec.ofNat 8 payload.length).toNat + 2 := by simp [hlen, encWord]
    rw [collect, hlen, if_neg (by simp [hlength]), if_neg (by rw [hlen] at hrest; exact hrest)]
    rw [show kind :: BitVec.ofNat 8 payload.length :: (payload ++ encWord crc) = kind :: BitVec.ofNat 8 payload.length :: payload ++ encWord crc from rfl,
      hwhole]
    rfl
  have hstart : Receiver.feedAll link .hunting (OutFrame.wire ⟨kind, payload⟩) =
      Receiver.feedAll link (.collecting [] false) ((OutFrame.unstuffed ⟨kind, payload⟩).flatMap stuffByte) := by
    simp [OutFrame.wire, Receiver.feedAll, Receiver.feed]
  rw [hstart, hbytes, List.flatMap_append, Receiver.feedAll_append,
    Receiver.feedAll_unfinished link _ [] (unfinished_of_carries hcarries hlength hshort _ rfl), List.nil_append, List.flatMap_singleton,
    Receiver.feedAll_stuffByte, hlast]
  rfl

end

/-! ## Fields read back (spec/11 section 11.3) -/

@[simp] theorem wordOf_bytes (w : Word) : wordOf (hiByte w) (loByte w) = w :=
  BitVec.extractLsb'_append_extractLsb' (w := 8) (len := 8)

@[simp] theorem longOf_bytes (l : Long) :
    longOf (l.extractLsb' 24 8) (l.extractLsb' 16 8) (l.extractLsb' 8 8) (l.extractLsb' 0 8) = l := by
  have hhigh : l.extractLsb' 24 8 ++ l.extractLsb' 16 8 = l.extractLsb' 16 16 :=
    BitVec.extractLsb'_append_extractLsb'_eq_extractLsb' (len₂ := 8) rfl
  have hlow : l.extractLsb' 8 8 ++ l.extractLsb' 0 8 = l.extractLsb' 0 16 :=
    BitVec.extractLsb'_append_extractLsb'_eq_extractLsb' (len₂ := 8) rfl
  rw [longOf, hhigh, hlow]
  exact BitVec.extractLsb'_append_extractLsb' (w := 16) (len := 16)

@[simp] theorem wordsOf_encWord (ws : List Word) : wordsOf (ws.flatMap encWord) = some ws := by
  induction ws with
  | nil => rfl
  | cons w ws ih => simp [encWord, wordsOf, ih]

theorem flatMap_encWord_length (ws : List Word) : (ws.flatMap encWord).length = 2 * ws.length := by
  induction ws with
  | nil => rfl
  | cons w ws ih =>
    rw [List.flatMap_cons, List.length_append, ih, List.length_cons, encWord]
    simp
    omega

theorem originOf_code (o : Origin) : originOf (BitVec.ofNat 8 (originCode o)) = some o := by
  cases o <;> rfl

/-! ## Payloads read back (R171) -/

theorem parseBody_tableData (r : Req) (o n : Byte) (rest : List Byte) :
    parseBody r 5 (o :: n :: rest) = (countedWords n rest).map (.tableData r o ·) := (rfl)

/-- A TABLE_DATA body gives its words back, up to 48 (R171). -/
theorem countedWords_encWord {ws : List Word} (h : ws.length ≤ 48) :
    countedWords (BitVec.ofNat 8 ws.length) (ws.flatMap encWord) = some ws := by
  have hcount : (BitVec.ofNat 8 ws.length).toNat = ws.length := by simp; omega
  rw [countedWords, hcount, if_pos ⟨h, flatMap_encWord_length ws⟩, wordsOf_encWord]

/-- The kind of a well-formed request reads its body as the request. -/
theorem parseRequest_requestBody {i : Instr} {r : Req} {kind : Byte} {body : List Byte} (hwf : WellFormed i = true)
    (hbody : requestBody i = some (r, kind, body)) : parseRequest r kind body = i.asReceived := by
  cases i with
  | tableData q o ws =>
    cases hbody
    have hcount : ws.length ≤ 48 := of_decide_eq_true hwf
    have hread : parseBody r 5 (o :: BitVec.ofNat 8 ws.length :: ws.flatMap encWord) = some (.tableData r o ws) := by
      rw [parseBody_tableData, countedWords_encWord hcount]
      rfl
    exact congrArg (Option.getD · _) hread
  | badRequest q k b =>
    cases hbody
    obtain ⟨-, hnone⟩ : decide (body.length ≤ 117) = true ∧ (parseBody r kind.toNat body).isNone = true := Bool.and_eq_true_iff.1 hwf
    rw [parseRequest, Option.isNone_iff_eq_none.1 hnone]
    rfl
  | timeSet q v => cases hbody; exact congrArg (Instr.timeSet r) (longOf_bytes v)
  | select q t k => cases hbody; exact congrArg (Instr.select r t) (wordOf_bytes k)
  | operateOpen q k | operateClose q k | operateRestart q k | operateNoSelect q k =>
    cases hbody; exact congrArg (Instr.operateNoSelect r) (wordOf_bytes k)
  | tagPlace q c k => cases hbody; exact congrArg (Instr.tagPlace r · k) (wordOf_bytes c)
  | tagRemove q c => cases hbody; exact congrArg (Instr.tagRemove r) (wordOf_bytes c)
  | reportAck q n => cases hbody; exact congrArg (Instr.reportAck r) (wordOf_bytes n)
  | faultRead q n => cases hbody; exact congrArg (Instr.faultRead r) (wordOf_bytes n)
  | statusRead | tableUnlock | tableBegin | tableCommit | tableAbort | tableRead | groupSelect | tagList | batteryTest | reportPoll =>
    cases hbody; rfl
  | _ => cases hbody

/-- The body of a well-formed request has at most 117 bytes. -/
theorem requestBody_length {i : Instr} {r : Req} {kind : Byte} {body : List Byte} (hwf : WellFormed i = true)
    (hbody : requestBody i = some (r, kind, body)) : body.length ≤ 117 := by
  cases i with
  | tableData q o ws =>
    cases hbody
    have hcount : ws.length ≤ 48 := of_decide_eq_true hwf
    simp only [List.length_cons, flatMap_encWord_length]
    omega
  | badRequest q k b =>
    cases hbody
    exact of_decide_eq_true (Bool.and_eq_true_iff.1 hwf).1
  | timeSet | select | operateOpen | operateClose | operateRestart | operateNoSelect | tagPlace | tagRemove | reportAck | faultRead
  | statusRead | tableUnlock | tableBegin | tableCommit | tableAbort | tableRead | groupSelect | tagList | batteryTest | reportPoll =>
    cases hbody; simp [encWord, encLong]
  | _ => cases hbody

theorem requestPayload_received {i : Instr} {payload : List Byte} (hwf : WellFormed i = true) (hpayload : requestPayload i = some payload) :
    parsePayload 0x22 payload = some i.asReceived ∧ 3 ≤ payload.length ∧ payload.length ≤ 120 := by
  obtain ⟨⟨r, kind, body⟩, hbody, rfl⟩ := Option.map_eq_some_iff.1 hpayload
  have hparse := parseRequest_requestBody hwf hbody
  have hmost := requestBody_length hwf hbody
  refine ⟨?_, by simp, by simp; omega⟩
  simp [parsePayload, kindSample, kindCabinet, parseRequestPayload, originOf_code, hparse]

/-- Settles O60: the receiver gives back what the payload spells. -/
theorem inboundFramesRoundTrip : Obligations.InboundFramesRoundTrip := by
  unfold Obligations.InboundFramesRoundTrip
  refine ⟨fun i payload hwf hpayload => ?_, fun f => ?_, fun f => ?_⟩
  · obtain ⟨hparse, hleast, hmost⟩ := requestPayload_received hwf hpayload
    exact feedAll_wire rfl (by simp [lengthOk, kindSample, kindCabinet, hleast, hmost]) (by omega) hparse
  · exact feedAll_wire rfl rfl (by simp [samplePayload, encWord]) (by simp [parsePayload, kindSample, samplePayload, parseSample, encWord])
  · exact feedAll_wire rfl rfl (by simp [cabinetPayload, encWord]) (by simp [parsePayload, kindSample, kindCabinet, cabinetPayload, parseCabinet, encWord])

end Sys2Proof.Machine
end

