-- ==== Sys2Proof/Proofs/Restore.lean ====
section
/-! What the sequence, the actuator and the power state leave of the Table Store and the Battery Unit after the images of a restore have
been put into force (R167, R168). -/

namespace Sys2Proof.Machine

/-- The values that a state record holds, and the test state, are the same. -/
def BatteryUnit.SameValues (a b : BatteryUnit) : Prop :=
  a.q = b.q ∧ a.heldQ = b.heldQ ∧ a.health = b.health ∧ a.lastResult = b.lastResult ∧ a.lastTime = b.lastTime ∧
    a.failCount = b.failCount ∧ a.testState = b.testState

theorem BatteryUnit.SameValues.refl (a : BatteryUnit) : a.SameValues a := ⟨rfl, rfl, rfl, rfl, rfl, rfl, rfl⟩

theorem BatteryUnit.SameValues.trans {a b c : BatteryUnit} (h : b.SameValues a) (k : c.SameValues b) : c.SameValues a := by
  obtain ⟨h1, h2, h3, h4, h5, h6, h7⟩ := h
  obtain ⟨k1, k2, k3, k4, k5, k6, k7⟩ := k
  exact ⟨k1.trans h1, k2.trans h2, k3.trans h3, k4.trans h4, k5.trans h5, k6.trans h6, k7.trans h7⟩

/-- Of the Table Store the active group and its write at most have changed, of the Report Queue its records; at rest neither the
Table Store nor the values of the Battery Unit. -/
structure TablesKept (u t : State) : Prop where
  nothing : t.nothingPending
  store : ∃ g w, t.store = { u.store with activeGroup := g, recordWaiting := w }
  budget : t.reports.budget = u.reports.budget
  statusTimer : t.reports.statusTimer = u.reports.statusTimer
  rest : u.AtRest → t.AtRest ∧ t.store = u.store ∧ t.battery.SameValues u.battery

theorem TablesKept.trans {u t v : State} (h : TablesKept u t) (k : TablesKept t v) : TablesKept u v := by
  obtain ⟨g, w, hstore⟩ := h.store
  obtain ⟨g', w', kstore⟩ := k.store
  refine ⟨k.nothing, ⟨g', w', by rw [kstore, hstore]⟩, k.budget.trans h.budget, k.statusTimer.trans h.statusTimer, fun hu => ?_⟩
  obtain ⟨ht, hs, hb⟩ := h.rest hu
  obtain ⟨hv, hs', hb'⟩ := k.rest ht
  exact ⟨hv, hs'.trans hs, hb.trans hb'⟩

/-- The supply judged at the end of START (R110). -/
def State.startQualified (u : State) : State :=
  u.setSupply { u.supply with qualification := if u.supply.present then .qualified else .unqualified, qualifyTimer := none }

theorem State.endStart_eq (u : State) : u.endStart =
    if u.supply.present then u.startQualified.changePower .normal .startDone
    else if u.batteryLow then u.startQualified.changePower .conserve (u.lowCause .socLow)
    else u.startQualified.changePower .carry .startDone := (rfl)

section
variable {u t : State} (h : u.nothingPending)
include h

theorem TablesKept.of_same (hstore : t.store = u.store) (hvalues : t.battery.SameValues u.battery) (hgroup : t.seq.pendingGroup = u.seq.pendingGroup)
    (hbudget : t.reports.budget = u.reports.budget) (htimer : t.reports.statusTimer = u.reports.statusTimer) : TablesKept u t := by
  have hnothing : t.nothingPending := by
    rw [State.nothingPending, hstore]
    exact h
  have htest : t.battery.testState = u.battery.testState := by
    obtain ⟨-, -, -, -, -, -, htest⟩ := hvalues
    exact htest
  exact ⟨hnothing, ⟨_, _, hstore⟩, hbudget, htimer,
    fun hu => ⟨⟨hnothing, hgroup.trans hu.group, htest.trans hu.test⟩, hstore, hvalues⟩⟩

theorem TablesKept.of_eq (hstore : t.store = u.store) (hbattery : t.battery = u.battery) (hgroup : t.seq.pendingGroup = u.seq.pendingGroup)
    (hreports : t.reports.budget = u.reports.budget ∧ t.reports.statusTimer = u.reports.statusTimer) : TablesKept u t :=
  .of_same h hstore (by rw [hbattery]; exact .refl _) hgroup hreports.1 hreports.2

theorem TablesKept.refl : TablesKept u u := .of_eq h rfl rfl rfl ⟨rfl, rfl⟩

theorem TablesKept.andIf {c : Prop} [Decidable c] (k : c → TablesKept u t) : TablesKept u (if c then t else u) := by
  split
  · next hc => exact k hc
  · exact .refl h

/-! ## The sequence -/

theorem State.report_tablesKept (cls : Nat) (body : ReportBody) : TablesKept u (u.report cls body) :=
  .of_eq h rfl rfl rfl ⟨by simp [State.report], by simp [State.report]⟩

theorem State.leaveIdle_tablesKept : TablesKept u u.leaveIdle := by
  obtain ⟨-, -, hstore⟩ := u.leaveIdle_of_nothingPending h
  have hreports : u.leaveIdle.reports.budget = u.reports.budget ∧ u.leaveIdle.reports.statusTimer = u.reports.statusTimer := by
    unfold State.leaveIdle
    split
    · by_cases hrun : u.battery.testState = .running
      · rw [State.abortTest_of_nothing _ _ hrun h]
        simp [State.report]
      · rw [State.abortTest, if_neg hrun]
        exact ⟨rfl, rfl⟩
    · exact ⟨rfl, rfl⟩
  have hnothing : u.leaveIdle.nothingPending := by
    rw [State.nothingPending, hstore]
    exact h
  exact ⟨hnothing, ⟨_, _, hstore⟩, hreports.1, hreports.2, fun hu => by rw [hu.leaveIdle]; exact ⟨hu, rfl, .refl _⟩⟩

theorem State.applyPending_tablesKept : TablesKept u u.applyPending := by
  have hstore : ∃ g w, u.applyGroup.store = { u.store with activeGroup := g, recordWaiting := w } := by
    unfold State.applyGroup State.makeActive
    split
    · exact ⟨_, _, rfl⟩
    · split
      · exact ⟨_, _, rfl⟩
      · exact ⟨_, _, rfl⟩
  obtain ⟨g, w, hgroup⟩ := hstore
  obtain ⟨-, -, -, -, -, -, hreports⟩ := u.applyGroup_taken
  have htimer : u.afterGroupReport.statusTimer = u.reports.statusTimer := by
    unfold State.afterGroupReport
    split <;> simp
  rw [u.applyPending_of_none fun hp => h hp.1]
  refine ⟨by rw [State.nothingPending, hgroup]; exact h, ⟨g, w, hgroup⟩, by rw [hreports, u.afterGroupReport_budget], by rw [hreports, htimer],
    fun hu => ?_⟩
  have hsame : u.applyGroup = u := by simp [State.applyGroup, hu.group]
  rw [hsame]
  exact ⟨hu, rfl, .refl _⟩

theorem State.setSeq_tablesKept {q : SequenceController} (hq : q.pendingGroup = u.seq.pendingGroup) : TablesKept u (u.setSeq q) :=
  .of_eq h rfl rfl hq ⟨rfl, rfl⟩

theorem State.setAct_tablesKept (a : ActuatorControl) : TablesKept u (u.setAct a) := .of_eq h rfl rfl rfl ⟨rfl, rfl⟩

theorem State.enterLockout_tablesKept (reason : LockoutReason) : TablesKept u (u.enterLockout reason) :=
  have hleft := State.leaveIdle_tablesKept h
  have hset := hleft.trans (State.setSeq_tablesKept hleft.nothing (q := { u.leaveIdle.seq.timersStopped with
    state := .lockout, reason := some reason, latched := none }) rfl)
  have hpend := hset.trans (State.applyPending_tablesKept hset.nothing)
  hpend.trans (State.report_tablesKept hpend.nothing _ _)

theorem State.enterTiming_tablesKept : TablesKept u u.enterTiming :=
  have hleft := State.leaveIdle_tablesKept h
  hleft.trans (.of_eq hleft.nothing rfl rfl rfl ⟨rfl, rfl⟩)

theorem State.enterTripping_tablesKept (kind : TripKind) (raise : Bool) : TablesKept u (u.enterTripping kind raise) :=
  have hleft := State.leaveIdle_tablesKept h
  hleft.trans (.of_eq hleft.nothing rfl rfl rfl ⟨rfl, rfl⟩)

theorem State.faultOpen_tablesKept : TablesKept u u.faultOpen := .of_eq h (by simp) (by simp) (by simp) (by simp)

theorem State.faultClose_tablesKept (outcome : FaultOutcome) : TablesKept u (u.faultClose outcome) := by
  refine .of_eq h (by simp) (by simp) (by simp) ?_
  unfold State.faultClose
  split
  · exact ⟨rfl, rfl⟩
  · simp [State.report]

theorem State.recordOpen_tablesKept : TablesKept u u.recordOpen := .of_eq h (by simp) (by simp) u.recordOpen_seq.2.1 (by simp)

theorem State.recordClosed_tablesKept (cause : Option CloseCause) : TablesKept u (u.recordClosed cause) := by
  refine .of_eq h (by simp) (by simp) ?_ (by simp)
  rw [State.recordClosed_seq]
  split <;> rfl

theorem State.enterIdle_tablesKept : TablesKept u u.enterIdle := by
  have hset : TablesKept u u.idleSeq := State.setSeq_tablesKept h rfl
  have hpend := hset.trans (State.applyPending_tablesKept hset.nothing)
  have htiming := State.enterTiming_tablesKept hpend.nothing
  exact hpend.trans (.andIf hpend.nothing fun _ => htiming.trans (State.faultOpen_tablesKept htiming.nothing))

theorem State.openedLockout_tablesKept (reason : LockoutReason) : TablesKept u (u.recordOpen.enterLockout reason) :=
  have hopen := State.recordOpen_tablesKept h
  hopen.trans (State.enterLockout_tablesKept hopen.nothing reason)

theorem State.initTest_tablesKept : TablesKept u u.initTest := by
  refine .andIf h fun _ => ?_
  split
  · have hclosed := State.recordClosed_tablesKept h none
    exact hclosed.trans (State.enterIdle_tablesKept hclosed.nothing)
  · exact .andIf h fun _ => State.openedLockout_tablesKept h _

theorem State.openConfirm_tablesKept : TablesKept u u.openConfirm := by
  have hlock : ∀ reason outcome, TablesKept u ((u.recordOpen.enterLockout reason).faultClose outcome) := fun reason outcome =>
    have hopened := State.openedLockout_tablesKept h reason
    hopened.trans (State.faultClose_tablesKept hopened.nothing _)
  have hdead : TablesKept u (u.recordOpen.enterDead.faultClose .tripped) :=
    have hopen := State.recordOpen_tablesKept h
    have hset := hopen.trans (State.setSeq_tablesKept hopen.nothing (q := { u.recordOpen.seq with state := .dead, dead := u.recordOpen.deadTimer }) rfl)
    hset.trans (State.faultClose_tablesKept hset.nothing _)
  refine .andIf h fun _ => ?_
  cases u.seq.tripKind with
  | protection =>
    dsimp only
    split
    · exact hlock _ _
    · split
      · exact hdead
      · exact hlock _ _
  | startup => exact State.openedLockout_tablesKept h _
  | manual => exact hlock _ _
  | sensor => exact hlock _ _

/-! ## A close line that a tag drops (R82) -/

theorem State.tripStart_tablesKept : TablesKept u u.tripStart := by
  unfold State.tripStart
  cases u.seq.state with
  | closing | reclaim | idle | timing => exact State.enterTripping_tablesKept h _ _
  | init | tripping | dead | lockout | mechFail => exact .refl h

theorem State.tripTest_tablesKept : TablesKept u u.tripTest := by
  refine .andIf h fun _ => ?_
  have hset := State.setAct_tablesKept h { u.act with confirm := .stopped, supervision := .none, retry := false }
  exact hset.trans (State.openConfirm_tablesKept hset.nothing)

theorem State.startTrip_tablesKept (reported : Bool) : TablesKept u (u.startTrip reported) := by
  have hstarted : TablesKept u (u.setAct u.trippedAct).pulseStarted := .of_eq h rfl rfl rfl ⟨rfl, rfl⟩
  have hreported : TablesKept u (if reported = true then (u.setAct u.trippedAct).pulseStarted.tripStart else (u.setAct u.trippedAct).pulseStarted) :=
    hstarted.trans (.andIf hstarted.nothing fun _ => State.tripStart_tablesKept hstarted.nothing)
  exact hreported.trans (State.tripTest_tablesKept hreported.nothing)

theorem State.endClosePulse_tablesKept : TablesKept u u.endClosePulse := by
  have hdrop : TablesKept u u.dropClose := .of_eq h (by simp) (by simp) (by simp) (by simp)
  exact hdrop.trans (.andIf hdrop.nothing fun _ => State.startTrip_tablesKept hdrop.nothing _)

theorem State.tagEntry_tablesKept : TablesKept u u.tagEntry := by
  have htaken : TablesKept u u.sequenceTagEntry := .andIf h fun _ => State.enterLockout_tablesKept h _
  exact htaken.trans (.andIf htaken.nothing fun _ => State.endClosePulse_tablesKept htaken.nothing)

/-! ## The end of START (R110) -/

theorem State.setBattery_tablesKept {b : BatteryUnit} (hb : b.SameValues u.battery) : TablesKept u (u.setBattery b) :=
  .of_same h rfl hb rfl rfl rfl

theorem State.chargerUpdate_tablesKept : TablesKept u u.chargerUpdate :=
  .of_same h (by simp) (by simp [BatteryUnit.SameValues]) (by simp) (by simp) (by simp)

theorem State.setCharge_tablesKept (c : ChargeState) : TablesKept u (u.setCharge c) :=
  .of_same h (by simp) (by simp [BatteryUnit.SameValues]) (by simp) (by simp) (by simp)

theorem State.noticeNormal_tablesKept : TablesKept u u.noticeNormal := .andIf h fun _ => State.setCharge_tablesKept h _

theorem State.noticeNotNormal_tablesKept : TablesKept u u.noticeNotNormal := by
  unfold State.noticeNotNormal
  split
  · next hrun =>
    rw [State.abortTest_of_nothing _ _ hrun h]
    have hstore : (((u.setBattery ((u.battery.testEnded .aborted u.cmd.seconds).inCharge .off)).chargerUpdate).report 2
        (.battery (u.abortReport .supplyLost))).store = u.store := by simp
    exact ⟨by rw [State.nothingPending, hstore]; exact h, ⟨_, _, hstore⟩, by simp [State.report], by simp [State.report], fun hu => by
      rw [hu.test] at hrun
      cases hrun⟩
  · exact State.setCharge_tablesKept h _

theorem State.changePower_tablesKept (p : PowerState) (cause : PowerCause) : TablesKept u (u.changePower p cause) := by
  have hset : TablesKept u ((u.setSupply { u.supply with power := p, cutoffTimer := none }).setBattery
      { u.battery with disconnect := u.battery.disconnect && decide (p = .cutoff) }) :=
    .of_same h rfl ⟨rfl, rfl, rfl, rfl, rfl, rfl, rfl⟩ rfl rfl rfl
  have hnotice : TablesKept u (u.setPower p) := by
    refine hset.trans ?_
    unfold State.setPower State.batteryNotice
    dsimp only
    split
    · have hn := State.noticeNormal_tablesKept hset.nothing
      exact hn.trans (State.chargerUpdate_tablesKept hn.nothing)
    · have hn := State.noticeNotNormal_tablesKept hset.nothing
      exact hn.trans (State.chargerUpdate_tablesKept hn.nothing)
  exact hnotice.trans (State.report_tablesKept hnotice.nothing _ _)

theorem State.endStart_tablesKept : TablesKept u u.endStart := by
  have hset : TablesKept u u.startQualified := .of_eq h rfl rfl rfl ⟨rfl, rfl⟩
  refine hset.trans ?_
  rw [State.endStart_eq]
  split
  · exact State.changePower_tablesKept hset.nothing _ _
  · split
    · exact State.changePower_tablesKept hset.nothing _ _
    · exact State.changePower_tablesKept hset.nothing _ _

theorem State.supplyRestored_tablesKept : TablesKept u u.supplyRestored := by
  have hset : TablesKept u (u.setSupply { u.supply with restoreMark := true }) := .of_eq h rfl rfl rfl ⟨rfl, rfl⟩
  exact hset.trans (.andIf hset.nothing fun _ => State.endStart_tablesKept hset.nothing)

end

end Sys2Proof.Machine
end

