-- ==== Sys2Proof/Proofs/Images.lean ====
section
/-! The images of the restore one after the other (R167, R168, R101, R102): what each puts into force and reports. -/

namespace Sys2Proof.Machine

/-- The table that the restore puts into force for an id (R168). -/
def NvArray.restored (nv : NvArray) (id : Nat) : Table :=
  match nv.tables.getD id .missing with
  | .good image => if imageValid id image then image else romTable id
  | _ => romTable id

/-- The report of a table that is replaced by its ROM default, with its class (R168). -/
def NvArray.tableReport (nv : NvArray) (id : Nat) : Option (Nat × ReportBody) :=
  match nv.tables.getD id .missing with
  | .missing => some (4, .settings (.imageDefaulted (.table id) .missing))
  | .badCrc => some (4, .settings (.imageDefaulted (.table id) .crc))
  | .good image => if imageValid id image then none else some (4, .settings (.imageDefaulted (.table id) .content))

/-- The report of a state record that is replaced by its defaults (R168). -/
def NvArray.recordReport (nv : NvArray) : List (Nat × ReportBody) :=
  match nv.record with
  | .missing => [(4, .settings (.stateDefaulted .missing))]
  | .badCrc => [(4, .settings (.stateDefaulted .crc))]
  | .good r => if recordInRange r then [] else [(4, .settings (.stateDefaulted .content))]

/-- The reports of a tag image that gives an empty table (R168, R102). -/
def NvArray.tagReports (nv : NvArray) : List (Nat × ReportBody) :=
  match nv.tags with
  | .missing => [(4, .settings (.imageDefaulted .tagImage .missing)), (6, .tag .restoredEmpty none 0 false)]
  | .badCrc => [(4, .settings (.imageDefaulted .tagImage .crc)), (6, .tag .restoredEmpty none 0 false)]
  | .good image =>
    if tagImageValid image then []
    else [(4, .settings (.imageDefaulted .tagImage .content)), (6, .tag .restoredEmpty none 0 false)]

theorem restoreReports_eq (nv : NvArray) :
    restoreReports nv = writableIds.filterMap nv.tableReport ++ nv.recordReport ++ nv.tagReports := (rfl)

/-- The queue with a list of reports entered in their order at one count of seconds. -/
def ReportQueue.enterAll (q : ReportQueue) (seconds : Long) (l : List (Nat × ReportBody)) : ReportQueue :=
  l.foldl (fun q x => (q.enter x.1 seconds x.2).1) q

theorem ReportQueue.enterAll_append (q : ReportQueue) (seconds : Long) (l m : List (Nat × ReportBody)) :
    q.enterAll seconds (l ++ m) = (q.enterAll seconds l).enterAll seconds m := List.foldl_append

theorem ReportQueue.enterAll_one (q : ReportQueue) (seconds : Long) (x : Nat × ReportBody) :
    q.enterAll seconds [x] = (q.enter x.1 seconds x.2).1 := (rfl)

section
variable {s : State}

/-! ## The tables (R168) -/

theorem State.restoreTable_store (id : Nat) :
    (s.restoreTable id).store = { s.store with tables := s.store.tables.set id (s.store.nv.restored id) } := by
  unfold State.restoreTable NvArray.restored State.tableDefaulted
  cases s.store.nv.tables.getD id .missing with
  | missing | badCrc => rfl
  | good image => dsimp only; split <;> rfl

theorem State.restoreTable_reports (id : Nat) :
    (s.restoreTable id).reports = s.reports.enterAll s.cmd.seconds (s.store.nv.tableReport id).toList := by
  unfold State.restoreTable NvArray.tableReport State.tableDefaulted
  cases s.store.nv.tables.getD id .missing with
  | missing | badCrc => rfl
  | good image => dsimp only; split <;> rfl

/-- A list of tables restored: each takes what its image gives, the others stay, and the reports come in the order of the list. -/
structure TablesRestored (ids : List Nat) (s t : State) : Prop where
  store : ∃ tables, t.store = { s.store with tables := tables } ∧ tables.length = s.store.tables.length
  table : ∀ id, id < s.store.tables.length → t.table id = if id ∈ ids then s.store.nv.restored id else s.table id
  reports : t.reports = s.reports.enterAll s.cmd.seconds (ids.filterMap s.store.nv.tableReport)
  sample : t.sample = s.sample

theorem TablesRestored.fold (ids : List Nat) (s : State) : TablesRestored ids s (ids.foldl State.restoreTable s) := by
  induction ids generalizing s with
  | nil => exact ⟨⟨_, rfl, rfl⟩, fun _ _ => by simp, rfl, rfl⟩
  | cons id ids ih =>
    obtain ⟨⟨tables, hstore, hlength⟩, htable, hreports, hsample⟩ := ih (s.restoreTable id)
    have hfirst := s.restoreTable_store id
    rw [hfirst] at hstore hlength htable hreports
    refine ⟨⟨tables, hstore, by simpa using hlength⟩, fun k hk => ?_, ?_, by simpa using hsample⟩
    · have hk' := htable k (by simpa using hk)
      rw [List.foldl_cons, hk']
      by_cases hin : k ∈ ids
      · simp [hin]
      · by_cases heq : k = id
        · subst heq
          simp [hin, State.table, hfirst, List.getD_eq_getElem?_getD, hk]
        · rw [if_neg hin, if_neg (by simp [hin, heq])]
          exact (congrArg (List.getD · k []) (congrArg TableStore.tables hfirst)).trans (getD_set_of_ne _ _ _ (Ne.symm heq))
    · rw [List.foldl_cons, hreports, State.restoreTable_reports, (by simp : (s.restoreTable id).cmd = s.cmd), ← ReportQueue.enterAll_append]
      cases h : s.store.nv.tableReport id <;> simp [h]

theorem State.restartStream_sample : s.restartStream.sample = s.sample ∨ s.restartStream.sample.stream = .filling := by
  unfold State.restartStream
  split
  · exact .inr rfl
  · exact .inl rfl

/-- All the table images, with what a changed nominal frequency does to the stream (R167). -/
theorem State.restoreTables_restored (hlength : s.store.tables.length = 15) :
    (∃ tables, s.restoreTables.store = { s.store with tables := tables }) ∧
      (∀ id, 1 ≤ id → id ≤ 14 → s.restoreTables.table id = s.store.nv.restored id) ∧
      s.restoreTables.reports = s.reports.enterAll s.cmd.seconds (writableIds.filterMap s.store.nv.tableReport) ∧
      (s.sample.stream ≠ .valid → s.restoreTables.sample.stream ≠ .valid) := by
  obtain ⟨⟨tables, hstore, -⟩, htable, hreports, hsample⟩ := TablesRestored.fold writableIds s
  have hwritable : ∀ id, 1 ≤ id → id ≤ 14 → (writableIds.foldl State.restoreTable s).table id = s.store.nv.restored id := fun id h1 h14 => by
    rw [htable id (by omega), if_pos (mem_writableIds h1 h14)]
  unfold State.restoreTables
  dsimp only
  split
  · exact ⟨⟨_, hstore⟩, hwritable, hreports, by rw [hsample]; exact id⟩
  · refine ⟨⟨_, by simpa using hstore⟩, fun id h1 h14 => ?_, by simpa using hreports, fun hstream => ?_⟩
    · rw [← hwritable id h1 h14]
      simp [State.table]
    · obtain h | h := (writableIds.foldl State.restoreTable s).restartStream_sample
      · rw [h, hsample]
        exact hstream
      · rw [h]
        exact (by simp)

/-! ## The state record (R168, R133) -/

theorem healthOf_eq {b : Byte} (h : b.toNat < 3) : ∃ x, healthOf b = some x ∧ x.ctorIdx = b.toNat := by
  obtain hb | hb | hb : b = 0 ∨ b = 1 ∨ b = 2 := by bv_omega
  all_goals subst hb; exact ⟨_, rfl, rfl⟩

theorem healthOf_none {b : Byte} (h : ¬ b.toNat < 3) : healthOf b = none := by
  have h0 : b ≠ 0 := by bv_omega
  have h1 : b ≠ 1 := by bv_omega
  have h2 : b ≠ 2 := by bv_omega
  simp only [healthOf, if_neg h0, if_neg h1, if_neg h2]

theorem resultOf_eq {b : Byte} (h : b.toNat < 4) : ∃ x, resultOf b = some x ∧ x.ctorIdx = b.toNat := by
  obtain hb | hb | hb | hb : b = 0 ∨ b = 1 ∨ b = 2 ∨ b = 3 := by bv_omega
  all_goals subst hb; exact ⟨_, rfl, rfl⟩

theorem resultOf_none {b : Byte} (h : ¬ b.toNat < 4) : resultOf b = none := by
  have h0 : b ≠ 0 := by bv_omega
  have h1 : b ≠ 1 := by bv_omega
  have h2 : b ≠ 2 := by bv_omega
  have h3 : b ≠ 3 := by bv_omega
  simp only [resultOf, if_neg h0, if_neg h1, if_neg h2, if_neg h3]

theorem State.putRecord_effect (g : Fin 4) (q : Nat) (r : TestResult) (t : Option Long) (h : Health) (n : Nat) :
    (s.putRecord g q r t h n).store = { s.store with activeGroup := g } ∧
      (s.putRecord g q r t h n).battery = { s.battery with
        q := s.restoredQ q, heldQ := none, lastResult := r, lastTime := t, health := h, failCount := n } := by
  unfold State.putRecord
  generalize s.restoredQ q = x
  exact ⟨rfl, rfl⟩

/-- What the state record gives: the values of an image with its codes in range, else the defaults. -/
structure RecordRestored (s t : State) : Prop where
  store : ∃ g, t.store = { s.store with activeGroup := g }
  reports : t.reports = s.reports.enterAll s.cmd.seconds s.store.nv.recordReport
  test : t.battery.testState = s.battery.testState
  heldQ : t.battery.heldQ = none
  taken : ∀ r, s.store.nv.record = .good r → r.group.toNat < 4 → r.health.toNat < 3 → r.lastResult.toNat < 4 →
    (t.store.activeGroup : Nat) = r.group.toNat ∧ t.battery.health.ctorIdx = r.health.toNat ∧
      t.battery.lastResult.ctorIdx = r.lastResult.toNat ∧ t.battery.lastTime = r.lastTime ∧ t.battery.failCount = r.failCount.toNat ∧
      t.battery.q = s.restoredQ r.q.toNat
  defaulted : (∀ r, s.store.nv.record = .good r → ¬ (r.group.toNat < 4 ∧ r.health.toNat < 3 ∧ r.lastResult.toNat < 4)) →
    t.store.activeGroup = 0 ∧ t.battery.health = .good ∧ t.battery.lastResult = .none ∧ t.battery.lastTime = none ∧
      t.battery.failCount = 0 ∧ t.battery.q = s.restoredQ (qMax s.batteryTable / 2)

theorem RecordRestored.of_default (cause : ImageCause) (hreport : s.store.nv.recordReport = [(4, .settings (.stateDefaulted cause))])
    (hbad : ∀ r, s.store.nv.record = .good r → ¬ (r.group.toNat < 4 ∧ r.health.toNat < 3 ∧ r.lastResult.toNat < 4)) :
    RecordRestored s (s.recordDefaulted cause) := by
  obtain ⟨hstore, hbattery⟩ := s.putRecord_effect 0 (qMax s.batteryTable / 2) .none none .good 0
  have hstore' : (s.recordDefaulted cause).store = { s.store with activeGroup := 0 } := hstore
  have hbattery' := (by simp [State.recordDefaulted] : (s.recordDefaulted cause).battery = _).trans hbattery
  refine ⟨⟨0, hstore'⟩, ?_, by rw [hbattery'], by rw [hbattery'], fun r hr hg hh hl => absurd ⟨hg, hh, hl⟩ (hbad r hr), fun _ => ?_⟩
  · rw [hreport, ReportQueue.enterAll_one]
    simp [State.recordDefaulted, State.putRecord, State.report]
  · rw [hstore', hbattery']
    exact ⟨rfl, rfl, rfl, rfl, rfl, rfl⟩

theorem recordInRange_iff (r : StateRecord) :
    recordInRange r = true ↔ r.group.toNat < 4 ∧ r.health.toNat < 3 ∧ r.lastResult.toNat < 4 := by
  simp [recordInRange, and_assoc]

theorem State.restoreRecord_restored (s : State) : RecordRestored s s.restoreRecord := by
  unfold State.restoreRecord
  cases hrecord : s.store.nv.record with
  | missing =>
    exact .of_default _ (by rw [NvArray.recordReport, hrecord]) fun r hr => (by rw [hrecord] at hr; cases hr)
  | badCrc =>
    exact .of_default _ (by rw [NvArray.recordReport, hrecord]) fun r hr => (by rw [hrecord] at hr; cases hr)
  | good r =>
    dsimp only
    by_cases hin : r.group.toNat < 4 ∧ r.health.toNat < 3 ∧ r.lastResult.toNat < 4
    · obtain ⟨hg, hh, hl⟩ := hin
      obtain ⟨health, hhealth, hhcode⟩ := healthOf_eq hh
      obtain ⟨result, hresult, hrcode⟩ := resultOf_eq hl
      rw [groupOf_eq_some hg, hhealth, hresult]
      dsimp only
      obtain ⟨hstore, hbattery⟩ := s.putRecord_effect ⟨r.group.toNat, hg⟩ r.q.toNat result r.lastTime health r.failCount.toNat
      refine ⟨⟨_, hstore⟩, ?_, by rw [hbattery], by rw [hbattery], fun r' hr' _ _ _ => ?_,
        fun hbad => absurd ⟨hg, hh, hl⟩ (hbad r hrecord)⟩
      · rw [NvArray.recordReport, hrecord]
        dsimp only
        rw [if_pos ((recordInRange_iff r).2 ⟨hg, hh, hl⟩)]
        simp [State.putRecord, ReportQueue.enterAll]
      · rw [hrecord] at hr'
        cases hr'
        rw [hstore, hbattery]
        exact ⟨rfl, hhcode, hrcode, rfl, rfl, rfl⟩
    · have hdefault : RecordRestored s (s.recordDefaulted .content) := by
        refine .of_default _ ?_ fun r' hr' => ?_
        · rw [NvArray.recordReport, hrecord]
          exact if_neg fun h => hin ((recordInRange_iff r).1 h)
        · rw [hrecord] at hr'
          cases hr'
          exact hin
      split
      · next g health result hg hh hl =>
        refine absurd ⟨?_, ?_, ?_⟩ hin
        · exact Nat.lt_of_not_le fun h => (by rw [groupOf_eq_none h] at hg; cases hg)
        · exact Decidable.not_not.1 fun h => (by rw [healthOf_none h] at hh; cases hh)
        · exact Decidable.not_not.1 fun h => (by rw [resultOf_none h] at hl; cases hl)
      · exact hdefault

/-! ## The tag image (R101, R102) -/

theorem crewsDistinct_iff (image : List TagImageRecord) : crewsDistinct image = true ↔ (image.map TagImageRecord.crew).Nodup := by
  induction image with
  | nil => simp [crewsDistinct]
  | cons r rest ih =>
    have hnone : (!rest.any fun x => x.crew == r.crew) = true ↔ r.crew ∉ rest.map TagImageRecord.crew := by
      rw [Bool.not_eq_true', Bool.eq_false_iff, ne_eq, List.any_eq_true, List.mem_map]
      simp only [beq_iff_eq]
    rw [crewsDistinct, Bool.and_eq_true, ih, List.map_cons, List.nodup_cons, hnone]

/-- What an image may hold: six records at most, crew codes other than 0, kinds in range, no crew code twice (R102). -/
def TagsFit (image : List TagImageRecord) : Prop :=
  image.length ≤ 6 ∧ (∀ x ∈ image, x.crew ≠ 0 ∧ x.kind.toNat ≤ 1) ∧ (image.map TagImageRecord.crew).Nodup

theorem tagKindOf_isSome (b : Byte) : (tagKindOf b).isSome = true ↔ b.toNat ≤ 1 := by
  unfold tagKindOf
  split
  · next h => subst h; decide
  · split
    · next h => subst h; decide
    · next h0 h1 =>
      simp only [Option.isSome_none, Bool.false_eq_true, false_iff]
      bv_omega

/-- A kind in range is read as it is written (R101). -/
theorem tagKindOf_getD {b : Byte} (h : b.toNat ≤ 1) : (tagKindOf b).getD .hotLine = if b = 0 then .hotLine else .closeBlock := by
  obtain hb | hb : b = 0 ∨ b = 1 := by bv_omega
  all_goals subst hb; rfl

theorem tagImageValid_iff (image : List TagImageRecord) : tagImageValid image = true ↔ TagsFit image := by
  simp [tagImageValid, TagsFit, crewsDistinct_iff, tagKindOf_isSome, and_assoc]

/-- The Tag Table after the restore of its image. -/
def NvArray.restoredTags (nv : NvArray) : TagTable :=
  match nv.tags with
  | .good image => if tagImageValid image then { slots := restoredSlots image, writeState := .idle, durable := true } else bootTags
  | _ => bootTags

theorem State.restoreTags_tags (s : State) : s.restoreTags.tags = s.store.nv.restoredTags := by
  unfold State.restoreTags NvArray.restoredTags
  cases s.store.nv.tags with
  | missing | badCrc => rfl
  | good image =>
    dsimp only
    split
    · split <;> simp
    · rfl

theorem State.restoreTags_tablesKept (h : s.nothingPending) : TablesKept s s.restoreTags := by
  have hset : ∀ x, TablesKept s (s.setTags x) := fun x => .of_eq h rfl rfl rfl ⟨rfl, rfl⟩
  have hdefault : ∀ cause, TablesKept s (s.tagImageDefaulted cause) := fun cause =>
    have hfirst := State.report_tablesKept (hset bootTags).nothing 4 (.settings (.imageDefaulted .tagImage cause))
    (hset bootTags).trans (hfirst.trans (State.report_tablesKept hfirst.nothing _ _))
  unfold State.restoreTags
  cases s.store.nv.tags with
  | missing => exact hdefault _
  | badCrc => exact hdefault _
  | good image =>
    dsimp only
    split
    · split
      · exact hset _
      · exact (hset _).trans (State.tagEntry_tablesKept (hset _).nothing)
    · exact hdefault _

/-- Outside DEAD and with CLOSE inactive the image has no effect but its table and its reports (R82). -/
theorem State.restoreTags_of_rest (hstate : s.seq.state ≠ .dead) (hclose : s.act.close = false) :
    s.restoreTags.reports = s.reports.enterAll s.cmd.seconds s.store.nv.tagReports ∧ s.restoreTags.seq = s.seq ∧
      s.restoreTags.sample = s.sample := by
  have hnone : ∀ x, (s.setTags x).tagEntry = s.setTags x := fun x => by
    rw [State.tagEntry_of_close (by exact hclose)]
    exact if_neg hstate
  unfold State.restoreTags NvArray.tagReports
  cases s.store.nv.tags with
  | missing | badCrc => exact ⟨rfl, by simp [State.tagImageDefaulted], by simp [State.tagImageDefaulted]⟩
  | good image =>
    dsimp only
    split
    · rw [hnone, ite_self]
      exact ⟨rfl, rfl, rfl⟩
    · exact ⟨rfl, by simp [State.tagImageDefaulted], by simp [State.tagImageDefaulted]⟩

/-- The slots of a valid image: its records from slot 0, HELD. -/
theorem restoredSlots_facts {image : List TagImageRecord} (h : TagsFit image) :
    (restoredSlots image).length = 6 ∧ (∀ w d, TagTable.count { slots := restoredSlots image, writeState := w, durable := d } = image.length) ∧
      ∀ i (hi : i < image.length), (restoredSlots image).getD i none = some (restoredRecord image[i]) := by
  obtain ⟨hlen, -, -⟩ := h
  refine ⟨by simp [restoredSlots]; omega, fun w d => ?_, fun i hi => ?_⟩
  · have hrecords : TagTable.records { slots := restoredSlots image, writeState := w, durable := d } = image.map restoredRecord := by
      simp [TagTable.records, restoredSlots, List.filterMap_append, List.filterMap_map]
    rw [TagTable.count, hrecords, List.length_map]
  · simp [restoredSlots, List.getElem?_append_left, hi]

end

end Sys2Proof.Machine
end

