-- ==== Sys2Proof/Proofs/Restored.lean ====
section
/-! The restore-complete event (O58): the images in force, then what the blocks make of them. -/

namespace Sys2Proof.Machine

section
variable {s : State}

/-! ## The end of START (R110) -/

theorem State.changePower_supply (p : PowerState) (cause : PowerCause) :
    (s.changePower p cause).supply = { s.supply with power := p, cutoffTimer := none } := by
  simp [State.changePower, State.setPower]

theorem State.batteryLow_iff : s.batteryLow = true ↔ s.battery.health = .failed ∨ s.soc ≤ conserveLevel s.batteryTable := by
  simp [State.batteryLow]

/-- The power state at the end of START. -/
theorem State.endStart_supply :
    s.endStart.supply = { s.startQualified.supply with
      power := if s.supply.present then .normal
        else if s.battery.health = .failed ∨ s.soc ≤ conserveLevel s.batteryTable then .conserve else .carry,
      cutoffTimer := none } := by
  rw [State.endStart_eq]
  by_cases hp : s.supply.present = true
  · rw [if_pos hp, if_pos hp, State.changePower_supply]
  · rw [if_neg hp, if_neg hp]
    by_cases hlow : s.batteryLow = true
    · rw [if_pos hlow, if_pos (State.batteryLow_iff.1 hlow), State.changePower_supply]
    · rw [if_neg hlow, if_neg (fun h => hlow (State.batteryLow_iff.2 h)), State.changePower_supply]

/-- The restore mark set, and nothing more where START goes on (R167). -/
theorem State.supplyRestored_of_not (h : ¬ (s.supply.power = .start ∧ s.supply.lastSeq.isSome = true)) :
    s.supplyRestored = s.setSupply { s.supply with restoreMark := true } := if_neg h

theorem State.supplyRestored_of_start (h : s.supply.power = .start ∧ s.supply.lastSeq.isSome = true) :
    s.supplyRestored = (s.setSupply { s.supply with restoreMark := true }).endStart := if_pos h

theorem State.supplyRestored_ended (h : s.supply.power = .start ∧ s.supply.lastSeq.isSome = true) :
    s.supplyRestored.supply.power = (if s.supply.present then .normal
      else if s.battery.health = .failed ∨ s.soc ≤ conserveLevel s.batteryTable then .conserve else .carry) ∧
      s.supplyRestored.supply.qualification = (if s.supply.present then .qualified else .unqualified) := by
  obtain ⟨htable, hsoc⟩ : (s.setSupply { s.supply with restoreMark := true }).batteryTable = s.batteryTable ∧
      (s.setSupply { s.supply with restoreMark := true }).soc = s.soc := ⟨rfl, rfl⟩
  rw [State.supplyRestored_of_start h, State.endStart_supply, htable, hsoc]
  exact ⟨rfl, rfl⟩

theorem State.supplyRestored_mark : s.supplyRestored.supply.restoreMark = true := by
  by_cases h : s.supply.power = .start ∧ s.supply.lastSeq.isSome = true
  · rw [State.supplyRestored_of_start h, State.endStart_supply]
    rfl
  · rw [State.supplyRestored_of_not h]
    rfl

/-! ## The blocks told of the restore (R167) -/

/-- A Tag Table with no write asked for is left by a grant. -/
theorem State.grant_tags_of_idle (h : s.tags.writeState = .idle) : s.grant.tags = s.tags := by
  unfold State.grant
  split
  · rfl
  · rw [if_neg (by simp [h])]
    split
    · rfl
    · split <;> rfl

theorem NvArray.restoredTags_idle (nv : NvArray) : nv.restoredTags.writeState = .idle := by
  unfold NvArray.restoredTags
  split
  · split <;> rfl
  · rfl

theorem BatteryUnit.SameValues.health {a b : BatteryUnit} (h : a.SameValues b) : a.health = b.health := by
  obtain ⟨-, -, hhealth, -⟩ := h
  exact hhealth

theorem BatteryUnit.SameValues.q {a b : BatteryUnit} (h : a.SameValues b) : a.q = b.q := h.1

/-- The Tag Table of an image that may be held, and that of any other. -/
theorem NvArray.restoredTags_spec (nv : NvArray) :
    (∀ image, nv.tags = .good image → TagsFit image →
      nv.restoredTags.durable = true ∧ nv.restoredTags.writeState = .idle ∧ nv.restoredTags.slots.length = 6 ∧
        nv.restoredTags.count = image.length ∧ ∀ i (h : i < image.length), nv.restoredTags.at i = some
          { crew := image[i].crew, kind := if image[i].kind = 0 then .hotLine else .closeBlock, origin := image[i].origin,
            placed := image[i].placed, state := .held, stage := .none, request := none }) ∧
      ((∀ image, nv.tags = .good image → ¬ TagsFit image) →
        nv.restoredTags = { slots := List.replicate 6 none, writeState := .idle, durable := false }) := by
  refine ⟨fun image himage hfit => ?_, fun hnone => ?_⟩
  · have htags : nv.restoredTags = { slots := restoredSlots image, writeState := .idle, durable := true } := by
      rw [NvArray.restoredTags, himage]
      exact if_pos ((tagImageValid_iff image).2 hfit)
    obtain ⟨hsix, hcount, hslots⟩ := restoredSlots_facts hfit
    rw [htags]
    refine ⟨rfl, rfl, hsix, hcount _ _, fun i h => (hslots i h).trans ?_⟩
    obtain ⟨-, hkinds, -⟩ := hfit
    rw [restoredRecord, tagKindOf_getD (hkinds _ (List.getElem_mem h)).2]
  · unfold NvArray.restoredTags
    cases himage : nv.tags with
    | missing | badCrc => rfl
    | good image => exact if_neg fun h => hnone image himage ((tagImageValid_iff image).1 h)

/-- The state with every image in force and its timers started, before the blocks are told. -/
def State.withImages (s : State) : State := s.restoreTables.restoreRecord.restoreTags.startTimers

theorem State.restore_eq (s : State) : s.restore = s.withImages.supplyRestored.initTest := (rfl)

/-- The blocks told of the restore: the tables, B and the timers stand, and at rest the group and the values of the record too. -/
structure RestoreTold (s t : State) : Prop where
  store : ∃ g w, t.store = { s.restoreTables.restoreRecord.store with
    activeGroup := g, recordWaiting := w, recordTimer := s.timer (sec 600), restoreTimer := none }
  budget : t.reports.budget = airtimeCeiling t.unit
  statusTimer : t.reports.statusTimer = s.timer (sec (statusInterval t.unit))
  tags : t.tags = s.store.nv.restoredTags
  supply : t.supply = s.withImages.supplyRestored.supply
  rest : s.restoreTables.restoreRecord.AtRest →
    s.withImages.AtRest ∧ t.store.activeGroup = s.restoreTables.restoreRecord.store.activeGroup ∧
      t.battery.SameValues s.restoreTables.restoreRecord.battery ∧ t.store = s.withImages.store ∧
      t.battery.SameValues s.withImages.battery

theorem State.restore_told (h : s.restoreTables.restoreRecord.nothingPending) (hnv : s.restoreTables.restoreRecord.store.nv = s.store.nv) :
    RestoreTold s s.restore := by
  generalize hu : s.restoreTables.restoreRecord = u at h hnv
  have hnow : u.now = s.now := by rw [← hu]; simp
  have htags := u.restoreTags_tags
  have hkept := State.restoreTags_tablesKept h
  generalize hw : u.restoreTags = w at htags hkept
  have hwnow : w.now = s.now := by rw [← hw, State.restoreTags_frame u |>.1, hnow]
  obtain ⟨g, c, hstore⟩ := hkept.store
  have hv : s.withImages = w.startTimers := by rw [State.withImages, hu, hw]
  have hvstore : w.startTimers.store = { w.store with recordTimer := w.timer (sec 600), restoreTimer := none } := (rfl)
  have hvreports : w.startTimers.reports = { w.reports with budget := airtimeCeiling w.unit, statusTimer := w.statusTimer } := (rfl)
  have hvnothing : w.startTimers.nothingPending := by
    rw [State.nothingPending, hvstore]
    exact hkept.nothing
  have hone := State.supplyRestored_tablesKept hvnothing
  have hend := hone.trans (State.initTest_tablesKept hone.nothing)
  have heq : s.restore = w.startTimers.supplyRestored.initTest := by rw [State.restore_eq, hv]
  obtain ⟨g', c', hend'⟩ := hend.store
  have htables : s.restore.store.tables = w.store.tables := by rw [heq, hend', hvstore]
  have hunit : s.restore.unit = w.unit := by rw [State.unit, State.table, htables]; rfl
  have htimer : ∀ d, w.timer d = s.timer d := fun d => by rw [State.timer, hwnow]; rfl
  refine ⟨⟨g', c', ?_⟩, ?_, ?_, ?_, ?_, fun hrest => ?_⟩
  · rw [heq, hend', hvstore, hstore, htimer, hu]
  · rw [hunit, heq, hend.budget, hvreports]
  · rw [hunit, heq, hend.statusTimer, hvreports, ← htimer]
    rfl
  · rw [heq]
    simp [htags, hnv]
  · rw [heq, hv]
    simp
  · rw [hu] at hrest
    obtain ⟨hwrest, hwstore, hwvalues⟩ := hkept.rest hrest
    have hvrest : w.startTimers.AtRest := ⟨hvnothing, hwrest.group, hwrest.test⟩
    obtain ⟨-, hyrest, hyvalues⟩ := hend.rest hvrest
    rw [heq, hv, hu]
    refine ⟨hvrest, ?_, (show w.startTimers.battery.SameValues u.battery from hwvalues).trans hyvalues, hyrest, hyvalues⟩
    rw [hyrest, hvstore, hwstore]

/-- With the stream not VALID the end of the restore leaves the sequence in INIT (R45). -/
theorem State.initTest_of_notValid (h : s.sample.stream ≠ .valid) : s.initTest = s := by
  exact State.initTest_of_unsettled (State.settled_of_stream _ h) (State.settled_of_stream _ h)

/-- In INIT, with nothing that takes the restore as a cause to act, the restore enters the reports of what it replaced alone. -/
theorem State.restore_of_init (hlength : s.store.tables.length = 15) (hstate : s.seq.state = .init) (hstream : s.sample.stream ≠ .valid)
    (hclose : s.act.close = false) (hframe : s.supply.lastSeq = none) :
    (∃ b x, s.restore.reports = { s.reports.enterAll s.cmd.seconds (restoreReports s.store.nv) with budget := b, statusTimer := x }) ∧
      s.restore.supply = { s.supply with restoreMark := true } ∧ s.restore.seq = s.seq := by
  obtain ⟨⟨tables, hstore⟩, -, htreports, htstream⟩ := State.restoreTables_restored hlength
  have hnv : s.restoreTables.store.nv = s.store.nv := by rw [hstore]
  have hrecord := s.restoreTables.restoreRecord_restored
  obtain ⟨g, hrstore⟩ := hrecord.store
  have hrreports := hrecord.reports
  have hframe₁ : s.restoreTables.restoreRecord.seq = s.seq ∧ s.restoreTables.restoreRecord.act = s.act ∧
      s.restoreTables.restoreRecord.supply = s.supply ∧ s.restoreTables.restoreRecord.cmd = s.cmd ∧
      s.restoreTables.restoreRecord.sample = s.restoreTables.sample ∧ s.restoreTables.cmd = s.cmd := by simp
  obtain ⟨huseq, huact, husupply, hucmd, husample, htcmd⟩ := hframe₁
  have heq : s.restore = s.restoreTables.restoreRecord.restoreTags.startTimers.supplyRestored.initTest := (rfl)
  generalize s.restoreTables.restoreRecord = u at *
  obtain ⟨htagreports, htagseq, htagsample⟩ := u.restoreTags_of_rest (by rw [huseq, hstate]; exact (by simp)) (by rw [huact, hclose])
  have htagsupply : u.restoreTags.supply = s.supply := by simp [husupply]
  generalize u.restoreTags = w at *
  have hv : w.startTimers.sample = w.sample ∧ w.startTimers.seq = w.seq ∧ w.startTimers.supply = w.supply := by simp
  obtain ⟨hvsample, hvseq, hvsupply⟩ := hv
  have hvreports : w.startTimers.reports = { w.reports with budget := airtimeCeiling w.unit, statusTimer := w.statusTimer } := (rfl)
  generalize w.startTimers = v at *
  rw [State.supplyRestored_of_not (by simp [hvsupply, htagsupply, hframe])] at heq
  have hvstream : v.sample.stream ≠ .valid := by
    rw [hvsample, htagsample, husample]
    exact htstream hstream
  replace heq : s.restore = v.setSupply { v.supply with restoreMark := true } := heq.trans (State.initTest_of_notValid hvstream)
  rw [heq]
  have hall : w.reports = s.reports.enterAll s.cmd.seconds (restoreReports s.store.nv) := by
    rw [htagreports, hucmd, hrstore, hrreports, htcmd, hnv, htreports, restoreReports_eq, ReportQueue.enterAll_append, ReportQueue.enterAll_append]
  rw [hall] at hvreports
  refine ⟨⟨_, _, hvreports⟩, ?_, hvseq.trans (htagseq.trans huseq)⟩
  · show { v.supply with restoreMark := true } = _
    rw [hvsupply, htagsupply]

end

/-- Settles O58: the images first, by table, record and tag image; then what the blocks leave of them when they are told. -/
theorem restorePutsImages : Obligations.RestorePutsImages := by
  unfold Obligations.RestorePutsImages
  intro s c hc hlength hnothing
  have hexec : exec .restoreComplete s = .next (s.advanceTo c.due).restore.grant := by
    simp only [exec, execRestoreComplete, hc, onExpiry_some]
  have hmoved := (s.advanceTo c.due).restore_frame
  have hsame : (s.advanceTo c.due).store = s.store ∧ (s.advanceTo c.due).battery = s.battery ∧ (s.advanceTo c.due).seq = s.seq ∧
      (s.advanceTo c.due).supply = s.supply ∧ (s.advanceTo c.due).reports = s.reports ∧ (s.advanceTo c.due).cmd.seconds = s.cmd.seconds ∧
      (s.advanceTo c.due).sample = s.sample ∧ (s.advanceTo c.due).act = s.act ∧ MovedTo c.due s (s.advanceTo c.due) := by
    simp [MovedTo, State.advanceTo_now]
  obtain ⟨hstore, hbattery, hseq, hsupply, hreports, hcmd, hsample, hact, hbase⟩ := hsame
  generalize s.advanceTo c.due = a at *
  obtain ⟨⟨tables, hastore⟩, hatable, hareports, -⟩ := State.restoreTables_restored (s := a) (by rw [hstore]; exact hlength)
  have hrecord := a.restoreTables.restoreRecord_restored
  obtain ⟨g, hustore⟩ := hrecord.store
  have hunothing : a.restoreTables.restoreRecord.nothingPending := by
    rw [State.nothingPending, hustore, hastore, hstore]
    exact hnothing
  have htold := State.restore_told hunothing (by rw [hustore, hastore])
  obtain ⟨g', w, hrstore⟩ := htold.store
  obtain ⟨htables, -, hgroup, -, hnv, hrecordTimer, hrestoreTimer⟩ := a.restore.grant_store
  have hframe := a.restore.grant_frame
  have htags : a.restore.grant.tags = s.store.nv.restoredTags := by
    have h := htold.tags
    rw [State.grant_tags_of_idle (by rw [h]; exact NvArray.restoredTags_idle _), h, hstore]
  have hrtables : a.restore.grant.store.tables = a.restoreTables.store.tables := by rw [htables, hrstore, hustore]
  have htimer : ∀ d, a.timer d = startAt (max s.now c.due) d := fun d => by rw [State.timer, hbase.1]
  have hunit : a.restore.grant.unit = a.restore.unit := by rw [State.unit, State.table, htables]; rfl
  have hbatteryTable : a.restore.grant.batteryTable = a.restoreTables.batteryTable := by rw [State.batteryTable, State.table, hrtables]; rfl
  obtain ⟨hnow, hnext, -, -, -, hgseq, -, hgsupply, hgbattery, hgreports, -, -, -, hgfree, hgpending⟩ := hframe
  have hrframe : a.restoreTables.restoreRecord.seq = a.seq ∧ a.restoreTables.battery = a.battery := by simp
  obtain ⟨hrseq, hrbattery⟩ := hrframe
  have hrest : s.seq.pendingGroup = none → s.battery.testState = .idle → a.restoreTables.restoreRecord.AtRest := fun hnone hidle =>
    ⟨hunothing, by rw [hrseq, hseq, hnone], by rw [hrecord.test, hrbattery, hbattery, hidle]⟩
  refine ⟨_, hexec, ?mark, ?timer, fun id h1 h14 => ?table, ?budget, ?status, ?record, ?nv, fun hnone hidle => ?values, ?tags,
    fun hstate hstream hclose hlast hnone => ?quiet, fun hstart hlast hidle hnone => ?start, ?moved⟩
  case mark => rw [hgsupply, htold.supply, State.supplyRestored_mark]
  case timer => rw [hrestoreTimer, hrstore]
  case table =>
    rw [State.table, hrtables]
    have h := hatable id h1 h14
    rw [hstore] at h
    exact h
  case budget => rw [hgreports, hunit, htold.budget]
  case status => rw [hgreports, hunit, htold.statusTimer, htimer]
  case record => rw [hrecordTimer, hrstore, htimer]
  case nv => rw [hnv, hrstore, hustore, hastore, hstore]
  case values =>
    obtain ⟨-, hactive, ⟨hq, hheld, hhealth, hresult, htime, hfail, -⟩, -, -⟩ := htold.rest (hrest hnone hidle)
    have hqmax : ∀ n, a.restoreTables.restoredQ n = min (qMax a.restore.grant.batteryTable) (s.battery.heldQ.getD n) := fun n => by
      rw [State.restoredQ, hbatteryTable, hrbattery, hbattery]
    have hnvr : a.restoreTables.store.nv = s.store.nv := by rw [hastore, hstore]
    have htaken := hrecord.taken
    have hdefault := hrecord.defaulted
    rw [hnvr] at htaken hdefault
    rw [hgroup, hactive, hgbattery, hq, hheld, hhealth, hresult, htime, hfail]
    refine ⟨fun r hr h1 h2 h3 => ?_, fun hbad => ?_⟩
    · obtain ⟨r1, r2, r3, r4, r5, r6⟩ := htaken r hr h1 h2 h3
      exact ⟨r1, r2, r3, r4, r5, r6.trans (hqmax _), hrecord.heldQ⟩
    · obtain ⟨r1, r2, r3, r4, r5, r6⟩ := hdefault hbad
      exact ⟨r1, r2, r3, r4, r5, by rw [r6, hqmax, hbatteryTable], hrecord.heldQ⟩
  case tags =>
    rw [htags]
    exact NvArray.restoredTags_spec _
  case quiet =>
    obtain ⟨⟨b, x, hq⟩, hqsupply, hqseq⟩ := State.restore_of_init (s := a) (by rw [hstore]; exact hlength) (by rw [hseq, hstate])
      (by rw [hsample]; exact hstream) (by rw [hact, hclose]) (by rw [hsupply, hlast])
    rw [hgreports, hgsupply, hgseq, hq, hqsupply, hqseq, hsupply, hseq, hreports, hcmd, hstore]
    exact ⟨rfl, rfl, rfl⟩
  case start =>
    obtain ⟨-, -, -, htstore, hvalues⟩ := htold.rest (hrest hnone hidle)
    have hwsupply : a.withImages.supply = s.supply := by simp [State.withImages, hsupply]
    have hended := State.supplyRestored_ended (s := a.withImages) (by rw [hwsupply]; exact ⟨hstart, hlast⟩)
    have hhealth : a.restore.grant.battery.health = a.withImages.battery.health := by rw [hgbattery, hvalues.health]
    have htable : a.restore.grant.batteryTable = a.withImages.batteryTable := by
      rw [State.batteryTable, State.table, htables, htstore]
      rfl
    have hsoc : a.restore.grant.soc = a.withImages.soc := by rw [State.soc, State.soc, htable, hgbattery, hvalues.q]
    rw [hwsupply] at hended
    rw [hhealth, hsoc, htable, hgsupply, htold.supply]
    exact hended
  case moved =>
    obtain ⟨hr1, hr2, -, hr3, hr4⟩ := hmoved
    obtain ⟨hb1, hb2, hb3, hb4⟩ := hbase
    exact ⟨by rw [hnow, hr1, hb1], by rw [hnext, hr2, hb2], by rw [hgfree, hr3, hb3], by rw [hgpending, hr4, hb4]⟩

end Sys2Proof.Machine
end

