-- ==== Sys2Proof/Proofs/FrameBattery.lean ====
section
/-! What an accepted CABINET frame does in the Battery Unit (R116 to R126, R130, R132), with nothing pending. -/

namespace Sys2Proof.Machine

/-! ## What a step of the frame leaves -/

/-- The Battery Unit, the reports and the links at most have changed. -/
def OnFrame (u t : State) : Prop := t = { u with battery := t.battery, reports := t.reports, links := t.links }

section
variable {u t v : State}

theorem OnFrame.refl (u : State) : OnFrame u u := (rfl)

theorem OnFrame.trans (h : OnFrame u t) (k : OnFrame t v) : OnFrame u v := by
  rw [OnFrame] at h k ⊢
  rw [h] at k
  exact k

theorem OnFrame.andIf {c : Prop} [Decidable c] (h : c → OnFrame u t) : OnFrame u (if c then t else u) := by
  split
  · next hc => exact h hc
  · exact .refl u

theorem OnFrame.setBattery (b : BatteryUnit) : OnFrame u (u.setBattery b) := (rfl)

theorem OnFrame.report (cls : Nat) (body : ReportBody) : OnFrame u (u.report cls body) := (rfl)

theorem OnFrame.chargerUpdate : OnFrame u u.chargerUpdate := by
  unfold State.chargerUpdate State.chargerSend State.hand
  split
  · exact .refl u
  · split <;> rfl

theorem OnFrame.store (h : OnFrame u t) : t.store = u.store := by
  rw [OnFrame] at h
  rw [h]

theorem OnFrame.supply (h : OnFrame u t) : t.supply = u.supply := by
  rw [OnFrame] at h
  rw [h]

theorem OnFrame.nothing (h : OnFrame u t) (hu : u.nothingPending) : t.nothingPending := by
  rw [State.nothingPending, h.store]
  exact hu

theorem OnFrame.abortTest (cause : AbortCause) (charge : ChargeState) (hu : u.nothingPending) : OnFrame u (u.abortTest cause charge) := by
  by_cases hrun : u.battery.testState = .running
  · rw [State.abortTest_of_nothing _ _ hrun hu]
    exact (OnFrame.setBattery _).trans (OnFrame.chargerUpdate.trans (.report _ _))
  · rw [State.abortTest, if_neg hrun]
    exact .refl u

/-! ## The readings of the unit -/

/-- Charge, temperature and health are the same. -/
def BatteryUnit.SameReadings (b c : BatteryUnit) : Prop :=
  c.q = b.q ∧ c.prevCurrent = b.prevCurrent ∧ c.tempState = b.tempState ∧ c.heldTemp = b.heldTemp ∧ c.holdTimer = b.holdTimer ∧
    c.health = b.health ∧ c.failCount = b.failCount

theorem BatteryUnit.SameReadings.refl (b : BatteryUnit) : b.SameReadings b := ⟨rfl, rfl, rfl, rfl, rfl, rfl, rfl⟩

theorem BatteryUnit.SameReadings.trans {b c d : BatteryUnit} (h : b.SameReadings c) (k : c.SameReadings d) : b.SameReadings d := by
  obtain ⟨h1, h2, h3, h4, h5, h6, h7⟩ := h
  obtain ⟨k1, k2, k3, k4, k5, k6, k7⟩ := k
  exact ⟨k1.trans h1, k2.trans h2, k3.trans h3, k4.trans h4, k5.trans h5, k6.trans h6, k7.trans h7⟩

theorem BatteryUnit.SameReadings.workingTemp {b c : BatteryUnit} (h : b.SameReadings c) : c.workingTemp = b.workingTemp := by
  obtain ⟨-, -, hstate, hheld, -⟩ := h
  rw [BatteryUnit.workingTemp, hstate, hheld, BatteryUnit.workingTemp]

theorem BatteryUnit.SameReadings.inCharge (b : BatteryUnit) (c : ChargeState) : b.SameReadings (b.inCharge c) := by
  simp [BatteryUnit.SameReadings]

/-- The readings on which the charge rules turn are the same, and so are the measurements. -/
structure SameInputs (u t : State) : Prop where
  readings : u.battery.SameReadings t.battery
  supply : t.supply = u.supply
  store : t.store = u.store

theorem SameInputs.refl (u : State) : SameInputs u u := ⟨.refl _, rfl, rfl⟩

theorem SameInputs.trans (h : SameInputs u t) (k : SameInputs t v) : SameInputs u v :=
  ⟨h.readings.trans k.readings, k.supply.trans h.supply, k.store.trans h.store⟩

theorem SameInputs.setCharge (u : State) (c : ChargeState) : SameInputs u (u.setCharge c) :=
  ⟨by rw [State.setCharge_battery]; exact .inCharge _ _, by simp, by simp⟩

theorem SameInputs.chargerUpdate (u : State) : SameInputs u u.chargerUpdate :=
  ⟨by simp [BatteryUnit.SameReadings], by simp, by simp⟩

section
variable (h : SameInputs u t)
include h

theorem SameInputs.batteryTable : t.batteryTable = u.batteryTable := (State.tables_congr h.store).2.1

theorem SameInputs.outsideWindow : t.outsideWindow = u.outsideWindow := by
  simp only [State.outsideWindow, h.batteryTable, h.readings.workingTemp]

theorem SameInputs.insideMargin : t.insideMargin = u.insideMargin := by
  simp only [State.insideMargin, h.batteryTable, h.readings.workingTemp]

theorem SameInputs.absorbTarget : t.absorbTarget = u.absorbTarget := by
  simp only [State.absorbTarget, h.batteryTable, h.readings.workingTemp]

theorem SameInputs.floatTarget : t.floatTarget = u.floatTarget := by
  simp only [State.floatTarget, h.batteryTable, h.readings.workingTemp]

theorem SameInputs.testMinimum : t.testMinimum = u.testMinimum := by
  simp only [State.testMinimum, h.batteryTable, h.readings.workingTemp]

theorem SameInputs.soc : t.soc = u.soc := State.soc_congr h.readings.1 h.store

theorem SameInputs.frameRests : t.frameRests = u.frameRests := by
  simp only [State.frameRests, h.outsideWindow, h.supply]

theorem SameInputs.entryChoice : t.entryChoice = u.entryChoice := by
  obtain ⟨-, -, hstate, -⟩ := h.readings
  have hchoice : t.battery.bulkChoice = u.battery.bulkChoice := by rw [BatteryUnit.bulkChoice, BatteryUnit.bulkChoice, hstate]
  have hrest : t.restCondition = u.restCondition := by simp only [State.restCondition, State.fresh, h.outsideWindow, h.supply]
  rw [State.entryChoice, State.entryChoice, hchoice, hrest]

theorem SameInputs.chargerContent (hcharge : t.battery.charge = u.battery.charge) (hdisconnect : t.battery.disconnect = u.battery.disconnect) :
    t.chargerContent = u.chargerContent := by
  simp only [State.chargerContent, hcharge, hdisconnect, h.absorbTarget, h.floatTarget, h.batteryTable]

end

/-! ## Charge and temperature (R117 to R121) -/

/-- The Battery Unit once the charge, the float-full timer and the temperature have been taken. -/
def State.readingsTaken (u : State) (gap : Gap) : State := (u.frameCharge gap).frameFloatFull.frameTemperature

theorem State.batteryFrame_eq (gap : Gap) :
    u.batteryFrame gap = (u.readingsTaken gap).frameTest.frameState.chargerUpdate := (rfl)

/-- The float-full timer that a frame leaves (R119). -/
def State.fullTimer (u : State) : Timer :=
  if u.battery.charge = .float then
    (if u.floatSettled then (if u.battery.floatFullTimer.isSome then u.battery.floatFullTimer else u.timer (sec 3600)) else none)
  else u.battery.floatFullTimer

theorem OnFrame.readingsTaken (gap : Gap) : OnFrame u (u.readingsTaken gap) := by
  have hfull : ∀ s : State, OnFrame s s.frameFloatFull := fun s => .andIf fun _ => .setBattery _
  have htemp : ∀ s : State, OnFrame s s.frameTemperature := fun s => by
    unfold State.frameTemperature
    split
    · exact .setBattery _
    · exact .andIf fun _ => .setBattery _
  exact (OnFrame.setBattery _).trans ((hfull _).trans (htemp _))

/-- The unit with the temperature of a frame (R121). -/
def State.withTemperature (u : State) : BatteryUnit :=
  if readingValid u.supply.meas then { u.battery with tempState := .valid, heldTemp := u.supply.meas.temperature, holdTimer := none }
  else if u.battery.tempState = .valid then { u.battery with tempState := .holding, holdTimer := u.timer (sec 60) }
  else u.battery

theorem State.frameTemperature_battery (u : State) : u.frameTemperature.battery = u.withTemperature := by
  unfold State.frameTemperature State.withTemperature
  split
  · rfl
  · split <;> rfl

theorem State.frameFloatFull_battery (u : State) : u.frameFloatFull.battery = { u.battery with floatFullTimer := u.fullTimer } := by
  unfold State.frameFloatFull State.fullTimer
  split <;> rfl

/-- The charge that a frame leaves (R117 to R119). -/
def State.frameQ (u : State) (gap : Gap) : Nat := if u.belowCutoff then 0 else (u.integrate gap).1

/-- What the readings of a frame leave of the unit: charge, temperature and the float-full timer have their new values, and nothing else
has changed. -/
structure ReadingsTaken (u : State) (gap : Gap) (c : BatteryUnit) : Prop where
  q : c.q = u.frameQ gap
  current : c.prevCurrent = some u.supply.meas.current
  fullTimer : c.floatFullTimer = u.fullTimer
  tempState : c.tempState = u.withTemperature.tempState
  heldTemp : c.heldTemp = u.withTemperature.heldTemp
  holdTimer : c.holdTimer = u.withTemperature.holdTimer
  others : c = { u.battery with
    q := c.q, prevCurrent := c.prevCurrent, floatFullTimer := c.floatFullTimer, tempState := c.tempState, heldTemp := c.heldTemp,
    holdTimer := c.holdTimer }

theorem State.readingsTaken_battery (u : State) (gap : Gap) : ReadingsTaken u gap (u.readingsTaken gap).battery := by
  have hcharge : (u.frameCharge gap).battery = { u.battery with q := u.frameQ gap, prevCurrent := some u.supply.meas.current } := by
    unfold State.frameCharge State.frameQ
    rfl
  have hfull := (u.frameCharge gap).frameFloatFull_battery
  have htimer : (u.frameCharge gap).fullTimer = u.fullTimer := by
    simp [State.fullTimer, State.floatSettled, State.batteryTable, State.table, hcharge, State.timer]
  rw [hcharge, htimer] at hfull
  have hsame : (u.frameCharge gap).frameFloatFull.supply = u.supply ∧ (u.frameCharge gap).frameFloatFull.now = u.now := by simp
  obtain ⟨hsupply, hnow⟩ := hsame
  rw [State.readingsTaken, State.frameTemperature_battery]
  generalize (u.frameCharge gap).frameFloatFull = c at hfull hsupply hnow
  have htimed : c.timer (sec 60) = u.timer (sec 60) := by rw [State.timer, hnow]; rfl
  generalize hx : u.frameQ gap = x at hfull
  have hc : c.withTemperature = { c.battery with
      tempState := u.withTemperature.tempState, heldTemp := u.withTemperature.heldTemp, holdTimer := u.withTemperature.holdTimer } := by
    unfold State.withTemperature
    rw [hsupply, htimed, hfull]
    dsimp only
    split
    · rfl
    · split <;> rfl
  rw [hc, hfull]
  exact ⟨hx.symm, rfl, rfl, rfl, rfl, rfl, rfl⟩

end

end Sys2Proof.Machine
end

