-- ==== Sys2Proof/Proofs/FrameCharge.lean ====
section
/-! The charge state and a running test at a CABINET frame (R123 to R126, R130, R132, R127), from the readings of the frame. -/

namespace Sys2Proof.Machine

/-- The unit as the readings of a frame leave it, before its test and its charge state are judged. -/
structure CabinetRead (f : CabinetFrame) (s x : State) : Prop where
  meas : x.supply.meas = frameMeasurements f
  fault : x.supply.chargerFault = f.flags.getLsbD 1
  fresh : x.supply.freshness = .fresh
  now : x.now = s.now
  store : x.store = s.store
  links : x.links = s.links
  reports : x.reports = s.reports
  seconds : x.cmd.seconds = s.cmd.seconds
  fullTimer : s.battery.charge = .float → x.battery.floatFullTimer =
    (if 0 ≤ f.current.toInt ∧ f.current.toInt ≤ (absorbEndCurrent s.batteryTable : Int) then
      (if s.battery.floatFullTimer.isSome then s.battery.floatFullTimer else startAt s.now (sec 3600)) else none)
  others : x.battery = { s.battery with
    q := x.battery.q, prevCurrent := x.battery.prevCurrent, floatFullTimer := x.battery.floatFullTimer, tempState := x.battery.tempState,
    heldTemp := x.battery.heldTemp, holdTimer := x.battery.holdTimer }

/-- The charge state and its timers at most differ. -/
def ChargeOnly (b c : BatteryUnit) : Prop :=
  c = { b with charge := c.charge, absorbTimer := c.absorbTimer, rebulkTimer := c.rebulkTimer, floatFullTimer := c.floatFullTimer }

section
variable {f : CabinetFrame} {s x y : State}

theorem ChargeOnly.setCharge (y : State) (c : ChargeState) : ∃ b, y.setCharge c = y.setBattery b ∧ ChargeOnly y.battery b := ⟨_, rfl, rfl⟩

/-! ### The rule of each charge state -/

theorem State.frameState_off (h : y.battery.charge = .off) : y.frameState = y := by simp only [State.frameState, h]

theorem State.frameState_rest (h : y.battery.charge = .rest) :
    y.frameState = if y.fresh ∧ !y.supply.chargerFault ∧ y.insideMargin then y.setCharge y.entryChoice else y := by
  simp only [State.frameState, h, State.frameRest]

theorem State.frameState_bulk (h : y.battery.charge = .bulk) :
    y.frameState = if y.frameRests then y.setCharge .rest else if y.absorbTarget ≤ y.batteryMillivolts then
      y.setBattery { y.battery.inCharge .absorb with absorbTimer := y.timer (sec (3600 * absorbMaxTime y.batteryTable)) } else y := by
  simp only [State.frameState, h]
  rfl

theorem State.frameState_absorb (h : y.battery.charge = .absorb) :
    y.frameState = if y.frameRests then y.setCharge .rest else
      if y.supply.meas.current ≤ (absorbEndCurrent y.batteryTable : Int) then y.setCharge .float else y := by
  simp only [State.frameState, h]
  rfl

theorem State.frameState_float (h : y.battery.charge = .float) :
    y.frameState = if y.frameRests then y.setCharge .rest else y.frameFloat := by simp only [State.frameState, h]

theorem State.frameState_test (h : y.battery.charge = .test) :
    y.frameState = if y.frameRests then y.setCharge .rest else y := by simp only [State.frameState, h]

/-- The charge-state rules move the charge state and its timers alone. -/
theorem State.frameState_only (y : State) : ∃ b, y.frameState = y.setBattery b ∧ ChargeOnly y.battery b := by
  have hself : ∃ b, y = y.setBattery b ∧ ChargeOnly y.battery b := ⟨y.battery, rfl, rfl⟩
  have hset := ChargeOnly.setCharge y
  cases hcharge : y.battery.charge with
  | off => rw [State.frameState_off hcharge]; exact hself
  | rest =>
    rw [State.frameState_rest hcharge]
    split
    · exact hset _
    · exact hself
  | bulk =>
    rw [State.frameState_bulk hcharge]
    split
    · exact hset _
    · split
      · exact ⟨_, rfl, rfl⟩
      · exact hself
  | absorb =>
    rw [State.frameState_absorb hcharge]
    split
    · exact hset _
    · split
      · exact hset _
      · exact hself
  | float =>
    rw [State.frameState_float hcharge]
    unfold State.frameFloat
    split
    · exact hset _
    · split
      · exact ⟨_, rfl, rfl⟩
      · split
        · exact hset _
        · split
          · exact ⟨_, rfl, rfl⟩
          · exact ⟨_, rfl, rfl⟩
  | test =>
    rw [State.frameState_test hcharge]
    split
    · exact hset _
    · exact hself

theorem ChargeOnly.inputs {b : BatteryUnit} (h : ChargeOnly y.battery b) : SameInputs y (y.setBattery b) := by
  refine ⟨?_, rfl, rfl⟩
  show y.battery.SameReadings b
  rw [ChargeOnly] at h
  rw [h]
  exact ⟨rfl, rfl, rfl, rfl, rfl, rfl, rfl⟩

theorem State.frameState_inputs (y : State) : SameInputs y y.frameState := by
  obtain ⟨b, hb, honly⟩ := y.frameState_only
  rw [hb]
  exact honly.inputs

/-- The last two steps of a frame keep what the rules turn on. -/
theorem State.frameEnd_inputs (y : State) : SameInputs y y.frameState.chargerUpdate :=
  y.frameState_inputs.trans (.chargerUpdate _)

section
variable (h : CabinetRead f s x) {w : State} (hw : SameInputs x w)
include h hw

theorem CabinetRead.outside_iff : x.outsideWindow = true ↔ OutsideWindow s w := by
  have htable : x.batteryTable = s.batteryTable := (State.tables_congr h.store).2.1
  simp [State.outsideWindow, OutsideWindow, htable, hw.readings.workingTemp]

theorem CabinetRead.rests_iff : x.frameRests = true ↔ FrameRests f s w := by
  rw [State.frameRests, Bool.or_eq_true, h.outside_iff hw, h.fault]

theorem CabinetRead.leavesRest_iff : (x.fresh ∧ !x.supply.chargerFault ∧ x.insideMargin) ↔ FrameLeavesRest f s w := by
  have htable : x.batteryTable = s.batteryTable := (State.tables_congr h.store).2.1
  simp [State.fresh, State.insideMargin, FrameLeavesRest, h.fresh, h.fault, htable, hw.readings.workingTemp]

omit h in
theorem SameInputs.bulkOrFloat : x.battery.bulkChoice = BulkOrFloat w := by
  obtain ⟨-, -, hstate, -⟩ := hw.readings
  rw [BatteryUnit.bulkChoice, BulkOrFloat, hstate]

/-- Out of REST the entry choice is BULK or FLOAT; with a rest condition it is REST (R123, R126). -/
theorem CabinetRead.entryChoice_of_rests (hr : FrameRests f s w) : x.entryChoice = .rest := by
  have hcondition : x.restCondition = true := by
    rw [State.restCondition, Bool.or_eq_true]
    exact .inl ((h.rests_iff hw).2 hr)
  rw [State.entryChoice, if_pos hcondition]

theorem CabinetRead.entryChoice_of_clear (hr : ¬ FrameRests f s w) : x.entryChoice = BulkOrFloat w := by
  have hcondition : ¬ x.restCondition = true := by
    rw [State.restCondition, Bool.or_eq_true, not_or]
    exact ⟨fun hrests => hr ((h.rests_iff hw).1 hrests), by simp [State.fresh, h.fresh]⟩
  rw [State.entryChoice, if_neg hcondition, hw.bulkOrFloat]

omit h hw in
theorem FrameLeavesRest.not_rests (hl : FrameLeavesRest f s w) : ¬ FrameRests f s w := by
  obtain ⟨hfault, hlow, hhigh⟩ := hl
  rintro ((hcold | hhot) | hbad)
  · omega
  · omega
  · rw [hfault] at hbad
    cases hbad

end

/-! ## The charge state with no test running (R123 to R126) -/

/-- The content of the CHARGER frame and its sending, after the charge state (R127). -/
theorem State.chargerUpdate_sends (y : State) :
    (y.chargerUpdate.chargerContent = y.battery.sent → y.chargerUpdate.links = y.links ∧ y.chargerUpdate.battery.repeatTimer = y.battery.repeatTimer) ∧
      (y.chargerUpdate.chargerContent ≠ y.battery.sent →
        Handed y.chargerUpdate.chargerContent.frame y y.chargerUpdate ∧ y.chargerUpdate.battery.repeatTimer = y.timer (sec 1)) := by
  have hcontent : y.chargerUpdate.chargerContent = y.chargerContent :=
    (SameInputs.chargerUpdate y).chargerContent (by simp) (by simp)
  rw [hcontent]
  unfold State.chargerUpdate
  refine ⟨fun hsame => ?_, fun hdiffers => ?_⟩
  · rw [if_pos hsame]
    exact ⟨rfl, rfl⟩
  · rw [if_neg hdiffers]
    unfold State.chargerSend State.hand
    rw [if_neg (fun hkind => (ChargerContent.frame_kind_ne _) hkind.1)]
    exact ⟨rfl, rfl⟩

/-- The charge state of a frame with no test running, from the readings of the frame. -/
theorem CabinetRead.chargeTaken (h : CabinetRead f s x) : ChargeTaken f s x.frameState.chargerUpdate := by
  have hw := x.frameEnd_inputs
  have hupdate := x.frameState.chargerUpdate_fields
  have hsends := x.frameState.chargerUpdate_sends
  have hlinks : x.frameState.links = s.links := by simpa using h.links
  obtain ⟨b, hb, honly⟩ := x.frameState_only
  have hothers := h.others
  have hsent : x.frameState.battery.sent = s.battery.sent ∧ x.frameState.battery.repeatTimer = s.battery.repeatTimer := by
    rw [hb]
    show b.sent = s.battery.sent ∧ b.repeatTimer = s.battery.repeatTimer
    rw [ChargeOnly] at honly
    rw [honly, hothers]
    exact ⟨rfl, rfl⟩
  have hcharge : x.battery.charge = s.battery.charge ∧ x.battery.absorbTimer = s.battery.absorbTimer ∧
      x.battery.rebulkTimer = s.battery.rebulkTimer := by rw [hothers]; exact ⟨rfl, rfl, rfl⟩
  obtain ⟨hcharge, habsorb, hrebulk⟩ := hcharge
  have htable : x.batteryTable = s.batteryTable := (State.tables_congr h.store).2.1
  have htarget := hw.absorbTarget
  have hfloat := hw.floatTarget
  have hsoc := hw.soc
  obtain ⟨-, -, htemp, -⟩ := id hw.readings
  have htimer : ∀ d, x.timer d = startAt s.now d := fun d => by rw [State.timer, h.now]
  have hztimer : ∀ d, x.frameState.timer d = startAt s.now d := fun d => by rw [State.timer, State.frameState_frame x |>.1, h.now]
  have hmillivolts : x.batteryMillivolts = 10 * (f.battery.toNat : Int) := by rw [State.batteryMillivolts, h.meas]; rfl
  have hcurrent : x.supply.meas.current = f.current.toInt := by rw [h.meas]; rfl
  have hrests := h.rests_iff hw
  have hleaves := h.leavesRest_iff hw
  generalize x.frameState.chargerUpdate = w at *
  obtain ⟨huc, -, -, -, -, -, -, -, -, -, -, -, -, -, -, -, -, -, -, hurebulk, huabsorb, hufull, -⟩ := hupdate
  refine ⟨fun hc => ?off, fun hc => ?rest, fun hoff hrest hr => ?rests, fun hc hr => ?bulk, fun hc hr => ?absorb, fun hc hr => ?float, ?same, ?sent⟩
  case off => rw [huc, State.frameState_off (by rw [hcharge, hc]), hcharge, hc]
  case rest =>
    rw [huc, State.frameState_rest (by rw [hcharge, hc])]
    refine ⟨fun hl => ?_, fun hl => ?_⟩
    · rw [if_pos (hleaves.2 hl), State.setCharge_battery]
      exact h.entryChoice_of_clear hw hl.not_rests
    · rw [if_neg fun hl' => hl (hleaves.1 hl'), hcharge, hc]
  case rests =>
    have hrest' : x.frameState = x.setCharge .rest := by
      cases hxc : x.battery.charge with
      | off => exact absurd (hcharge.symm.trans hxc) hoff
      | rest => exact absurd (hcharge.symm.trans hxc) hrest
      | bulk => rw [State.frameState_bulk hxc, if_pos (hrests.2 hr)]
      | absorb => rw [State.frameState_absorb hxc, if_pos (hrests.2 hr)]
      | float => rw [State.frameState_float hxc, if_pos (hrests.2 hr)]
      | test => rw [State.frameState_test hxc, if_pos (hrests.2 hr)]
    rw [huc, huabsorb, hurebulk, hufull, hrest']
    exact ⟨rfl, rfl, rfl, rfl⟩
  case bulk =>
    rw [huc, huabsorb, State.frameState_bulk (by rw [hcharge, hc]), if_neg fun hr' => hr (hrests.1 hr'), htarget, hmillivolts]
    refine ⟨fun hreached => ?_, fun hbelow => ?_⟩
    · rw [if_pos hreached, htable, ← htimer]
      exact ⟨rfl, rfl⟩
    · rw [if_neg (not_le.2 hbelow), hcharge, hc]
  case absorb =>
    rw [huc, huabsorb, State.frameState_absorb (by rw [hcharge, hc]), if_neg fun hr' => hr (hrests.1 hr'), hcurrent, htable]
    refine ⟨fun hends => ?_, fun hlasts => ?_⟩
    · rw [if_pos hends]
      exact ⟨rfl, rfl⟩
    · rw [if_neg (not_le.2 hlasts), hcharge, hc, habsorb]
      exact ⟨rfl, rfl⟩
  case float =>
    have hfull := h.fullTimer hc
    rw [huc, hurebulk, hufull, State.frameState_float (by rw [hcharge, hc]), if_neg fun hr' => hr (hrests.1 hr'), htemp, hsoc, hfloat]
    unfold State.frameFloat
    refine ⟨fun hwarm hlow => ?_, fun hstays => ?_⟩
    · rw [if_neg hwarm, if_pos hlow]
      exact ⟨rfl, rfl, rfl⟩
    · rw [← hfull, ← hmillivolts, ← hrebulk, ← htimer]
      have hstay : ∀ r, ({ x.battery with rebulkTimer := r } : BatteryUnit).charge = .float := fun r => hcharge.trans hc
      by_cases hfault : x.battery.tempState = .fault
      · rw [if_pos hfault, if_neg (fun hi => hi.1 hfault)]
        exact ⟨hstay _, rfl, rfl⟩
      · have hsoc' : ¬ x.soc < 90 := not_lt.2 (hstays.resolve_left hfault)
        rw [if_neg hfault, if_neg hsoc']
        by_cases hsags : x.batteryMillivolts < x.floatTarget - 500
        · rw [if_pos hsags, if_pos (And.intro hfault hsags)]
          exact ⟨hstay _, rfl, rfl⟩
        · rw [if_neg hsags, if_neg (fun hi => hsags hi.2)]
          exact ⟨hstay _, rfl, rfl⟩
  case same =>
    obtain ⟨hsame, -⟩ := hsends
    rw [hsent.1, hsent.2, hlinks] at hsame
    exact hsame
  case sent =>
    obtain ⟨-, hdiffers⟩ := hsends
    rw [hsent.1, Handed, hlinks, hztimer] at hdiffers
    exact hdiffers

/-! ## A running test (R130, R132) -/

/-- The results of a test and the readings of the unit that an abort leaves. -/
structure TestAborted (cause : AbortCause) (charge : ChargeState) (m y : State) : Prop where
  inputs : SameInputs m y
  charge : y.battery.charge = charge
  idle : y.battery.testState = .idle
  timers : y.battery.testTimer = none ∧ y.battery.retryTimer = none
  result : y.battery.lastResult = .aborted ∧ y.battery.lastTime = some m.cmd.seconds
  reports : y.reports = (m.reports.enter 2 m.cmd.seconds (.battery (m.abortReport cause))).1

theorem State.abortTest_aborted {m : State} (cause : AbortCause) (charge : ChargeState) (hrun : m.battery.testState = .running)
    (hnothing : m.nothingPending) : TestAborted cause charge m (m.abortTest cause charge) := by
  rw [State.abortTest_of_nothing _ _ hrun hnothing]
  have hready : SameInputs m (m.setBattery ((m.battery.testEnded .aborted m.cmd.seconds).inCharge charge)) :=
    ⟨by simp [BatteryUnit.SameReadings, BatteryUnit.testEnded], rfl, rfl⟩
  have hreport : ∀ v : State, SameInputs v (v.report 2 (.battery (m.abortReport cause))) := fun v => ⟨.refl _, rfl, rfl⟩
  refine ⟨hready.trans ((SameInputs.chargerUpdate _).trans (hreport _)), ?_, ?_, ?_, ?_, ?_⟩ <;>
    simp [BatteryUnit.testEnded, State.report]

/-- An abort's results through the end of the frame. -/
theorem TestAborted.ends {cause : AbortCause} {charge : ChargeState} {m y : State} (h : TestAborted cause charge m y) :
    let w := y.frameState.chargerUpdate
    w.battery.testState = .idle ∧ w.battery.testTimer = none ∧ w.battery.retryTimer = none ∧ w.battery.lastResult = .aborted ∧
      w.battery.lastTime = some m.cmd.seconds ∧ w.battery.charge = y.frameState.battery.charge ∧ w.reports = y.reports := by
  obtain ⟨b, hb, honly⟩ := y.frameState_only
  obtain ⟨htest, hretry⟩ := h.timers
  obtain ⟨hresult, htime⟩ := h.result
  rw [ChargeOnly] at honly
  have hz : y.frameState.battery = b := by rw [hb]; rfl
  refine ⟨?_, ?_, ?_, ?_, ?_, by simp, by simp⟩
  all_goals simp only [State.chargerUpdate_fields, hz]; rw [honly]
  · exact h.idle
  · exact htest
  · exact hretry
  · exact hresult
  · exact htime

/-- A frame taken into the measurement moves the lowest voltage, the sum and the count alone (R130). -/
theorem State.measureTest_inputs (x : State) : SameInputs x x.measureTest := ⟨⟨rfl, rfl, rfl, rfl, rfl, rfl, rfl⟩, rfl, rfl⟩

/-- The report of an abort at a frame, with the frame in the measurement. -/
theorem CabinetRead.abortReport_eq (h : CabinetRead f s x) {w : State} (hw : SameInputs x w) (cause : AbortCause) :
    x.measureTest.abortReport cause = frameAbortReport f s w cause := by
  have hothers := h.others
  have hmin := hw.testMinimum
  have htemp := hw.readings.workingTemp
  obtain ⟨-, -, hstate, -, -, -, -⟩ := id hw.readings
  have hmeasured : x.measureTest.testMinimum = x.testMinimum := x.measureTest_inputs.testMinimum
  have hb : x.measureTest.battery.vMin = some ((s.battery.vMin.map (min f.battery.toNat)).getD f.battery.toNat) := by
    have hvmin : x.battery.vMin = s.battery.vMin := by rw [hothers]
    show some (lowerOf x.supply.meas.battery x.battery.vMin) = _
    rw [h.meas, hvmin]
    cases s.battery.vMin <;> rfl
  have hkept : x.battery.testOrigin = s.battery.testOrigin ∧ x.battery.vRest = s.battery.vRest ∧ x.battery.health = s.battery.health ∧
      x.battery.failCount = s.battery.failCount := by rw [hothers]; exact ⟨rfl, rfl, rfl, rfl⟩
  obtain ⟨horigin, hrest, hhealth, hfail⟩ := hkept
  rw [State.abortReport, frameAbortReport, hmeasured, hb, hmin, htemp, hstate, ← horigin, ← hrest, ← hhealth, ← hfail]
  rfl

/-- The three ways in which a frame ends a test, and the measurement where none of them holds (R130). -/
theorem State.frameTest_running (hrun : x.battery.testState = .running) :
    x.frameTest = if !x.measureTest.tripReady then x.measureTest.abortTest .tripEnergy x.measureTest.entryChoice
      else if x.measureTest.outsideWindow then x.measureTest.abortTest .temperature .rest
      else if x.measureTest.supply.chargerFault then x.measureTest.abortTest .chargerFault .rest
      else x.measureTest := by
  rw [State.frameTest, if_pos hrun]

/-- A charge state at REST stays there at a frame that rests (R126). -/
theorem CabinetRead.rest_stays (h : CabinetRead f s x) {w : State} (hy : SameInputs x y) (hw : SameInputs x w) (hc : y.battery.charge = .rest)
    (hr : FrameRests f s w) : y.frameState = y := by
  rw [State.frameState_rest hc, if_neg]
  intro hleaves
  refine ((h.leavesRest_iff hw).1 ?_).not_rests hr
  rw [State.fresh, hy.supply, hy.insideMargin] at hleaves
  exact hleaves

/-- BULK or FLOAT after an abort, with no rest condition: BULK may lead to ABSORB at once (R124). -/
theorem CabinetRead.bulk_goes (h : CabinetRead f s x) {w : State} (hy : SameInputs x y) (hw : SameInputs x w)
    (hc : y.battery.charge = BulkOrFloat w) (hr : ¬ FrameRests f s w) :
    y.frameState.battery.charge =
      if w.battery.tempState = .fault then .float else if w.absorbTarget ≤ 10 * (f.battery.toNat : Int) then .absorb else .bulk := by
  have hrests : ¬ y.frameRests = true := by
    rw [hy.frameRests]
    exact fun hx => hr ((h.rests_iff hw).1 hx)
  obtain ⟨-, -, htemp, -⟩ := id hw.readings
  obtain ⟨-, -, hytemp, -⟩ := id hy.readings
  by_cases hfault : w.battery.tempState = .fault
  · rw [BulkOrFloat, if_pos hfault] at hc
    rw [if_pos hfault, State.frameState_float hc, if_neg hrests, State.frameFloat, if_pos (by rw [hytemp, ← htemp]; exact hfault)]
    exact hc
  · rw [BulkOrFloat, if_neg hfault] at hc
    have hmillivolts : y.batteryMillivolts = 10 * (f.battery.toNat : Int) := by
      rw [State.batteryMillivolts, hy.supply, h.meas]
      rfl
    rw [if_neg hfault, State.frameState_bulk hc, if_neg hrests, hy.absorbTarget, hw.absorbTarget, hmillivolts]
    split
    · rfl
    · exact hc

/-- The frame's step for a test keeps what the rules turn on (R130). -/
theorem State.frameTest_inputs (hnothing : x.nothingPending) : SameInputs x x.frameTest := by
  by_cases hrun : x.battery.testState = .running
  · have habort : ∀ cause charge, SameInputs x (x.measureTest.abortTest cause charge) := fun cause charge =>
      x.measureTest_inputs.trans (State.abortTest_aborted (m := x.measureTest) cause charge hrun hnothing).inputs
    rw [State.frameTest_running hrun]
    split
    · exact habort _ _
    · split
      · exact habort _ _
      · split
        · exact habort _ _
        · exact x.measureTest_inputs
  · rw [State.frameTest, if_neg hrun]
    exact .refl x

/-- The results of a test that a frame aborts, as R132 keeps them. -/
def FrameAborted (f : CabinetFrame) (s t : State) (cause : AbortCause) : Prop :=
  t.battery.testState = .idle ∧ t.battery.testTimer = none ∧ t.battery.retryTimer = none ∧ t.battery.lastResult = .aborted ∧
    t.battery.lastTime = some s.cmd.seconds ∧ t.battery.health = s.battery.health ∧ t.battery.failCount = s.battery.failCount ∧
    (s.seq.energyWait = none → t.reports = (s.reports.enter 2 s.cmd.seconds (.battery (frameAbortReport f s t cause))).1)

/-- A running test after a frame. -/
theorem CabinetRead.testTaken (h : CabinetRead f s x) (hnothing : x.nothingPending) (hrun : s.battery.testState = .running)
    (hcharge : s.battery.charge = .test) : TestTaken f s x.frameTest.frameState.chargerUpdate := by
  have hothers := h.others
  have hkept : x.battery.testState = s.battery.testState ∧ x.battery.charge = s.battery.charge ∧ x.battery.testTimer = s.battery.testTimer ∧
      x.battery.health = s.battery.health ∧ x.battery.failCount = s.battery.failCount := by rw [hothers]; exact ⟨rfl, rfl, rfl, rfl, rfl⟩
  obtain ⟨hxrun, hxcharge, hxtimer, hhealth, hfail⟩ := hkept
  have hmrun : x.measureTest.battery.testState = .running := hxrun.trans hrun
  have htest := State.frameTest_running (hxrun.trans hrun)
  have habort : ∀ cause charge, x.frameTest = x.measureTest.abortTest cause charge →
      TestAborted cause charge x.measureTest x.frameTest := fun cause charge heq => by
    rw [heq]
    exact State.abortTest_aborted cause charge hmrun hnothing
  have hready : x.measureTest.tripReady = decide (tripReadyLevel s.unit ≤ f.tripCap.toNat) := by
    have hunit : x.measureTest.unit = s.unit := (State.tables_congr h.store).1
    rw [State.tripReady, hunit]
    show decide (tripReadyLevel s.unit ≤ x.supply.meas.tripCap) = _
    rw [h.meas]
    rfl
  have hwindow : x.measureTest.outsideWindow = x.outsideWindow := x.measureTest_inputs.outsideWindow
  have hfaulty : x.measureTest.supply.chargerFault = f.flags.getLsbD 1 := h.fault
  rw [hready, hwindow, hfaulty] at htest
  have hchoice := x.measureTest_inputs.entryChoice
  have hy := State.frameTest_inputs hnothing
  have hw : SameInputs x x.frameTest.frameState.chargerUpdate := hy.trans (State.frameEnd_inputs _)
  have haborted : ∀ cause charge, TestAborted cause charge x.measureTest x.frameTest →
      FrameAborted f s x.frameTest.frameState.chargerUpdate cause := fun cause charge ha => by
    obtain ⟨hidle, htimer, hretry, hresult, htime, -, hreports⟩ := ha.ends
    obtain ⟨-, -, -, -, -, hwhealth, hwfail⟩ := id hw.readings
    refine ⟨hidle, htimer, hretry, hresult, ?_, hwhealth.trans hhealth, hwfail.trans hfail, fun _ => ?_⟩
    · rw [htime, ← h.seconds]
      rfl
    · rw [hreports, ha.reports, h.abortReport_eq hw, ← h.reports, ← h.seconds]
      rfl
  have hrests : ∀ cause, TestAborted cause .rest x.measureTest x.frameTest → FrameRests f s x.frameTest.frameState.chargerUpdate →
      x.frameTest.frameState.chargerUpdate.battery.charge = .rest := fun cause ha hr => by
    obtain ⟨-, -, -, -, -, hcharge, -⟩ := ha.ends
    rw [hcharge, h.rest_stays hy hw ha.charge hr]
    exact ha.charge
  have houtside := h.outside_iff hw
  refine ⟨fun henergy => ?energy, fun henergy hout => ?window, fun henergy hin hfault => ?fault, fun henergy hclear => ?measured⟩
  case energy =>
    have ha := habort .tripEnergy x.measureTest.entryChoice (by rw [htest, if_pos (by simpa using henergy)])
    refine ⟨haborted _ _ ha, fun hr => ?_, fun hr => ?_⟩
    · rw [hchoice, h.entryChoice_of_rests hw hr] at ha
      exact hrests _ ha hr
    · rw [hchoice, h.entryChoice_of_clear hw hr] at ha
      obtain ⟨-, -, -, -, -, hcharge, -⟩ := ha.ends
      rw [hcharge, h.bulk_goes hy hw ha.charge hr]
  case window =>
    have ha := habort .temperature .rest (by rw [htest, if_neg (by simpa using henergy), if_pos (houtside.2 hout)])
    exact ⟨haborted _ _ ha, hrests _ ha (.inl hout)⟩
  case fault =>
    have ha := habort .chargerFault .rest (by
      rw [htest, if_neg (by simpa using henergy), if_neg (fun hx => hin (houtside.1 hx)), if_pos hfault])
    exact ⟨haborted _ _ ha, hrests _ ha (.inr hfault)⟩
  case measured =>
    obtain ⟨hin, hsound⟩ := not_or.1 hclear
    have heq : x.frameTest = x.measureTest := by
      rw [htest, if_neg (by simpa using henergy), if_neg (fun hx => hin (houtside.1 hx)), if_neg hsound]
    have hrest : ¬ x.measureTest.frameRests = true := by
      rw [x.measureTest_inputs.frameRests]
      exact fun hx => hclear ((h.rests_iff hw).1 hx)
    have hstays : x.frameTest.frameState = x.measureTest := by
      rw [heq, State.frameState_test (y := x.measureTest) (hxcharge.trans hcharge), if_neg hrest]
    rw [hstays]
    have hmin : x.battery.vMin = s.battery.vMin ∧ x.battery.dischargeSum = s.battery.dischargeSum ∧ x.battery.frameCount = s.battery.frameCount := by
      rw [hothers]; exact ⟨rfl, rfl, rfl⟩
    obtain ⟨hmin, hsum, hcount⟩ := hmin
    simp only [State.chargerUpdate_fields]
    refine ⟨hmrun, hxcharge.trans hcharge, hxtimer, ?_, ?_, ?_⟩
    · show some (lowerOf x.supply.meas.battery x.battery.vMin) = _
      rw [h.meas, hmin]
      cases s.battery.vMin <;> rfl
    · show x.battery.dischargeSum - x.supply.meas.current = _
      rw [h.meas, hsum]
      rfl
    · show x.battery.frameCount + 1 = _
      rw [hcount]

end

end Sys2Proof.Machine
end

