-- ==== Sys2Proof/Proofs/FramePower.lean ====
section
/-! The power state at a CABINET frame (R106 to R114) and its notice to the Battery Unit (R123), with nothing pending. -/

namespace Sys2Proof.Machine

/-! ## What the Supply Monitor's steps leave -/

/-- The power blocks, the reports, the links and the state-record request at most have changed. -/
def OnPower (u t : State) : Prop :=
  t = { u with
    supply := t.supply, battery := t.battery, reports := t.reports, links := t.links,
    store := { u.store with recordWaiting := t.store.recordWaiting } }

section
variable {u t v : State}

theorem OnPower.refl (u : State) : OnPower u u := (rfl)

theorem OnPower.trans (h : OnPower u t) (k : OnPower t v) : OnPower u v := by
  rw [OnPower] at h k ⊢
  rw [h] at k
  exact k

theorem OnFrame.onPower (h : OnFrame u t) : OnPower u t := by
  rw [OnFrame] at h
  rw [OnPower, h]

theorem OnPower.setSupply (x : SupplyMonitor) : OnPower u (u.setSupply x) := (rfl)

/-- What a step of the Supply Monitor leaves as it is. -/
theorem OnPower.same (h : OnPower u t) :
    SameClock u t ∧ SamePath u t ∧ SameDrive u t ∧ t.faults = u.faults ∧ t.tags = u.tags ∧ t.cmd = u.cmd ∧
      t.store = { u.store with recordWaiting := t.store.recordWaiting } := by
  rw [OnPower] at h
  rw [h]
  exact ⟨⟨rfl, rfl, rfl, rfl⟩, ⟨rfl, rfl, rfl⟩, ⟨rfl, rfl⟩, rfl, rfl, rfl, rfl⟩

theorem OnPower.tables (h : OnPower u t) : t.unit = u.unit ∧ t.batteryTable = u.batteryTable := by
  obtain ⟨-, -, -, -, -, -, hstore⟩ := h.same
  rw [State.unit, State.batteryTable, State.table, State.table, hstore]
  exact ⟨rfl, rfl⟩

theorem OnPower.nothing (h : OnPower u t) (hu : u.nothingPending) : t.nothingPending := by
  obtain ⟨-, -, -, -, -, -, hstore⟩ := h.same
  rw [State.nothingPending, hstore]
  exact hu

/-! ## The notice of a power state (R123) -/

/-- Charging has been turned off: the timers of the charge state stopped, a running test aborted. -/
structure TurnedOff (seconds : Long) (b c : BatteryUnit) : Prop where
  charge : c.charge = .off
  test : c.testState = .idle
  timers : c.absorbTimer = none ∧ c.rebulkTimer = none ∧ c.floatFullTimer = none
  kept : b.testState = .idle → c.lastResult = b.lastResult ∧ c.lastTime = b.lastTime ∧ c.testTimer = b.testTimer ∧ c.retryTimer = b.retryTimer
  aborted : b.testState = .running → c.lastResult = .aborted ∧ c.lastTime = some seconds ∧ c.testTimer = none ∧ c.retryTimer = none

/-- What a notice leaves of the Battery Unit and of the reports. -/
structure NoticeTaken (p : PowerState) (u t : State) : Prop where
  frame : OnFrame u t
  readings : u.battery.SameReadings t.battery
  off : p ≠ .normal → TurnedOff u.cmd.seconds u.battery t.battery
  on : p = .normal → t.battery.testState = u.battery.testState ∧ (u.battery.charge = .off → t.battery.charge = u.entryChoice)
  reports : u.battery.testState = .idle → t.reports = u.reports

theorem State.noticeNotNormal_taken (h : u.nothingPending) :
    OnFrame u u.noticeNotNormal ∧ u.battery.SameReadings u.noticeNotNormal.battery ∧
      TurnedOff u.cmd.seconds u.battery u.noticeNotNormal.battery ∧ (u.battery.testState = .idle → u.noticeNotNormal.reports = u.reports) := by
  by_cases hrun : u.battery.testState = .running
  · have heq : u.noticeNotNormal = u.abortTest .supplyLost .off := if_pos hrun
    have ha := State.abortTest_aborted .supplyLost .off hrun h
    obtain ⟨htest, hretry⟩ := ha.timers
    obtain ⟨hresult, htime⟩ := ha.result
    have htimers : (u.abortTest .supplyLost .off).battery.absorbTimer = none ∧ (u.abortTest .supplyLost .off).battery.rebulkTimer = none ∧
        (u.abortTest .supplyLost .off).battery.floatFullTimer = none := by
      rw [State.abortTest_of_nothing _ _ hrun h]
      simp [BatteryUnit.inCharge]
    rw [heq]
    exact ⟨.abortTest _ _ h, ha.inputs.readings, ⟨ha.charge, ha.idle, htimers, fun hi => (by rw [hi] at hrun; cases hrun),
      fun _ => ⟨hresult, htime, htest, hretry⟩⟩,
      fun hidle => (by rw [hidle] at hrun; cases hrun)⟩
  · have heq : u.noticeNotNormal = u.setCharge .off := if_neg hrun
    have hidle : u.battery.testState = .idle := by
      cases hs : u.battery.testState with
      | idle => rfl
      | running => exact absurd hs hrun
    rw [heq]
    exact ⟨.setBattery _, .inCharge _ _, ⟨rfl, hidle, ⟨rfl, rfl, rfl⟩, fun _ => ⟨rfl, rfl, rfl, rfl⟩, fun h => absurd h hrun⟩, fun _ => rfl⟩

theorem State.batteryNotice_taken (p : PowerState) (h : u.nothingPending) : NoticeTaken p u (u.batteryNotice p) := by
  have hupdate : ∀ v : State, v.battery.SameReadings v.chargerUpdate.battery := fun v => (SameInputs.chargerUpdate v).readings
  generalize hd : u.setBattery { u.battery with disconnect := u.battery.disconnect && decide (p = .cutoff) } = d
  have hframe : OnFrame u d := by rw [← hd]; rfl
  have hsame : SameInputs u d := by rw [← hd]; exact ⟨⟨rfl, rfl, rfl, rfl, rfl, rfl, rfl⟩, rfl, rfl⟩
  have htest : d.battery.testState = u.battery.testState ∧ d.battery.charge = u.battery.charge ∧ d.cmd.seconds = u.cmd.seconds ∧
      d.reports = u.reports := by rw [← hd]; exact ⟨rfl, rfl, rfl, rfl⟩
  obtain ⟨htest, hcharge, hseconds, hreports⟩ := htest
  by_cases hp : p = .normal
  · have heq : u.batteryNotice p = d.noticeNormal.chargerUpdate := by rw [State.batteryNotice, if_pos hp, hd]
    have hnormal : OnFrame d d.noticeNormal ∧ d.battery.SameReadings d.noticeNormal.battery ∧
        d.noticeNormal.battery.testState = d.battery.testState ∧ (d.battery.charge = .off → d.noticeNormal.battery.charge = d.entryChoice) ∧
        d.noticeNormal.reports = d.reports := by
      unfold State.noticeNormal
      by_cases hoff : d.battery.charge = .off
      · rw [if_pos hoff]
        exact ⟨.setBattery _, .inCharge _ _, rfl, fun _ => rfl, rfl⟩
      · rw [if_neg hoff]
        exact ⟨.refl d, .refl _, rfl, fun h => absurd h hoff, rfl⟩
    obtain ⟨h1, h2, h3, h4, h5⟩ := hnormal
    rw [heq]
    refine ⟨hframe.trans (h1.trans .chargerUpdate), hsame.readings.trans (h2.trans (hupdate _)), fun hne => absurd hp hne, fun _ => ⟨?_, fun hoff => ?_⟩,
      fun _ => ?_⟩
    · simp only [State.chargerUpdate_fields]
      rw [h3, htest]
    · simp only [State.chargerUpdate_fields]
      rw [h4 (hcharge.trans hoff), hsame.entryChoice]
    · rw [State.chargerUpdate_frame d.noticeNormal |>.2.2.2.2.2.2.2.2.2.1, h5, hreports]
  · have heq : u.batteryNotice p = d.noticeNotNormal.chargerUpdate := by rw [State.batteryNotice, if_neg hp, hd]
    obtain ⟨h1, h2, hoff, h4⟩ := State.noticeNotNormal_taken (hframe.nothing h)
    have hsameTest : d.battery.lastResult = u.battery.lastResult ∧ d.battery.lastTime = u.battery.lastTime ∧
        d.battery.testTimer = u.battery.testTimer ∧ d.battery.retryTimer = u.battery.retryTimer := by rw [← hd]; exact ⟨rfl, rfl, rfl, rfl⟩
    obtain ⟨t1, t2, t3, t4⟩ := hsameTest
    obtain ⟨o1, o2, ⟨o3, o4, o5⟩, o6, o7⟩ := hoff
    rw [heq]
    refine ⟨hframe.trans (h1.trans .chargerUpdate), hsame.readings.trans (h2.trans (hupdate _)), fun _ => ?_, fun h => absurd h hp, fun hidle => ?_⟩
    · rw [htest, t1, t2, t3, t4] at o6
      rw [hseconds, htest] at o7
      exact ⟨by simpa using o1, by simpa using o2, by simpa using ⟨o3, o4, o5⟩, by simpa using o6, by simpa using o7⟩
    · rw [← hreports, ← h4 (htest.trans hidle)]
      simp

/-! ## A change of the power state (R111, R114) -/

/-- A change of the power state, noticed by the Battery Unit and reported. -/
structure PowerChanged (p : PowerState) (cause : PowerCause) (u t : State) : Prop where
  only : OnPower u t
  supply : t.supply = { u.supply with
    power := p, cutoffTimer := none, stage := t.supply.stage, finalTimer := t.supply.finalTimer, finalReport := t.supply.finalReport,
    finalSent := t.supply.finalSent }
  readings : u.battery.SameReadings t.battery
  off : p ≠ .normal → TurnedOff u.cmd.seconds u.battery t.battery
  on : p = .normal → t.battery.testState = u.battery.testState ∧ (u.battery.charge = .off → t.battery.charge = u.entryChoice)
  report : u.battery.testState = .idle → t.reports = (u.reports.enter (powerClass p) u.cmd.seconds
    (.power p u.supply.power cause u.supply.meas.supply u.supply.meas.battery t.soc u.battery.health)).1
  draining : p = .cutoff → t.supply.stage ≠ .none ∧ t.store.recordWaiting.isSome = true
  stays : p ≠ .cutoff → t.supply.stage = u.supply.stage ∧ t.supply.finalTimer = u.supply.finalTimer

/-- The notice at a change, from the state before it. -/
theorem State.setPower_taken (p : PowerState) (h : u.nothingPending) :
    NoticeTaken p (u.setSupply { u.supply with power := p, cutoffTimer := none }) (u.setPower p) := State.batteryNotice_taken p h

theorem NoticeTaken.soc {p : PowerState} (h : NoticeTaken p u t) : t.soc = u.soc := State.soc_congr h.readings.1 h.frame.store

theorem State.changePower_changed (p : PowerState) (cause : PowerCause) (hp : p ≠ .cutoff) (h : u.nothingPending) :
    PowerChanged p cause u (u.changePower p cause) := by
  have hn := State.setPower_taken p h
  obtain ⟨-, -, -, -, -, hhealth, -⟩ := id hn.readings
  have hsupply := hn.frame.supply
  have honly : OnPower u (u.changePower p cause) := (OnPower.setSupply _).trans (hn.frame.trans (.report _ _)).onPower
  have hcmd : (u.setPower p).cmd = u.cmd := by simp
  refine ⟨honly, ?_, hn.readings, hn.off, hn.on, fun hidle => ?_, fun hc => absurd hc hp, fun _ => ?_⟩
  · rw [State.changePower_supply]
  · have hentered : (u.changePower p cause).reports =
        ((u.setPower p).reports.enter (powerClass p) (u.setPower p).cmd.seconds ((u.setPower p).powerBody u.supply.power cause)).1 := (rfl)
    rw [hentered, hn.reports hidle, hcmd, State.powerBody, hsupply, hhealth]
    rfl
  · rw [State.changePower_supply]
    exact ⟨rfl, rfl⟩

/-- The entry to CUTOFF: the state record asked for, the last report entered, the stage DRAINING (R111). -/
theorem State.enterCutoff_changed (cause : PowerCause) (h : u.nothingPending) : PowerChanged .cutoff cause u (u.enterCutoff cause) := by
  have hn := State.setPower_taken .cutoff h
  obtain ⟨-, -, -, -, -, hhealth, -⟩ := id hn.readings
  have hsupply := hn.frame.supply
  have hcmd : (u.setPower .cutoff).cmd = u.cmd := by simp
  generalize hv : (u.setPower .cutoff).requestRecordWrite ⟨false, false, true⟩ = v
  generalize hb : v.powerBody u.supply.power cause = body
  have heq : u.enterCutoff cause = v.beginDraining body := by
    rw [State.enterCutoff, hv, hb, State.disconnectTest, if_neg]
    rw [← hv]
    simp [State.arbiterIdle, State.requestRecordWrite, State.beginDraining]
  have hvonly : OnPower (u.setPower .cutoff) v := by rw [← hv]; rfl
  have hdrain : OnPower v (v.beginDraining body) := (rfl)
  have honly : OnPower u (v.beginDraining body) := (OnPower.setSupply _).trans (hn.frame.onPower.trans (hvonly.trans hdrain))
  have hvsame : v.supply = (u.setPower .cutoff).supply ∧ v.battery = (u.setPower .cutoff).battery ∧ v.reports = (u.setPower .cutoff).reports ∧
      v.cmd = (u.setPower .cutoff).cmd ∧ v.store.recordWaiting.isSome = true ∧ v.soc = (u.setPower .cutoff).soc := by
    rw [← hv]
    refine ⟨rfl, rfl, rfl, rfl, ?_, rfl⟩
    simp [State.requestRecordWrite]
  obtain ⟨hvsupply, hvbattery, hvreports, hvcmd, hvrecord, hvsoc⟩ := hvsame
  rw [heq]
  refine ⟨honly, ?_, ?_, fun hp => ?_, (by intro hp; cases hp), fun hidle => ?_, fun _ => ⟨?_, hvrecord⟩, fun hp => absurd rfl hp⟩
  · have hd : (v.beginDraining body).supply = { v.supply with
        finalReport := (v.beginDraining body).supply.finalReport, finalSent := (v.beginDraining body).supply.finalSent,
        finalTimer := (v.beginDraining body).supply.finalTimer, stage := (v.beginDraining body).supply.stage } := (rfl)
    generalize (v.beginDraining body).supply = d at hd
    rw [hd, hvsupply, hsupply]
    rfl
  · show u.battery.SameReadings v.battery
    rw [hvbattery]
    exact hn.readings
  · show TurnedOff u.cmd.seconds u.battery v.battery
    rw [hvbattery]
    exact hn.off hp
  · show (v.reports.enter 7 v.cmd.seconds body).1 = (u.reports.enter 7 u.cmd.seconds (.power .cutoff u.supply.power cause _ _ v.soc _)).1
    rw [hvreports, hn.reports hidle, hvcmd, hcmd, ← hb, State.powerBody, hvbattery, hhealth, hvsupply, hsupply]
    rfl
  · exact (by simp [State.beginDraining])

end

end Sys2Proof.Machine
end

