-- ==== Sys2Proof/Proofs/FrameRules.lean ====
section
/-! The power-state rules at a CABINET frame (R107 to R110, R113): the next state, its cause, and what each of them leaves. -/

namespace Sys2Proof.Machine

section
variable {k u r : State} {e : Bool}

/-- A complete restore lets START end (R110). -/
abbrev State.Starts (k : State) : Prop := k.supply.power = .start ∧ k.supply.restoreMark = true

/-- The power state that the rules give (R107 to R110, R113). -/
def State.nextPower (k : State) (e : Bool) : PowerState :=
  match k.supply.power with
  | .start => if ¬ k.supply.restoreMark = true then .start else if k.supply.present then .normal else if k.batteryLow then .conserve else .carry
  | .normal => if k.supply.present then .normal else if k.batteryLow then .conserve else .carry
  | .carry => if e = true ∧ ¬ k.supply.present = true then .cutoff else if k.batteryLow then .conserve else .carry
  | .conserve => if e = true ∧ ¬ k.supply.present = true then .cutoff else .conserve
  | .cutoff => if k.supply.present then .carry else .cutoff

/-- The cause that the report of a change gives (R114). -/
def State.changeCause (k : State) (p : PowerState) : PowerCause :=
  if p = .cutoff then .exhausted
  else if p = .conserve ∧ k.battery.health = .failed then .healthFailed
  else if k.supply.power = .normal then .supplyLost
  else if k.supply.power = .cutoff then .supplyReturned
  else if p = .conserve then .socLow
  else .startDone

/-- What the power-state rules make of the state that the frame has reached. -/
structure PowerRuled (e : Bool) (k r : State) : Prop where
  only : OnPower k r
  readings : k.battery.SameReadings r.battery
  supply : r.supply = { k.supply with
    power := r.supply.power, qualification := r.supply.qualification, qualifyTimer := r.supply.qualifyTimer,
    cutoffTimer := r.supply.cutoffTimer, stage := r.supply.stage, finalTimer := r.supply.finalTimer,
    finalReport := r.supply.finalReport, finalSent := r.supply.finalSent }
  power : r.supply.power = k.nextPower e
  same : r.supply.power = k.supply.power → r = k
  starts : k.Starts → r.supply.qualification = (if k.supply.present then .qualified else .unqualified) ∧ r.supply.qualifyTimer = none
  qualification : ¬ k.Starts → r.supply.qualification = k.supply.qualification ∧ r.supply.qualifyTimer = k.supply.qualifyTimer
  cutoffTimer : r.supply.power ≠ k.supply.power → r.supply.cutoffTimer =
    if k.Starts ∧ ¬ k.supply.present = true ∧ k.belowCutoff = true then k.timer (sec 10) else none
  off : r.supply.power ≠ k.supply.power → r.supply.power ≠ .normal → TurnedOff k.cmd.seconds k.battery r.battery
  on : r.supply.power ≠ k.supply.power → r.supply.power = .normal →
    r.battery.testState = k.battery.testState ∧ (k.battery.charge = .off → r.battery.charge = k.entryChoice)
  report : r.supply.power ≠ k.supply.power → k.battery.testState = .idle →
    r.reports = (k.reports.enter (powerClass r.supply.power) k.cmd.seconds
      (.power r.supply.power k.supply.power (k.changeCause r.supply.power) k.supply.meas.supply k.supply.meas.battery r.soc k.battery.health)).1
  draining : r.supply.power ≠ k.supply.power → r.supply.power = .cutoff → r.supply.stage ≠ .none ∧ r.store.recordWaiting.isSome = true
  returned : k.supply.power = .cutoff → k.supply.present = true → r.supply.stage = .none ∧ r.supply.finalTimer = none

/-- No rule applies. -/
theorem PowerRuled.stays (hpower : k.nextPower e = k.supply.power) (hstarts : ¬ k.Starts)
    (hcutoff : ¬ (k.supply.power = .cutoff ∧ k.supply.present = true)) : PowerRuled e k k where
  only := .refl k
  readings := .refl _
  supply := rfl
  power := hpower.symm
  same := fun _ => rfl
  starts := fun h => absurd h hstarts
  qualification := fun _ => ⟨rfl, rfl⟩
  cutoffTimer := fun h => absurd rfl h
  off := fun h => absurd rfl h
  on := fun h => absurd rfl h
  report := fun h => absurd rfl h
  draining := fun h => absurd rfl h
  returned := fun h hp => absurd ⟨h, hp⟩ hcutoff

/-- A rule changes the power state, from START as the supply has been judged, or from CUTOFF with the drain ended. -/
theorem PowerRuled.changed {p : PowerState} {cause : PowerCause} (hchanged : PowerChanged p cause u r) {timer : Timer}
    (hu : ∃ q qt st ft, u = k.setSupply { k.supply with qualification := q, qualifyTimer := qt, stage := st, finalTimer := ft })
    (hpower : k.nextPower e = p) (hne : p ≠ k.supply.power) (hcause : cause = k.changeCause p)
    (hstarts : k.Starts → u.supply.qualification = (if k.supply.present then .qualified else .unqualified) ∧ u.supply.qualifyTimer = none)
    (hkept : ¬ k.Starts → u.supply.qualification = k.supply.qualification ∧ u.supply.qualifyTimer = k.supply.qualifyTimer)
    (htimer : timer = if k.Starts ∧ ¬ k.supply.present = true ∧ k.belowCutoff = true then k.timer (sec 10) else none)
    (hreturned : k.supply.power = .cutoff → k.supply.present = true → p ≠ .cutoff ∧ u.supply.stage = .none ∧ u.supply.finalTimer = none) :
    PowerRuled e k (r.setSupply { r.supply with cutoffTimer := timer }) := by
  obtain ⟨honly, hsupply, hreadings, hoff, hon, hreport, hdraining, hstays⟩ := hchanged
  obtain ⟨q, qt, st, ft, rfl⟩ := hu
  have hp : r.supply.power = p := by rw [hsupply]
  have hq : r.supply.qualification = q ∧ r.supply.qualifyTimer = qt := by rw [hsupply]; exact ⟨rfl, rfl⟩
  have hsoc : (r.setSupply { r.supply with cutoffTimer := timer }).soc = r.soc := (rfl)
  refine ⟨(OnPower.setSupply _).trans (honly.trans (.setSupply _)), hreadings, ?_, hp.trans hpower.symm, fun h => absurd (hp.symm.trans h) hne,
    fun h => ?_, fun h => ?_, fun _ => htimer, fun _ hn => hoff (hp ▸ hn), fun _ hn => ?_, fun _ hidle => ?_, fun _ hc => hdraining (hp ▸ hc),
    fun hc hpres => ?_⟩
  · show { r.supply with cutoffTimer := timer } = { k.supply with
      power := r.supply.power, qualification := r.supply.qualification, qualifyTimer := r.supply.qualifyTimer, cutoffTimer := timer,
      stage := r.supply.stage, finalTimer := r.supply.finalTimer, finalReport := r.supply.finalReport, finalSent := r.supply.finalSent }
    generalize r.supply = d at hsupply
    rw [hsupply]
    rfl
  · show r.supply.qualification = _ ∧ r.supply.qualifyTimer = _
    rw [hq.1, hq.2]
    exact hstarts h
  · show r.supply.qualification = _ ∧ r.supply.qualifyTimer = _
    rw [hq.1, hq.2]
    exact hkept h
  · exact hon (hp.symm.trans hn)
  · rw [hsoc]
    show r.reports = (k.reports.enter (powerClass r.supply.power) k.cmd.seconds
      (.power r.supply.power k.supply.power (k.changeCause r.supply.power) k.supply.meas.supply k.supply.meas.battery r.soc k.battery.health)).1
    rw [hp, ← hcause]
    exact hreport hidle
  · obtain ⟨hpne, hst, hft⟩ := hreturned hc hpres
    obtain ⟨h1, h2⟩ := hstays hpne
    exact ⟨h1.trans hst, h2.trans hft⟩

/-- A timer that is set to what it is. -/
theorem State.setSupply_cutoffTimer {timer : Timer} (h : r.supply.cutoffTimer = timer) :
    r.setSupply { r.supply with cutoffTimer := timer } = r := by
  rw [← h]
  rfl

theorem PowerChanged.noCutoffTimer {p : PowerState} {cause : PowerCause} (h : PowerChanged p cause u r) :
    r.setSupply { r.supply with cutoffTimer := none } = r := State.setSupply_cutoffTimer (by rw [h.supply])

/-- A rule of NORMAL, CARRY or CONSERVE. -/
theorem PowerRuled.fromHere {p : PowerState} {cause : PowerCause} (hchanged : PowerChanged p cause k r) (hstart : k.supply.power ≠ .start)
    (hcutoff : k.supply.power ≠ .cutoff) (hpower : k.nextPower e = p) (hne : p ≠ k.supply.power) (hcause : cause = k.changeCause p) :
    PowerRuled e k r := by
  have h := PowerRuled.changed (timer := none) hchanged ⟨k.supply.qualification, k.supply.qualifyTimer, k.supply.stage, k.supply.finalTimer, rfl⟩
    hpower hne hcause (fun hs => absurd hs.1 hstart) (fun _ => ⟨rfl, rfl⟩) (if_neg fun hs => hstart hs.1.1).symm (fun hc => absurd hc hcutoff)
  rw [hchanged.noCutoffTimer] at h
  exact h

/-- The end of START on a frame (R110). -/
theorem PowerRuled.fromStart {p : PowerState} {cause : PowerCause} (hp : p ≠ .cutoff) (h : k.nothingPending) (hstarts : k.Starts)
    (hend : k.endStart = k.startQualified.changePower p cause) (hpower : k.nextPower e = p) (hne : p ≠ .start)
    (hcause : cause = k.changeCause p) : PowerRuled e k k.endStartOnFrame := by
  have hchanged : PowerChanged p cause k.startQualified k.endStart := by
    rw [hend]
    exact State.changePower_changed p cause hp h
  have hnow : k.endStart.timer (sec 10) = k.timer (sec 10) := by rw [State.timer, k.endStart_frame.1]; rfl
  have htimed : k.endStartOnFrame = k.endStart.setSupply { k.endStart.supply with
      cutoffTimer := if k.Starts ∧ ¬ k.supply.present = true ∧ k.belowCutoff = true then k.timer (sec 10) else none } := by
    by_cases hlow : ¬ k.supply.present = true ∧ k.belowCutoff = true
    · rw [if_pos ⟨hstarts, hlow⟩, State.endStartOnFrame, if_neg (by simp [hlow.1, hlow.2]), ← hnow]
      rfl
    · rw [if_neg fun hs => hlow hs.2, hchanged.noCutoffTimer, State.endStartOnFrame, if_pos]
      simpa [Decidable.or_iff_not_imp_left] using hlow
  rw [htimed]
  refine PowerRuled.changed hchanged ⟨_, _, k.supply.stage, k.supply.finalTimer, rfl⟩ hpower (by rw [hstarts.1]; exact hne) hcause
    (fun _ => ⟨rfl, rfl⟩) (fun hs => absurd hstarts hs) rfl fun hc => ?_
  rw [hstarts.1] at hc
  cases hc

/-- The power-state rules, power state by power state. -/
theorem State.powerRules_ruled (h : k.nothingPending) : PowerRuled e k (k.powerRules e) := by
  have hchange : ∀ p cause, p ≠ .cutoff → PowerChanged p cause k (k.changePower p cause) := fun p cause hp =>
    State.changePower_changed p cause hp h
  unfold State.powerRules
  cases hpower : k.supply.power with
  | start =>
    dsimp only
    by_cases hmark : k.supply.restoreMark = true
    · rw [if_pos hmark]
      have hstarts : k.Starts := ⟨hpower, hmark⟩
      by_cases hpres : k.supply.present = true
      · refine .fromStart (p := .normal) (by simp) h hstarts (by rw [State.endStart_eq, if_pos hpres]) ?_ (by simp) ?_
        · simp [State.nextPower, hpower, hmark, hpres]
        · simp [State.changeCause, hpower]
      · by_cases hlow : k.batteryLow = true
        · refine .fromStart (p := .conserve) (by simp) h hstarts (by rw [State.endStart_eq, if_neg hpres, if_pos hlow]) ?_ (by simp) ?_
          · simp [State.nextPower, hpower, hmark, hpres, hlow]
          · simp [State.changeCause, State.lowCause, hpower]
        · refine .fromStart (p := .carry) (by simp) h hstarts (by rw [State.endStart_eq, if_neg hpres, if_neg hlow]) ?_ (by simp) ?_
          · simp [State.nextPower, hpower, hmark, hpres, hlow]
          · simp [State.changeCause, hpower]
    · rw [if_neg hmark]
      exact .stays (by simp [State.nextPower, hpower, hmark]) (fun hs => hmark hs.2) (by simp [hpower])
  | normal =>
    dsimp only
    by_cases hpres : k.supply.present = true
    · rw [if_pos hpres]
      exact .stays (by simp [State.nextPower, hpower, hpres]) (by simp [State.Starts, hpower]) (by simp [hpower])
    · rw [if_neg hpres]
      by_cases hlow : k.batteryLow = true
      · rw [if_pos hlow]
        exact .fromHere (hchange _ _ (by simp)) (by simp [hpower]) (by simp [hpower]) (by simp [State.nextPower, hpower, hpres, hlow])
          (by simp [hpower]) (by simp [State.changeCause, State.lowCause, hpower])
      · rw [if_neg hlow]
        exact .fromHere (hchange _ _ (by simp)) (by simp [hpower]) (by simp [hpower]) (by simp [State.nextPower, hpower, hpres, hlow])
          (by simp [hpower]) (by simp [State.changeCause, hpower])
  | carry =>
    dsimp only
    by_cases hex : e = true ∧ ¬ k.supply.present = true
    · rw [if_pos (by simpa using hex)]
      exact .fromHere (State.enterCutoff_changed _ h) (by simp [hpower]) (by simp [hpower]) (by simp [State.nextPower, hpower, hex])
        (by simp [hpower]) (by simp [State.changeCause])
    · rw [if_neg (by simpa using hex)]
      by_cases hlow : k.batteryLow = true
      · rw [if_pos hlow]
        exact .fromHere (hchange _ _ (by simp)) (by simp [hpower]) (by simp [hpower])
          (by simp only [State.nextPower, hpower, if_neg hex, if_pos hlow]) (by simp [hpower]) (by simp [State.changeCause, State.lowCause, hpower])
      · rw [if_neg hlow]
        exact .stays (by simp only [State.nextPower, hpower, if_neg hex, if_neg hlow]) (by simp [State.Starts, hpower]) (by simp [hpower])
  | conserve =>
    dsimp only
    by_cases hex : e = true ∧ ¬ k.supply.present = true
    · rw [if_pos (by simpa using hex)]
      exact .fromHere (State.enterCutoff_changed _ h) (by simp [hpower]) (by simp [hpower]) (by simp [State.nextPower, hpower, hex])
        (by simp [hpower]) (by simp [State.changeCause])
    · rw [if_neg (by simpa using hex)]
      exact .stays (by simp only [State.nextPower, hpower, if_neg hex]) (by simp [State.Starts, hpower]) (by simp [hpower])
  | cutoff =>
    dsimp only
    by_cases hpres : k.supply.present = true
    · rw [if_pos hpres]
      have hchanged : PowerChanged .carry .supplyReturned (k.setSupply { k.supply with stage := .none, finalTimer := none })
          ((k.setSupply { k.supply with stage := .none, finalTimer := none }).changePower .carry .supplyReturned) :=
        State.changePower_changed _ _ (by simp) h
      have hruled := PowerRuled.changed (e := e) (timer := none) hchanged ⟨k.supply.qualification, k.supply.qualifyTimer, .none, none, rfl⟩
        (by simp [State.nextPower, hpower, hpres]) (by simp [hpower]) (by simp [State.changeCause, hpower])
        (fun hs => absurd hs.1 (by simp [hpower])) (fun _ => ⟨rfl, rfl⟩) (if_neg fun hs => absurd hs.1.1 (by simp [hpower])).symm
        (fun _ _ => ⟨by simp, rfl, rfl⟩)
      rw [hchanged.noCutoffTimer] at hruled
      exact hruled
    · rw [if_neg hpres]
      exact .stays (by simp [State.nextPower, hpower, hpres]) (by simp [State.Starts, hpower]) (by simp [hpres])

end

end Sys2Proof.Machine
end

