-- ==== Sys2Proof/Proofs/FrameReclose.lean ====
section
/-! A reclose in energy wait, asked for again at a CABINET frame (R53), with nothing pending but perhaps a group. -/

namespace Sys2Proof.Machine

/-- The power blocks' unit, the links, the sums and the tables stand, and a write that is asked for stays so. -/
structure RecloseKeeps (v t : State) : Prop where
  nothing : t.nothingPending
  battery : t.battery = v.battery
  links : t.links = v.links
  mag : t.mag = v.mag
  tables : t.store.tables = v.store.tables
  asked : v.store.recordWaiting.isSome = true → t.store.recordWaiting.isSome = true

section
variable {u v t : State}

theorem RecloseKeeps.trans (h : RecloseKeeps u v) (k : RecloseKeeps v t) : RecloseKeeps u t :=
  ⟨k.nothing, k.battery.trans h.battery, k.links.trans h.links, k.mag.trans h.mag, k.tables.trans h.tables, k.asked ∘ h.asked⟩

theorem RecloseKeeps.of_store (hnothing : v.nothingPending) (hstore : t.store = v.store) (hbattery : t.battery = v.battery)
    (hlinks : t.links = v.links) (hmag : t.mag = v.mag) : RecloseKeeps v t :=
  ⟨by rw [State.nothingPending, hstore]; exact hnothing, hbattery, hlinks, hmag, by rw [hstore], fun h => by rw [hstore]; exact h⟩

theorem RecloseKeeps.refl (h : v.nothingPending) : RecloseKeeps v v := .of_store h rfl rfl rfl rfl

theorem State.applyPending_recloseKeeps (h : v.nothingPending) : RecloseKeeps v v.applyPending := by
  rw [v.applyPending_of_none fun hp => h hp.1]
  have hasked : v.applyGroup.nothingPending ∧ v.applyGroup.store.tables = v.store.tables ∧
      (v.store.recordWaiting.isSome = true → v.applyGroup.store.recordWaiting.isSome = true) := by
    unfold State.applyGroup State.makeActive
    split
    · exact ⟨h, rfl, id⟩
    · split
      · exact ⟨h, rfl, id⟩
      · refine ⟨h, rfl, fun _ => ?_⟩
        simp [State.requestRecordWrite]
  obtain ⟨hnothing, htables, hasked⟩ := hasked
  exact ⟨hnothing, by simp, by simp, by simp, htables, hasked⟩

/-- An entry to LOCKOUT from another state than IDLE aborts no test. -/
theorem State.enterLockout_recloseKeeps (reason : LockoutReason) (hidle : v.seq.state ≠ .idle) (h : v.nothingPending) :
    RecloseKeeps v (v.enterLockout reason) := by
  rw [State.enterLockout, v.leaveIdle_of_ne hidle]
  dsimp only
  have hset : ∀ q, RecloseKeeps v (v.setSeq q) := fun q => .of_store h rfl rfl rfl rfl
  have hpend := (hset _).trans (State.applyPending_recloseKeeps (v := v.setSeq { v.seq.timersStopped with
    state := .lockout, reason := some reason, latched := none }) (hset _).nothing)
  exact hpend.trans (.of_store hpend.nothing (by simp) (by simp) (by simp) (by simp))

theorem State.mechTest_recloseKeeps (h : v.nothingPending) : RecloseKeeps v v.mechTest := by
  unfold State.mechTest
  split
  · next hmech =>
    have hopen : RecloseKeeps v v.recordOpen := .of_store h (by simp) (by simp) (by simp) (by simp)
    refine hopen.trans (State.enterLockout_recloseKeeps _ ?_ hopen.nothing)
    rw [(State.recordOpen_seq v).1, hmech.1]
    exact (by simp)
  · exact .refl h

theorem State.mechFailure_recloseKeeps (cause : MechCause) (hidle : v.seq.state ≠ .idle) (h : v.nothingPending) :
    RecloseKeeps v (v.mechFailure cause) := by
  rw [State.mechFailure, v.leaveIdle_of_ne hidle]
  dsimp only
  have hfailed : RecloseKeeps v (((v.setSeq { v.seq.timersStopped with state := .mechFail, tripRequested := false }).report 7
      (.mech cause v.seq.state (v.setSeq { v.seq.timersStopped with state := .mechFail, tripRequested := false }).seq.s
        (v.setSeq { v.seq.timersStopped with state := .mechFail, tripRequested := false }).sample.view)).faultClose .mechFail) :=
    .of_store h (by simp) (by simp) (by simp) (by simp)
  exact hfailed.trans (State.mechTest_recloseKeeps hfailed.nothing)

/-- The answer to a reclose asked for in DEAD. -/
theorem State.answerReclose_keeps (hidle : v.seq.state ≠ .idle) (h : v.nothingPending) : RecloseKeeps v v.answerReclose := by
  have hlockout := fun reason => State.enterLockout_recloseKeeps reason hidle h
  unfold State.answerReclose
  cases hp : v.permission with
  | none => exact .of_store h (by simp) (by simp) (by simp) (by simp)
  | some item =>
    cases item with
    | tag | position | power | stream => exact hlockout _
    | mechanism => exact State.mechFailure_recloseKeeps _ hidle h
    | tripEnergy | closeEnergy =>
      dsimp only
      unfold State.energyAnswer
      split
      · exact .refl h
      · split
        · exact hlockout _
        · exact .of_store h rfl rfl rfl rfl

theorem State.energyRecheck_keeps (h : v.nothingPending) : RecloseKeeps v v.energyRecheck := by
  unfold State.energyRecheck
  split
  · next hwaits =>
    unfold State.requestReclose
    split
    · exact .of_store h rfl rfl rfl rfl
    · exact State.answerReclose_keeps (by simp [hwaits.1]) h
  · exact .refl h

/-- Where a mechanism failure leads: by the view and the stream to LOCKOUT at once, with the energy wait ended (R64). -/
theorem State.mechFailure_leads (cause : MechCause) (hview : v.sample.view = .opened) (hidle : v.seq.state ≠ .idle) :
    (v.mechFailure cause).seq.state = (if v.sample.stream = .valid then .lockout else .mechFail) ∧ (v.mechFailure cause).seq.energyWait = none ∧
      (v.mechFailure cause).act = v.act := by
  by_cases hstream : v.sample.stream = .valid
  · rw [if_pos hstream, State.mechFailure, v.leaveIdle_of_ne hidle, State.mechTest, if_pos (by simp [State.settled, hview, hstream])]
    obtain ⟨hstate, -, -, -, hwait, -⟩ := State.enterLockout_lockedOut ((((v.setSeq { v.seq.timersStopped with
      state := .mechFail, tripRequested := false }).report 7 (.mech cause v.seq.state v.seq.s v.sample.view)).faultClose .mechFail).recordOpen) .mech
    exact ⟨hstate, hwait, by simp⟩
  · rw [if_neg hstream, State.mechFailure_of_unsettled cause hidle (State.settled_of_stream _ hstream)]
    simp [SequenceController.timersStopped]

/-- On a fresh cabinet stream the stream is no failing item (R76). -/
theorem State.permission_ne_stream (v : State) (hfresh : v.fresh = true) : v.permission ≠ some .stream := by
  have hpartial : v.partialPermission ≠ some .stream := by
    unfold State.partialPermission
    (repeat' split) <;> simp
  unfold State.permission
  split
  · next item hitem => exact fun h => hpartial (hitem.trans h)
  · rw [hfresh]
    (repeat' split) <;> simp_all

/-- The end of an energy wait at a frame, from the state that the power rules leave (R53). -/
theorem State.energyRecheck_rechecked {s r : State} (honly : OnPower s r) (hfresh : r.supply.freshness = .fresh) :
    RecloseRechecked s r.energyRecheck := by
  obtain ⟨⟨hnow, -⟩, hpath, ⟨hseq, hact⟩, hfaults, htags, -, hstore⟩ := honly.same
  have htables : r.store.tables = s.store.tables := by rw [hstore]
  clear hstore
  obtain ⟨hsample, hmag, hoc⟩ := id hpath
  have hsupply : r.energyRecheck.supply = r.supply := by simp
  have hpermission : (s.setSupply r.supply).permission = r.permission := by
    rw [OnPower] at honly
    rw [honly]
    rfl
  have hunit := honly.tables.1
  have hlockout : ∀ reason, r.energyRecheck = r.enterLockout reason → LockedOut reason s r.energyRecheck ∧ r.energyRecheck.act = s.act :=
    fun reason heq => by
    have hlocked := r.enterLockout_lockedOut reason
    rw [LockedOut, hseq] at hlocked
    rw [heq, ← hact]
    exact ⟨hlocked, by simp⟩
  rw [RecloseRechecked, hsupply, hpermission]
  refine ⟨fun hno => ?quiet, fun hwaits htrip => ?deferred, fun hwaits htrip => ?answered⟩
  case quiet =>
    have heq : r.energyRecheck = r := if_neg (by rw [hseq]; exact hno)
    rw [heq]
    exact ⟨hpath, ⟨hseq, hact⟩, hfaults⟩
  case deferred =>
    have heq : r.energyRecheck = r.setAct { r.act with deferred := some .reclose } := by
      rw [State.energyRecheck, if_pos (by rw [hseq]; exact hwaits), State.requestReclose, if_pos (by rw [hact]; exact htrip)]
    rw [heq, ← hact]
    exact ⟨hseq, rfl⟩
  case answered =>
    obtain ⟨hdead, hwait⟩ := hwaits
    have heq : r.energyRecheck = r.answerReclose := by
      rw [State.energyRecheck, if_pos (by rw [hseq]; exact ⟨hdead, hwait⟩), State.requestReclose, if_neg (by simp [hact, htrip])]
    have hidle : r.seq.state ≠ .idle := by simp [hseq, hdead]
    refine ⟨fun hp => ?permitted, fun hp => ?energy, fun hp => hlockout _ ?_, fun hp => hlockout _ ?_, fun hp => hlockout _ ?_,
      fun hp => ?mechanism, fun hp => ?stream⟩
    case permitted =>
      rw [heq, State.answerReclose_of_permitted r hp]
      simp [State.enterClosing, State.startClose, SequenceController.timersStopped, State.timer, startAt, State.unit, State.table, *]
    case energy =>
      have hanswer : r.answerReclose = r := by
        rcases hp with hp | hp <;> simp [State.answerReclose, hp, State.energyAnswer, hseq, hwait]
      rw [heq, hanswer]
      exact ⟨hseq, hact⟩
    case mechanism =>
      have hanswer : r.answerReclose = r.mechFailure .latch := by simp [State.answerReclose, hp]
      rw [heq, hanswer, ← hsample, ← hact]
      exact State.mechFailure_leads .latch (State.view_of_mechanism hp) hidle
    case stream => exact r.permission_ne_stream (by simp [State.fresh, hfresh]) hp
    all_goals simp [heq, State.answerReclose, hp]

end

end Sys2Proof.Machine
end

