-- ==== Sys2Proof/Proofs/CabinetFrames.lean ====
section
/-! The state that an accepted CABINET frame has reached before the power-state rules (R103 to R106, R109, R116), with nothing pending. -/

namespace Sys2Proof.Machine

section
variable {f : CabinetFrame} {gap : Gap} {s u : State}

/-! ## The readings of the frame (R117 to R121) -/

/-- The steps of the integration move Q as iterated single steps (R117, R118). -/
theorem coulombSteps_fst (qmax : Nat) (i : Int) (k : Nat) (p : Nat × Bool) :
    (coulombSteps qmax i k p).1 = (fun q => coulombStep qmax q i)^[k] p.1 := by
  induction k generalizing p with
  | zero => rfl
  | succ k ih => rw [coulombSteps, ih, Function.iterate_succ_apply]; rfl

/-- Q of a frame: the gap at the previous current, then the frame's own step (R117, R118). -/
theorem State.integrate_fst (u : State) (gap : Gap) :
    (u.integrate gap).1 = coulombStep (qMax u.batteryTable)
      (match gap, u.battery.prevCurrent with
        | some k, some i => if k ≤ 10 then (fun q => coulombStep (qMax u.batteryTable) q i)^[k] u.battery.q else u.battery.q
        | _, _ => u.battery.q) u.supply.meas.current := by
  unfold State.integrate coulombStepMark
  dsimp only
  rw [coulombSteps_fst]
  cases gap with
  | none => rfl
  | some k =>
    cases u.battery.prevCurrent with
    | none => rfl
    | some i =>
      dsimp only [gapSteps, Option.getD]
      split <;> rfl

/-- With no frame missing, exhaustion is the frame's own step from above 0 to 0 (R119). -/
theorem State.integrate_snd (u : State) :
    (u.integrate (some 0)).2 = true ↔
      u.supply.meas.current < 0 ∧ 0 < u.battery.q ∧ coulombStep (qMax u.batteryTable) u.battery.q u.supply.meas.current = 0 := by
  have hsteps : gapSteps (some 0) u.battery.prevCurrent = 0 := by
    unfold gapSteps
    cases u.battery.prevCurrent <;> rfl
  unfold State.integrate
  dsimp only
  rw [hsteps]
  show (false || (decide (u.supply.meas.current < 0) && decide (0 < u.battery.q) &&
    decide (coulombStep (qMax u.batteryTable) u.battery.q u.supply.meas.current = 0))) = true ↔ _
  rw [Bool.false_or, Bool.and_eq_true, Bool.and_eq_true, decide_eq_true_eq, decide_eq_true_eq, decide_eq_true_eq, and_assoc]

/-- The readings of a frame, from the state that has taken its measurements. -/
theorem State.readingsTaken_read (f : CabinetFrame) (gap : Gap) (s : State) : CabinetRead f s ((s.takeMeasurements f).readingsTaken gap) := by
  have hframe : OnFrame (s.takeMeasurements f) ((s.takeMeasurements f).readingsTaken gap) := .readingsTaken gap
  have hread := (s.takeMeasurements f).readingsTaken_battery gap
  have hsame : ((s.takeMeasurements f).readingsTaken gap).now = s.now ∧ ((s.takeMeasurements f).readingsTaken gap).links = s.links ∧
      ((s.takeMeasurements f).readingsTaken gap).reports = s.reports ∧ ((s.takeMeasurements f).readingsTaken gap).cmd = s.cmd := by
    simp [State.readingsTaken]
  obtain ⟨hnow, hlinks, hreports, hcmd⟩ := hsame
  refine ⟨by rw [hframe.supply]; rfl, by rw [hframe.supply]; rfl, by rw [hframe.supply]; rfl, hnow, by rw [hframe.store]; rfl, hlinks,
    hreports, by rw [hcmd], fun hfloat => ?_, hread.others⟩
  rw [hread.fullTimer, State.fullTimer, if_pos (by exact hfloat)]
  have hsettled : (s.takeMeasurements f).floatSettled = true ↔
      0 ≤ f.current.toInt ∧ f.current.toInt ≤ (absorbEndCurrent s.batteryTable : Int) := by
    rw [State.floatSettled, Bool.and_eq_true, decide_eq_true_eq, decide_eq_true_eq]
    rfl
  by_cases h : 0 ≤ f.current.toInt ∧ f.current.toInt ≤ (absorbEndCurrent s.batteryTable : Int)
  · rw [if_pos h, if_pos (hsettled.2 h)]
    rfl
  · rw [if_neg h, if_neg fun hs => h (hsettled.1 hs)]

/-! ## The Battery Unit after the frame (R116) -/

/-- The Battery Unit as the frame leaves it, before a change of the power state. -/
structure BatteryRead (f : CabinetFrame) (gap : Gap) (s b : State) : Prop where
  q : b.battery.q = (if f.battery.toNat ≤ cutoffVoltage s.batteryTable then 0 else coulombStep (qMax s.batteryTable)
    (match gap, s.battery.prevCurrent with
      | some k, some i => if k ≤ 10 then (fun q => coulombStep (qMax s.batteryTable) q i)^[k] s.battery.q else s.battery.q
      | _, _ => s.battery.q) f.current.toInt)
  current : b.battery.prevCurrent = some f.current.toInt
  temperature : TemperatureTaken f s b
  health : b.battery.health = s.battery.health
  idle : s.battery.testState = .idle → b.battery.testState = .idle ∧ b.reports = s.reports ∧ ChargeTaken f s b
  running : s.battery.testState = .running → b.battery.testState = .running ∨ b.battery.testState = .idle ∧
    b.battery.lastResult = .aborted ∧ b.battery.lastTime = some s.cmd.seconds ∧ b.battery.testTimer = none ∧ b.battery.retryTimer = none
  test : s.battery.testState = .running → s.battery.charge = .test → TestTaken f s b

theorem readingValid_iff (f : CabinetFrame) :
    readingValid (frameMeasurements f) = true ↔ f.flags.getLsbD 2 = true ∧ -400 ≤ f.temperature.toInt ∧ f.temperature.toInt ≤ 800 := by
  simp [readingValid, frameMeasurements, and_assoc]

/-- The temperature of the frame, through all that follows it (R121). -/
theorem TemperatureTaken.of_readings {b : State} (hread : ReadingsTaken (s.takeMeasurements f) gap u.battery)
    (hkept : u.battery.SameReadings b.battery) : TemperatureTaken f s b := by
  obtain ⟨-, -, hstate, hheld, hhold, -, -⟩ := hkept
  rw [hread.tempState] at hstate
  rw [hread.heldTemp] at hheld
  rw [hread.holdTimer] at hhold
  have hvalid := readingValid_iff f
  refine ⟨fun hv => ?_, fun hv => ⟨?_, fun hs => ?_, fun hs => ?_⟩⟩
  · have heq : (s.takeMeasurements f).withTemperature =
        { (s.takeMeasurements f).battery with tempState := .valid, heldTemp := f.temperature.toInt, holdTimer := none } := if_pos (hvalid.2 hv)
    rw [hstate, hheld, hhold, heq]
    exact ⟨rfl, rfl, rfl⟩
  all_goals have hin : ¬ readingValid (s.takeMeasurements f).supply.meas = true := fun h => hv (hvalid.1 h)
  · rw [hheld, State.withTemperature, if_neg hin]
    split <;> rfl
  · have heq : (s.takeMeasurements f).withTemperature =
        { (s.takeMeasurements f).battery with tempState := .holding, holdTimer := (s.takeMeasurements f).timer (sec 60) } := by
      rw [State.withTemperature, if_neg hin]
      exact if_pos hs
    rw [hstate, hhold, heq]
    exact ⟨rfl, rfl⟩
  · have heq : (s.takeMeasurements f).withTemperature = s.battery := by
      rw [State.withTemperature, if_neg hin]
      exact if_neg hs
    rw [hstate, hhold, heq]
    exact ⟨rfl, rfl⟩

/-- The end of a test at a frame, or its measurement, through the charge state. -/
theorem CabinetRead.running {x : State} (h : CabinetRead f s x) (hnothing : x.nothingPending) (hrun : x.battery.testState = .running) :
    x.frameTest.frameState.chargerUpdate.battery.testState = .running ∨ x.frameTest.frameState.chargerUpdate.battery.testState = .idle ∧
      x.frameTest.frameState.chargerUpdate.battery.lastResult = .aborted ∧
      x.frameTest.frameState.chargerUpdate.battery.lastTime = some s.cmd.seconds ∧
      x.frameTest.frameState.chargerUpdate.battery.testTimer = none ∧ x.frameTest.frameState.chargerUpdate.battery.retryTimer = none := by
  have hseconds : x.measureTest.cmd.seconds = s.cmd.seconds := h.seconds
  have habort : ∀ cause charge, x.frameTest = x.measureTest.abortTest cause charge →
      x.frameTest.frameState.chargerUpdate.battery.testState = .idle ∧ x.frameTest.frameState.chargerUpdate.battery.lastResult = .aborted ∧
        x.frameTest.frameState.chargerUpdate.battery.lastTime = some s.cmd.seconds ∧
        x.frameTest.frameState.chargerUpdate.battery.testTimer = none ∧ x.frameTest.frameState.chargerUpdate.battery.retryTimer = none :=
    fun cause charge heq => by
      obtain ⟨hidle, htimer, hretry, hresult, htime, -⟩ :=
        (State.abortTest_aborted (m := x.measureTest) cause charge hrun hnothing).ends
      rw [heq, ← hseconds]
      exact ⟨hidle, hresult, htime, htimer, hretry⟩
  have htest := State.frameTest_running hrun
  split at htest
  · exact .inr (habort _ _ htest)
  · split at htest
    · exact .inr (habort _ _ htest)
    · split at htest
      · exact .inr (habort _ _ htest)
      · obtain ⟨b, hb, honly⟩ := x.measureTest.frameState_only
        rw [ChargeOnly] at honly
        rw [htest]
        have hkept : x.measureTest.frameState.battery.testState = .running := by
          rw [hb]
          show b.testState = .running
          rw [honly]
          exact hrun
        exact .inl (by simpa using hkept)

theorem State.batteryFrame_read (hnothing : s.nothingPending) : BatteryRead f gap s ((s.takeMeasurements f).batteryFrame gap) := by
  have h := State.readingsTaken_read f gap s
  have hread := (s.takeMeasurements f).readingsTaken_battery gap
  rw [State.batteryFrame_eq]
  generalize (s.takeMeasurements f).readingsTaken gap = x at h hread
  have hxnothing : x.nothingPending := by
    rw [State.nothingPending, h.store]
    exact hnothing
  have hothers := h.others
  have hsame : x.battery.testState = s.battery.testState ∧ x.battery.health = s.battery.health := by rw [hothers]; exact ⟨rfl, rfl⟩
  obtain ⟨htest, hhealth⟩ := hsame
  have hinputs : SameInputs x x.frameTest.frameState.chargerUpdate := (State.frameTest_inputs hxnothing).trans (State.frameEnd_inputs _)
  obtain ⟨hq, hcurrent, -, -, -, hkept, -⟩ := id hinputs.readings
  refine ⟨?_, ?_, .of_readings hread hinputs.readings, hkept.trans hhealth, fun hidle => ?_, fun hrun => h.running hxnothing (htest.trans hrun),
    h.testTaken hxnothing⟩
  · rw [hq, hread.q, State.frameQ, State.integrate_fst]
    by_cases hlow : f.battery.toNat ≤ cutoffVoltage s.batteryTable
    · rw [if_pos hlow, if_pos (show (s.takeMeasurements f).belowCutoff = true from decide_eq_true hlow)]
    · rw [if_neg hlow, if_neg (show ¬ (s.takeMeasurements f).belowCutoff = true from fun hd => hlow (of_decide_eq_true hd))]
      rfl
  · rw [hcurrent, hread.current]
    rfl
  · have heq : x.frameTest = x := if_neg (by rw [htest, hidle]; exact (by simp))
    rw [heq]
    obtain ⟨b, hb, honly⟩ := x.frameState_only
    rw [ChargeOnly] at honly
    have hstate : x.frameState.battery.testState = .idle := by
      rw [hb]
      show b.testState = .idle
      rw [honly]
      exact htest.trans hidle
    exact ⟨by simpa using hstate, by simpa using h.reports, h.chargeTaken⟩

/-! ## Presence, qualification and the cutoff timer (R106, R109) -/

/-- The state of a frame before the power-state rules (R104). -/
def State.frameReached (s : State) (f : CabinetFrame) (gap : Gap) : State :=
  ((s.takeMeasurements f).passToBattery gap).qualify.frameCutoff

/-- The Supply Monitor at that point: measurements, presence, qualification and the cutoff timer. -/
structure SupplyRead (f : CabinetFrame) (s k : State) : Prop where
  fields : k.supply = { s.supply with
    meas := frameMeasurements f, remote := frameRemote f, chargerFault := frameChargerFault f, lastSeq := some f.seq, freshness := .fresh,
    freshTimer := startAt s.now (sec 1), present := decide (supplyPresentLevel s.unit ≤ f.supply.toNat),
    qualification := k.supply.qualification, qualifyTimer := k.supply.qualifyTimer, cutoffTimer := k.supply.cutoffTimer }
  qualifies : supplyPresentLevel s.unit ≤ f.supply.toNat → s.supply.qualification = .unqualified →
    k.supply.qualification = .qualifying ∧ k.supply.qualifyTimer = startAt s.now (sec (supplyQualifyTime s.unit))
  stays : supplyPresentLevel s.unit ≤ f.supply.toNat → s.supply.qualification ≠ .unqualified →
    k.supply.qualification = s.supply.qualification ∧ k.supply.qualifyTimer = s.supply.qualifyTimer
  absent : ¬ supplyPresentLevel s.unit ≤ f.supply.toNat → k.supply.qualification = .unqualified ∧ k.supply.qualifyTimer = none
  cutoffTimer : k.supply.cutoffTimer = if (s.supply.power = .carry ∨ s.supply.power = .conserve) ∧
      ¬ supplyPresentLevel s.unit ≤ f.supply.toNat ∧ f.battery.toNat ≤ cutoffVoltage s.batteryTable then
    (if s.supply.cutoffTimer.isSome then s.supply.cutoffTimer else startAt s.now (sec 10)) else none

/-- The frame's step 4: presence and qualification, from the measurements taken. -/
structure Qualified (f : CabinetFrame) (s p : State) : Prop where
  fields : p.supply = { (s.takeMeasurements f).supply with
    present := decide (supplyPresentLevel s.unit ≤ f.supply.toNat), qualification := p.supply.qualification, qualifyTimer := p.supply.qualifyTimer }
  qualifies : supplyPresentLevel s.unit ≤ f.supply.toNat → s.supply.qualification = .unqualified →
    p.supply.qualification = .qualifying ∧ p.supply.qualifyTimer = startAt s.now (sec (supplyQualifyTime s.unit))
  stays : supplyPresentLevel s.unit ≤ f.supply.toNat → s.supply.qualification ≠ .unqualified →
    p.supply.qualification = s.supply.qualification ∧ p.supply.qualifyTimer = s.supply.qualifyTimer
  absent : ¬ supplyPresentLevel s.unit ≤ f.supply.toNat → p.supply.qualification = .unqualified ∧ p.supply.qualifyTimer = none

theorem State.qualify_qualified {b : State} (hsupply : b.supply = (s.takeMeasurements f).supply) (hunit : b.unit = s.unit) (hnow : b.now = s.now) :
    Qualified f s b.qualify := by
  have hshows : b.showsSupply = decide (supplyPresentLevel s.unit ≤ f.supply.toNat) := by
    rw [State.showsSupply, hunit, hsupply]
    rfl
  have hunq : b.supply.qualification = s.supply.qualification ∧ b.supply.qualifyTimer = s.supply.qualifyTimer := by
    rw [hsupply]
    exact ⟨rfl, rfl⟩
  have htimer : b.timer (sec (supplyQualifyTime b.unit)) = startAt s.now (sec (supplyQualifyTime s.unit)) := by rw [State.timer, hnow, hunit]
  unfold State.qualify
  rw [hshows]
  by_cases hpres : supplyPresentLevel s.unit ≤ f.supply.toNat
  · rw [if_pos (decide_eq_true hpres)]
    by_cases hq : s.supply.qualification = .unqualified
    · rw [if_pos (hunq.1.trans hq), htimer]
      refine ⟨?_, fun _ _ => ⟨rfl, rfl⟩, fun _ hne => absurd hq hne, fun hno => absurd hpres hno⟩
      rw [decide_eq_true hpres, ← hsupply]
      rfl
    · rw [if_neg fun h => hq (hunq.1.symm.trans h)]
      refine ⟨?_, fun _ h => absurd h hq, fun _ _ => hunq, fun hno => absurd hpres hno⟩
      rw [decide_eq_true hpres, ← hsupply]
      rfl
  · rw [if_neg (by simpa using hpres)]
    refine ⟨?_, fun h => absurd h hpres, fun h => absurd h hpres, fun _ => ⟨rfl, rfl⟩⟩
    rw [decide_eq_false hpres, ← hsupply]
    rfl

theorem State.frameCutoff_read {p : State} (h : Qualified f s p) (htable : p.batteryTable = s.batteryTable) (hnow : p.now = s.now) :
    SupplyRead f s p.frameCutoff := by
  obtain ⟨hfields, hqualifies, hstays, habsent⟩ := h
  have hsame : p.supply.power = s.supply.power ∧ p.supply.cutoffTimer = s.supply.cutoffTimer ∧
      p.supply.present = decide (supplyPresentLevel s.unit ≤ f.supply.toNat) ∧ p.supply.meas = frameMeasurements f := by
    rw [hfields]
    exact ⟨rfl, rfl, rfl, rfl⟩
  obtain ⟨hpower, hcutoff, hpresent, hmeas⟩ := hsame
  have hlow : (p.supply.onBattery ∧ !p.supply.present ∧ p.belowCutoff) ↔ (s.supply.power = .carry ∨ s.supply.power = .conserve) ∧
      ¬ supplyPresentLevel s.unit ≤ f.supply.toNat ∧ f.battery.toNat ≤ cutoffVoltage s.batteryTable := by
    rw [SupplyMonitor.onBattery, State.belowCutoff, hpower, hpresent, hmeas, htable]
    simp [frameMeasurements]
  have htimer : p.timer (sec 10) = startAt s.now (sec 10) := by rw [State.timer, hnow]
  have heq : p.frameCutoff = p.setSupply { p.supply with
      cutoffTimer := if (s.supply.power = .carry ∨ s.supply.power = .conserve) ∧
          ¬ supplyPresentLevel s.unit ≤ f.supply.toNat ∧ f.battery.toNat ≤ cutoffVoltage s.batteryTable then
        (if s.supply.cutoffTimer.isSome then s.supply.cutoffTimer else startAt s.now (sec 10)) else none } := by
    unfold State.frameCutoff
    by_cases hc : (s.supply.power = .carry ∨ s.supply.power = .conserve) ∧
        ¬ supplyPresentLevel s.unit ≤ f.supply.toNat ∧ f.battery.toNat ≤ cutoffVoltage s.batteryTable
    · rw [if_pos (hlow.2 hc), if_pos hc, hcutoff]
      by_cases hruns : s.supply.cutoffTimer.isSome = true
      · rw [if_pos hruns, if_pos hruns, State.setSupply_cutoffTimer hcutoff]
      · rw [if_neg hruns, if_neg hruns, State.startCutoff, htimer]
    · rw [if_neg fun h => hc (hlow.1 h), if_neg hc]
  rw [heq]
  refine ⟨?_, hqualifies, hstays, habsent, rfl⟩
  generalize hd : p.supply = d at hfields
  rw [hfields]
  rfl

theorem OnFrame.batteryFrame (hnothing : u.nothingPending) : OnFrame u (u.batteryFrame gap) := by
  have hread : OnFrame u (u.readingsTaken gap) := .readingsTaken gap
  have htest : ∀ x : State, x.nothingPending → OnFrame x x.frameTest := fun x hx => by
    by_cases hrun : x.battery.testState = .running
    · have hmeasured : OnFrame x x.measureTest := .setBattery _
      rw [State.frameTest_running hrun]
      split
      · exact hmeasured.trans (.abortTest _ _ hx)
      · split
        · exact hmeasured.trans (.abortTest _ _ hx)
        · split
          · exact hmeasured.trans (.abortTest _ _ hx)
          · exact hmeasured
    · rw [State.frameTest, if_neg hrun]
      exact .refl x
  have hstate : ∀ x : State, OnFrame x x.frameState := fun x => by
    obtain ⟨b, hb, -⟩ := x.frameState_only
    rw [hb]
    exact .setBattery b
  rw [State.batteryFrame_eq]
  exact hread.trans ((htest _ (hread.nothing hnothing)).trans ((hstate _).trans .chargerUpdate))

theorem OnPower.qualify (v : State) : OnPower v v.qualify := by
  unfold State.qualify
  split
  · split <;> exact .setSupply _
  · exact .setSupply _

theorem OnPower.frameCutoff (v : State) : OnPower v v.frameCutoff := by
  unfold State.frameCutoff State.startCutoff
  split
  · split
    · exact .refl v
    · exact .setSupply _
  · exact .setSupply _

/-! ## The statements of a frame speak of the unit, the links, the reports and the tables alone -/

section
variable {b k : State} (hbattery : k.battery = b.battery) (htable : k.batteryTable = b.batteryTable)
include hbattery htable

theorem State.unit_congr : k.absorbTarget = b.absorbTarget ∧ k.floatTarget = b.floatTarget ∧ k.testMinimum = b.testMinimum ∧
    k.soc = b.soc ∧ k.chargerContent = b.chargerContent := by
  have habsorb : k.absorbTarget = b.absorbTarget := by rw [State.absorbTarget, State.absorbTarget, htable, hbattery]
  have hfloat : k.floatTarget = b.floatTarget := by rw [State.floatTarget, State.floatTarget, htable, hbattery]
  refine ⟨habsorb, hfloat, ?_, ?_, ?_⟩
  · rw [State.testMinimum, State.testMinimum, htable, hbattery]
  · rw [State.soc, State.soc, htable, hbattery]
  · rw [State.chargerContent, State.chargerContent, htable, hbattery, habsorb, hfloat]

theorem ChargeTaken.congr (h : ChargeTaken f s b) (hlinks : k.links = b.links) : ChargeTaken f s k := by
  obtain ⟨habsorb, hfloat, -, hsoc, hcontent⟩ := State.unit_congr hbattery htable
  simp only [ChargeTaken, FrameRests, OutsideWindow, FrameLeavesRest, BulkOrFloat, Handed, hbattery, hlinks, habsorb, hfloat, hsoc, hcontent]
  exact h

theorem TestTaken.congr (h : TestTaken f s b) (hreports : s.seq.energyWait = none → k.reports = b.reports) : TestTaken f s k := by
  obtain ⟨habsorb, -, hmin, -, -⟩ := State.unit_congr hbattery htable
  have hreport : ∀ cause, frameAbortReport f s k cause = frameAbortReport f s b cause := fun cause => by
    rw [frameAbortReport, frameAbortReport, hbattery, hmin]
  have haborted : ∀ cause, FrameAborted f s b cause → FrameAborted f s k cause := fun cause ha => by
    obtain ⟨h1, h2, h3, h4, h5, h6, h7, h8⟩ := ha
    rw [FrameAborted, hbattery, hreport]
    exact ⟨h1, h2, h3, h4, h5, h6, h7, fun hwait => (hreports hwait).trans (h8 hwait)⟩
  obtain ⟨henergy, hwindow, hfault, hmeasured⟩ := h
  simp only [TestTaken, FrameRests, OutsideWindow, hbattery, habsorb]
  refine ⟨fun he => ?_, fun he ho => ?_, fun he ho hf => ?_, hmeasured⟩
  · obtain ⟨ha, hc⟩ := henergy he
    have hk := haborted _ ha
    rw [FrameAborted, hbattery] at hk
    exact ⟨hk, hc⟩
  · obtain ⟨ha, hc⟩ := hwindow he ho
    have hk := haborted _ ha
    rw [FrameAborted, hbattery] at hk
    exact ⟨hk, hc⟩
  · obtain ⟨ha, hc⟩ := hfault he ho hf
    have hk := haborted _ ha
    rw [FrameAborted, hbattery] at hk
    exact ⟨hk, hc⟩

end

theorem TemperatureTaken.congr {b k : State} (h : TemperatureTaken f s b) (hkept : b.battery.SameReadings k.battery) : TemperatureTaken f s k := by
  obtain ⟨-, -, hstate, hheld, hhold, -, -⟩ := hkept
  rw [TemperatureTaken, hstate, hheld, hhold]
  exact h

/-- A state with the same battery, reports, links and tables has been read alike. -/
theorem BatteryRead.congr {b k : State} (h : BatteryRead f gap s b) (hbattery : k.battery = b.battery) (hreports : k.reports = b.reports)
    (hlinks : k.links = b.links) (htable : k.batteryTable = b.batteryTable) : BatteryRead f gap s k := by
  obtain ⟨hq, hcurrent, htemperature, hhealth, hidle, hrunning, htest⟩ := h
  refine ⟨by rw [hbattery]; exact hq, by rw [hbattery]; exact hcurrent, htemperature.congr (by rw [hbattery]; exact .refl _),
    by rw [hbattery]; exact hhealth, fun hi => ?_, by rw [hbattery]; exact hrunning, fun hr hc => (htest hr hc).congr hbattery htable fun _ => hreports⟩
  obtain ⟨h1, h2, h3⟩ := hidle hi
  rw [hbattery, hreports]
  exact ⟨h1, h2, h3.congr hbattery htable hlinks⟩

/-- What a frame has reached before the power-state rules. -/
theorem State.frameReached_read (hnothing : s.nothingPending) :
    OnPower s (s.frameReached f gap) ∧ SupplyRead f s (s.frameReached f gap) ∧
      (s.supply.restoreMark = true → BatteryRead f gap s (s.frameReached f gap)) ∧
      (s.supply.restoreMark = false → (s.frameReached f gap).battery = s.battery ∧ (s.frameReached f gap).reports = s.reports) := by
  have hbattery : s.supply.restoreMark = true → (s.takeMeasurements f).passToBattery gap = (s.takeMeasurements f).batteryFrame gap :=
    fun hmark => if_pos hmark
  have hnone : s.supply.restoreMark = false → (s.takeMeasurements f).passToBattery gap = s.takeMeasurements f := fun hmark =>
    if_neg (by rw [State.takeMeasurements]; simpa using hmark)
  have hframe : OnFrame (s.takeMeasurements f) ((s.takeMeasurements f).passToBattery gap) := .andIf fun _ => .batteryFrame hnothing
  have hread : s.supply.restoreMark = true → BatteryRead f gap s ((s.takeMeasurements f).passToBattery gap) := fun hmark => by
    rw [hbattery hmark]
    exact State.batteryFrame_read hnothing
  rw [State.frameReached]
  have honly : OnPower s ((s.takeMeasurements f).passToBattery gap) := (OnPower.setSupply _).trans hframe.onPower
  have hquiet : s.supply.restoreMark = false → ((s.takeMeasurements f).passToBattery gap).battery = s.battery ∧
      ((s.takeMeasurements f).passToBattery gap).reports = s.reports := fun hmark => by
    rw [hnone hmark]
    exact ⟨rfl, rfl⟩
  have hsupply := hframe.supply
  generalize (s.takeMeasurements f).passToBattery gap = b at honly hread hquiet hsupply
  have hq := OnPower.qualify b
  have hc := OnPower.frameCutoff b.qualify
  obtain ⟨⟨hnow, -⟩, -⟩ := honly.same
  obtain ⟨⟨hqnow, -⟩, -⟩ := hq.same
  have hkeeps : b.qualify.frameCutoff.battery = b.battery ∧ b.qualify.frameCutoff.reports = b.reports ∧ b.qualify.frameCutoff.links = b.links := by simp
  obtain ⟨hkbattery, hkreports, hklinks⟩ := hkeeps
  refine ⟨honly.trans (hq.trans hc), ?_, fun hmark => (hread hmark).congr hkbattery hkreports hklinks (hq.trans hc).tables.2, fun hmark => ?_⟩
  · exact State.frameCutoff_read (State.qualify_qualified hsupply honly.tables.1 hnow) (hq.tables.2.trans honly.tables.2) (hqnow.trans hnow)
  · rw [hkbattery, hkreports]
    exact hquiet hmark

end

end Sys2Proof.Machine
end

