-- ==== Sys2Proof/Proofs/Cabinet.lean ====
section
/-! The accepted CABINET frame (O28): readings, power state and re-check put together. -/

namespace Sys2Proof.Machine

section
variable {f : CabinetFrame} {gap : Gap} {s k r t : State} {e : Bool}

/-- The presence, the voltage and the charge on which the power-state rules turn, in the words of the frame. -/
theorem SupplyRead.inputs (h : SupplyRead f s k) (honly : OnPower s k) (hhealth : k.battery.health = s.battery.health) (hsoc : t.soc = k.soc) :
    k.supply.power = s.supply.power ∧ k.supply.restoreMark = s.supply.restoreMark ∧
      (k.supply.present = true ↔ supplyPresentLevel s.unit ≤ f.supply.toNat) ∧
      (k.belowCutoff = true ↔ f.battery.toNat ≤ cutoffVoltage s.batteryTable) ∧
      (k.batteryLow = true ↔ s.battery.health = .failed ∨ t.soc ≤ conserveLevel s.batteryTable) ∧ (k.Starts ↔ s.Starts) := by
  obtain ⟨-, htable⟩ := honly.tables
  have hmark : k.supply.restoreMark = s.supply.restoreMark := by rw [h.fields]
  have hpower : k.supply.power = s.supply.power := by rw [h.fields]
  refine ⟨hpower, hmark, ?_, ?_, ?_, ?_⟩
  · rw [h.fields]
    exact decide_eq_true_iff
  · rw [State.belowCutoff, htable, h.fields]
    exact decide_eq_true_iff
  · rw [State.batteryLow_iff, hhealth, hsoc, htable]
  · rw [State.Starts, State.Starts, hpower, hmark]

/-- The next power state in the words of the frame (R107 to R110, R113). -/
theorem SupplyRead.power_eq (h : SupplyRead f s k) (honly : OnPower s k) (hhealth : k.battery.health = s.battery.health) (hsoc : t.soc = k.soc)
    (e : Bool) : k.nextPower e =
      (match s.supply.power with
        | .start => if ¬ s.supply.restoreMark = true then .start else if supplyPresentLevel s.unit ≤ f.supply.toNat then .normal
          else if s.battery.health = .failed ∨ t.soc ≤ conserveLevel s.batteryTable then .conserve else .carry
        | .normal => if supplyPresentLevel s.unit ≤ f.supply.toNat then .normal
          else if s.battery.health = .failed ∨ t.soc ≤ conserveLevel s.batteryTable then .conserve else .carry
        | .carry => if e = true ∧ ¬ supplyPresentLevel s.unit ≤ f.supply.toNat then .cutoff
          else if s.battery.health = .failed ∨ t.soc ≤ conserveLevel s.batteryTable then .conserve else .carry
        | .conserve => if e = true ∧ ¬ supplyPresentLevel s.unit ≤ f.supply.toNat then .cutoff else .conserve
        | .cutoff => if supplyPresentLevel s.unit ≤ f.supply.toNat then .carry else .cutoff) := by
  obtain ⟨hpower, hmark, hpresent, -, hlow, -⟩ := h.inputs honly hhealth hsoc
  rw [State.nextPower, hpower, hmark]
  cases s.supply.power with
  | start | normal | carry | conserve | cutoff => simp only [hpresent, hlow]

/-- An end of START changes the power state (R110). -/
theorem State.nextPower_of_starts (h : k.Starts) (e : Bool) : k.nextPower e ≠ .start := by
  rw [State.nextPower, h.1]
  dsimp only
  rw [if_neg (not_not.2 h.2)]
  (repeat' split) <;> simp

/-- The entry choice after a frame: REST where the frame rests, else BULK or FLOAT (R123). -/
theorem SupplyRead.entryChoice (h : SupplyRead f s k) (honly : OnPower s k) (hkept : k.battery.SameReadings r.battery) :
    (FrameRests f s r → k.entryChoice = .rest) ∧ (¬ FrameRests f s r → k.entryChoice = BulkOrFloat r) := by
  obtain ⟨-, htable⟩ := honly.tables
  have hcondition : k.restCondition = true ↔ FrameRests f s r := by
    have hfault : k.supply.chargerFault = f.flags.getLsbD 1 := by rw [h.fields]; rfl
    have hfresh : k.supply.freshness = .fresh := by rw [h.fields]
    simp [State.restCondition, State.outsideWindow, State.fresh, FrameRests, OutsideWindow, hfault, hfresh, htable, hkept.workingTemp]
  obtain ⟨-, -, hstate, -⟩ := hkept
  refine ⟨fun hr => if_pos (hcondition.2 hr), fun hr => ?_⟩
  rw [State.entryChoice, if_neg fun hc => hr (hcondition.1 hc), BatteryUnit.bulkChoice, BulkOrFloat, hstate]

/-- The charge state under the power states (R123). -/
theorem ChargeNoticed.of_ruled (hread : BatteryRead f gap s k) (hruled : PowerRuled e k r) (hsupply : SupplyRead f s k) (honly : OnPower s k) :
    ChargeNoticed f s r := by
  have hpower : k.supply.power = s.supply.power := by rw [hsupply.fields]
  have hseconds : k.cmd.seconds = s.cmd.seconds := by
    obtain ⟨-, -, -, -, -, hcmd, -⟩ := honly.same
    rw [hcmd]
  have hoff : s.battery.testState = .idle → s.battery.charge = .off → k.battery.charge = .off := fun hidle hc => by
    obtain ⟨-, -, hcharge, -⟩ := hread.idle hidle
    exact hcharge hc
  refine ⟨fun hne hnormal => ?_, fun hsame hidle hc => ?_, fun hstart hnormal hidle hc => ?_⟩
  · obtain ⟨hcharge, htest, ⟨htimer, hrebulk, hfull⟩, hkept, haborted⟩ := hruled.off (by rw [hpower]; exact hne) hnormal
    refine ⟨hcharge, htest, htimer, hrebulk, hfull, fun hrun => ?_⟩
    obtain hruns | ⟨hidle, hresult, htime, hduration, hretry⟩ := hread.running hrun
    · rw [hseconds] at haborted
      exact haborted hruns
    · obtain ⟨h1, h2, h3, h4⟩ := hkept hidle
      exact ⟨h1.trans hresult, h2.trans htime, h3.trans hduration, h4.trans hretry⟩
  · rw [hruled.same (hsame.trans hpower.symm)]
    exact hoff hidle hc
  · obtain ⟨-, hchoice⟩ := hruled.on (by rw [hnormal, hpower, hstart]; exact (by simp)) hnormal
    obtain ⟨hrests, hclear⟩ := hsupply.entryChoice honly hruled.readings
    rw [hchoice (hoff hidle hc)]
    exact ⟨hrests, hclear⟩

/-- The cutoff timer that a frame leaves (R109, R110). -/
theorem PowerRuled.cutoffTimer_eq (hruled : PowerRuled e k r) (hsupply : SupplyRead f s k) (honly : OnPower s k) (hhealth : k.battery.health = s.battery.health) :
    r.supply.cutoffTimer =
      (if (s.supply.power = .carry ∨ s.supply.power = .conserve) ∧ r.supply.power = s.supply.power ∧
          ¬ supplyPresentLevel s.unit ≤ f.supply.toNat ∧ f.battery.toNat ≤ cutoffVoltage s.batteryTable then
        (if s.supply.cutoffTimer.isSome then s.supply.cutoffTimer else startAt s.now (sec 10))
      else if s.Starts ∧ ¬ supplyPresentLevel s.unit ≤ f.supply.toNat ∧ f.battery.toNat ≤ cutoffVoltage s.batteryTable then startAt s.now (sec 10)
      else none) := by
  obtain ⟨hpower, -, hpresent, hbelow, -, hstarts⟩ := hsupply.inputs (t := k) honly hhealth rfl
  obtain ⟨⟨hnow, -⟩, -⟩ := honly.same
  by_cases hsame : r.supply.power = s.supply.power
  · have hnot : ¬ s.Starts := fun hs => by
      have hne := State.nextPower_of_starts (hstarts.2 hs) e
      rw [← hruled.power, hsame] at hne
      exact hne hs.1
    rw [if_neg (c := s.Starts ∧ _) fun hs => hnot hs.1, hruled.same (hsame.trans hpower.symm), hsupply.cutoffTimer]
    simp only [hpower, true_and]
  · rw [if_neg (c := _ ∧ r.supply.power = s.supply.power ∧ _) fun hs => hsame hs.2.1, hruled.cutoffTimer (by rw [hpower]; exact hsame), State.timer, hnow]
    simp only [hstarts, hpresent, hbelow]

/-- The report of a frame with no test running (R114). -/
theorem PowerRuled.report_eq (hruled : PowerRuled e k r) (hsupply : SupplyRead f s k) (honly : OnPower s k) (hhealth : k.battery.health = s.battery.health)
    (hidle : k.battery.testState = .idle) (hreports : k.reports = s.reports) :
    (r.supply.power = s.supply.power → r.reports = s.reports) ∧
      (r.supply.power ≠ s.supply.power →
        r.reports = (s.reports.enter (powerClass r.supply.power) s.cmd.seconds
          (.power r.supply.power s.supply.power
            (if r.supply.power = .cutoff then .exhausted
             else if r.supply.power = .conserve ∧ s.battery.health = .failed then .healthFailed
             else if s.supply.power = .normal then .supplyLost
             else if s.supply.power = .cutoff then .supplyReturned
             else if r.supply.power = .conserve then .socLow
             else .startDone)
            f.supply.toNat f.battery.toNat r.soc s.battery.health)).1) := by
  have hpower : k.supply.power = s.supply.power := by rw [hsupply.fields]
  have hmeas : k.supply.meas = frameMeasurements f := by rw [hsupply.fields]
  obtain ⟨-, -, -, -, -, hcmd, -⟩ := honly.same
  refine ⟨fun hsame => ?_, fun hne => ?_⟩
  · rw [hruled.same (hsame.trans hpower.symm), hreports]
  · rw [hruled.report (by rw [hpower]; exact hne) hidle, hreports, hcmd, hpower, hmeas, hhealth, State.changeCause, hpower, hhealth]
    rfl

/-- A re-check reads alike through the grant. -/
theorem RecloseRechecked.grant (h : RecloseRechecked s t) : RecloseRechecked s t.grant := by
  simp only [RecloseRechecked, SamePath, SameDrive, LockedOut, State.grant_frame] at h ⊢
  exact h

end

/-- Settles O28: what the frame has reached, then the power-state rules, then the re-check. -/
theorem cabinetFrameTaken : Obligations.CabinetFrameTaken := by
  unfold Obligations.CabinetFrameTaken
  intro f s gap hgap hnothing
  obtain ⟨hkonly, hsupply, hread, hquiet⟩ := State.frameReached_read (f := f) (gap := gap) hnothing
  have hruled := State.powerRules_ruled (e := (s.takeMeasurements f).exhaustedBy gap) (hkonly.nothing hnothing)
  have hexec : exec (.cabinetFrame f) s =
      .next ((s.frameReached f gap).powerRules ((s.takeMeasurements f).exhaustedBy gap)).energyRecheck.grant := by
    have htaken : s.takeCabinet f = s.acceptCabinet f gap := by rw [State.takeCabinet, hgap]
    show Host.Outcome.next (s.takeCabinet f).grant = _
    rw [htaken]
    rfl
  generalize s.frameReached f gap = k at hkonly hsupply hread hquiet hruled hexec
  have hpowered := hruled.only
  generalize hr : k.powerRules ((s.takeMeasurements f).exhaustedBy gap) = r at hruled hexec hpowered
  have honly : OnPower s r := hkonly.trans hpowered
  have hrnothing := honly.nothing hnothing
  have hkeeps := State.energyRecheck_keeps hrnothing
  have hrechecked := State.energyRecheck_rechecked honly (by rw [hruled.supply, hsupply.fields])
  have hqsame : r.energyRecheck.supply = r.supply ∧ r.energyRecheck.tags = r.tags ∧ r.energyRecheck.cmd = r.cmd ∧
      SameClock r r.energyRecheck := by simp [SameClock]
  have hinFlight : r.energyRecheck.store.inFlight = r.store.inFlight := by
    unfold State.energyRecheck
    split <;> simp
  have hwaits : s.seq.energyWait = none → r.energyRecheck = r := fun hnone => by
    obtain ⟨-, -, ⟨hseq, -⟩, -⟩ := honly.same
    exact if_neg (by rw [hseq, hnone]; exact fun h => Bool.noConfusion h.2)
  generalize r.energyRecheck = q at hexec hkeeps hrechecked hqsame hinFlight hwaits
  obtain ⟨hqsupply, hqtags, hqcmd, hqclock⟩ := hqsame
  have hhealth : k.battery.health = s.battery.health := by
    cases hmark : s.supply.restoreMark with
    | true => exact (hread hmark).health
    | false => rw [(hquiet hmark).1]
  obtain ⟨-, -, -, -, -, -, -, hgsupply, hgbattery, hgreports, -, hgcmd, hglinks, -⟩ := q.grant_frame
  obtain ⟨hgtables, -⟩ := q.grant_store
  have htsupply : q.grant.supply = r.supply := hgsupply.trans hqsupply
  have htbattery : q.grant.battery = r.battery := hgbattery.trans hkeeps.battery
  have htlinks : q.grant.links = r.links := hglinks.trans hkeeps.links
  have htable : q.grant.batteryTable = r.batteryTable := by rw [State.batteryTable, State.table, hgtables, hkeeps.tables]; rfl
  obtain ⟨-, -, -, hrsoc, -⟩ := State.unit_congr htbattery htable
  have hksoc : r.soc = k.soc := by
    rw [State.soc, State.soc, hpowered.tables.2, hruled.readings.1]
  have hsoc : q.grant.soc = k.soc := hrsoc.trans hksoc
  obtain ⟨hpower, hmarks, hpresent, hbelow, -, hstarts⟩ := hsupply.inputs hkonly hhealth hsoc
  have hnext := hsupply.power_eq hkonly hhealth hsoc ((s.takeMeasurements f).exhaustedBy gap)
  rw [← hruled.power] at hnext
  have hkept := hruled.readings
  have hfields : r.supply.meas = frameMeasurements f ∧ r.supply.remote = frameRemote f ∧ r.supply.chargerFault = frameChargerFault f ∧
      r.supply.lastSeq = some f.seq ∧ r.supply.freshness = .fresh ∧ r.supply.freshTimer = startAt s.now (sec 1) ∧
      r.supply.present = decide (supplyPresentLevel s.unit ≤ f.supply.toNat) := by
    rw [hruled.supply, hsupply.fields]
    exact ⟨rfl, rfl, rfl, rfl, rfl, rfl, rfl⟩
  obtain ⟨hmeas, hremote, hfault, hseq, hfresh, hfreshTimer, hpres⟩ := hfields
  refine ⟨_, hexec, by rw [htsupply, hmeas], by rw [htsupply, hremote]; rfl, by rw [htsupply, hfault]; rfl, by rw [htsupply, hseq],
    by rw [htsupply, hfresh], by rw [htsupply, hfreshTimer], by rw [htsupply, hpres], fun hmark => ?charge, fun hmark hstart => ?unrestored,
    fun hg => ?exhausted, fun hp hs => ?unqualified, fun hp hs => ?started, fun hp => ?absent, ?power, ?cutoffTimer, fun hc hp => ?returned,
    fun hb he hp => ?cutoff, fun hidle hwait hgrant => ?report, fun hmark => ⟨?temperature, ?noticed, fun hn hp hidle => ?chargeTaken, fun hn hp hrun hc => ?test⟩,
    hrechecked.grant, fun hgrant => ?tags, ?cmd, ?mag, ?clock⟩
  case charge =>
    obtain ⟨hq, hcurrent, -⟩ := hkept
    rw [htbattery, hq, hcurrent]
    exact ⟨(hread hmark).q, (hread hmark).current⟩
  case unrestored =>
    have hstill : r.supply.power = s.supply.power := by rw [hnext, hstart, hmark]; rfl
    rw [htsupply, htbattery, hstill, hruled.same (hstill.trans hpower.symm)]
    exact ⟨hstart, (hquiet hmark).1⟩
  case exhausted =>
    rw [hg, State.exhaustedBy, Bool.and_eq_true, State.integrate_snd]
    exact Iff.rfl
  case unqualified =>
    have hkeptq := hruled.qualification fun h => hs (hstarts.1 h)
    rw [htsupply, hkeptq.1, hkeptq.2]
    exact ⟨hsupply.qualifies hp, hsupply.stays hp⟩
  case started =>
    rw [htsupply]
    have hjudged := hruled.starts (hstarts.2 hs)
    rw [if_pos (hpresent.2 hp)] at hjudged
    exact hjudged
  case absent =>
    rw [htsupply]
    by_cases hs : k.Starts
    · have hjudged := hruled.starts hs
      rw [if_neg fun h => hp (hpresent.1 h)] at hjudged
      exact hjudged
    · have hkeptq := hruled.qualification hs
      rw [hkeptq.1, hkeptq.2]
      exact hsupply.absent hp
  case power =>
    rw [htsupply]
    exact hnext
  case cutoffTimer =>
    rw [htsupply]
    exact hruled.cutoffTimer_eq hsupply hkonly hhealth
  case returned =>
    rw [htsupply]
    exact hruled.returned (hpower.trans hc) (hpresent.2 hp)
  case cutoff =>
    have hdown : r.supply.power = .cutoff := by
      rw [hnext]
      rcases hb with hb | hb <;> rw [hb] <;> exact if_pos ⟨he, hp⟩
    have hne : r.supply.power ≠ k.supply.power := by
      rw [hdown, hpower]
      rcases hb with hb | hb <;> rw [hb] <;> simp
    obtain ⟨hstage, hasked⟩ := hruled.draining hne hdown
    rw [htsupply, htbattery]
    exact ⟨hstage, (hruled.off hne (by rw [hdown]; exact (by simp))).charge, State.grant_recordAsked (hkeeps.asked hasked)⟩
  case report =>
    have hkidle : k.battery.testState = .idle ∧ k.reports = s.reports := by
      cases hmark : s.supply.restoreMark with
      | true =>
        obtain ⟨h1, h2, -⟩ := (hread hmark).idle hidle
        exact ⟨h1, h2⟩
      | false =>
        obtain ⟨h1, h2⟩ := hquiet hmark
        exact ⟨by rw [h1]; exact hidle, h2⟩
    have hreport := hruled.report_eq hsupply hkonly hhealth hkidle.1 hkidle.2
    rw [htsupply, hrsoc, hgreports, hwaits hwait]
    exact hreport
  case temperature => exact (hread hmark).temperature.congr (by rw [htbattery]; exact hkept)
  case noticed =>
    have hnoticed := ChargeNoticed.of_ruled (hread hmark) hruled hsupply hkonly
    simp only [ChargeNoticed, FrameRests, OutsideWindow, BulkOrFloat, htsupply, htbattery]
    exact hnoticed
  case chargeTaken =>
    have hstill : r = k := hruled.same (by rw [hnext, hn, hpower, hn]; exact if_pos hp)
    obtain ⟨-, -, hcharge⟩ := (hread hmark).idle hidle
    exact hcharge.congr (by rw [htbattery, hstill]) (by rw [htable, hstill]) (by rw [htlinks, hstill])
  case test =>
    have hstill : r = k := hruled.same (by rw [hnext, hn, hpower, hn]; exact if_pos hp)
    exact ((hread hmark).test hrun hc).congr (by rw [htbattery, hstill]) (by rw [htable, hstill]) fun hwait => by
      rw [hgreports, hwaits hwait, hstill]
  case tags =>
    obtain ⟨-, -, -, -, htags, -, hstore⟩ := honly.same
    exact State.grant_tags_of_nothing hgrant (hqtags.trans htags) (hinFlight.trans (by rw [hstore]))
  case cmd =>
    obtain ⟨-, -, -, -, -, hcmd, -⟩ := honly.same
    rw [hgcmd, hqcmd, hcmd]
  case mag =>
    obtain ⟨-, ⟨-, hmag, -⟩, -⟩ := honly.same
    simp [hkeeps.mag, hmag]
  case clock =>
    obtain ⟨⟨c1, c2, c3, c4⟩, -⟩ := honly.same
    obtain ⟨d1, d2, d3, d4⟩ := hqclock
    simp [SameClock, c1, c2, c3, c4, d1, d2, d3, d4]

end Sys2Proof.Machine
end
